-- ==== Sys2Proof/Word.lean ====
section
/-! DEFINITION. Word types and their plainest arithmetic. -/

namespace Sys2Proof

/-- A byte of a frame, of a body or of the DRAM. -/
abbrev Byte := BitVec 8

/-- The settable 48-bit count of microseconds (R176); it wraps modulo 2^48. -/
abbrev Clock := BitVec 48

/-- The monotonic 32-bit count of milliseconds (R176); it wraps modulo 2^32. -/
abbrev Tick := BitVec 32

/-- The 16-bit count of the sessions opened on a port (R164); it wraps. -/
abbrev SessNo := BitVec 16

/-- One of the ports P0 to P3. -/
abbrev Port := Fin 4

/-- One of a port's eight request slots (R184). -/
abbrev SlotId := Fin 8

/-- One of the 32 stream ids (R1). -/
abbrev StreamId := Fin 32

/-- One of the 64 cursor ids (R85). -/
abbrev CursorId := Fin 64

/-- One of the Map Unit's four walk trackers (R53). -/
abbrev TrackerId := Fin 4

/-- A sequence number: 32 bits, it never wraps (R5, R10), so it is counted exactly. -/
abbrev Seq := Nat

/-- A logical page number: 32 bits, it never wraps while sequences do not. -/
abbrev Lpn := Nat

/-- A physical page number (R24). -/
abbrev Ppn := Nat

/-- The largest value of a 32-bit counter (R160). -/
def maxCount : Nat := 4294967295

/-- The last sequence a stream can commit (R5, R10). -/
def lastSeq : Nat := 4294967294

/-- A counter's rise: it stops at its largest value (R160). -/
def satAdd (top a b : Nat) : Nat := min top (a + b)

/-- A 32-bit counter raised by `n` (R160). -/
def count (c n : Nat) : Nat := satAdd maxCount c n

end Sys2Proof
end

