-- ==== Sys2Proof/Syntax.lean ====
section
/-! DEFINITION. The commands of the WJ-320: the data that messages between its blocks carry, and `Instr`, one constructor
for each row of the table of operations and events. -/

namespace Sys2Proof

/-! ### Blocks, sessions and requests -/

/-- The core blocks that take an abandon order (R205, R206). -/
inductive CoreBlock where
  | sd | pp | mu | ae | de | ru | tb | mp
  deriving DecidableEq, Repr

/-- Whoever sends or receives a message. -/
inductive Block where
  | pe (p : Port)
  | core (b : CoreBlock)
  | nu
  | dev
  | holder
  | outside
  deriving DecidableEq, Repr

/-- A session: its port and number (R164). -/
structure SessId where
  port : Port
  number : SessNo
  deriving DecidableEq, Repr

/-- A request as an owning block receives it: the session it passed the gate under, and its slot (R187). -/
structure Req where
  sess : SessId
  slot : SlotId
  deriving DecidableEq, Repr

/-- One of a port's two delivery buffers (R110). -/
structure BufId where
  port : Port
  idx : Fin 2
  deriving DecidableEq, Repr

/-- The device state as it is reported to the Port Engines and in a HELLO REPLY (R199, R210). -/
inductive DevReport where
  | initializing | ready | restarting | failed
  deriving DecidableEq, Repr

/-- Session roles (R164). -/
inductive Role where
  | client | admin
  deriving DecidableEq, Repr

/-- A set of notice classes (R152). -/
structure Mask where
  pool : Bool
  stream : Bool
  cursor : Bool
  deriving DecidableEq, Repr

/-! ### Streams, pages and map records -/

/-- Stream states (R1, table 1.2). -/
inductive StreamState where
  | absent | opened | sealed | deleting
  deriving DecidableEq, Repr

/-- Why a stream is SEALED (table 1.1). -/
inductive SealCause where
  | none | request | exhausted
  deriving DecidableEq, Repr

/-- What happens when an append needs a page and none is granted (table 1.1). -/
inductive Policy where
  | hold | dropOldest
  deriving DecidableEq, Repr

/-- A map record (R44). -/
structure MapRec where
  ppn : Ppn
  firstSeq : Seq
  lastSeq : Seq
  newestStamp : Clock
  closed : Bool
  deriving DecidableEq, Repr

/-- SD's range answer (R48, R58, R134). -/
structure RangeInfo where
  state : StreamState
  head : Option Lpn
  tail : Option Lpn
  tailRec : Option MapRec
  deriving DecidableEq, Repr

/-- SD's place answer (R71). -/
structure PlaceInfo where
  state : StreamState
  sealCause : SealCause
  committed : Seq
  tail : Option Lpn
  tailRec : Option MapRec
  deriving DecidableEq, Repr

/-- SD's answer to a refusal question (R74). -/
structure RefusalInfo where
  state : StreamState
  policy : Policy
  head : Option Lpn
  tail : Option Lpn
  deriving DecidableEq, Repr

/-- SD's view answer to RU (R133). -/
structure ViewInfo where
  state : StreamState
  settled : Bool
  keep : Nat
  ageLimit : Nat
  committed : Seq
  deriving DecidableEq, Repr

/-- The oldest page of a stream as MU reports it to RU (R134). -/
structure HeadPage where
  head : Lpn
  tail : Lpn
  record : MapRec
  deriving DecidableEq, Repr

/-- MU's answer to a head read: the stream's state, and its head page unless it holds none (R134). -/
structure HeadAnswer where
  state : StreamState
  page : Option HeadPage
  deriving DecidableEq, Repr

/-- Why RU asked for a head read (R133, R144, R146). -/
inductive HeadWhy where
  | evaluation | recycle | teardown
  deriving DecidableEq, Repr

/-- Whoever asked MU for a search by sequence (R57). -/
inductive Searcher where
  | delivery (b : BufId)
  | positioning (c : CursorId)
  deriving DecidableEq, Repr

/-- The requester reference of a lookup by LPN (R48). -/
inductive Looker where
  | delivery (b : BufId)
  | probe (r : Searcher)
  deriving DecidableEq, Repr

/-- What a range question of MU's is for (R48, R55, R58, R134). -/
inductive RangeRef where
  | lookup (lpn : Lpn) (r : Looker)
  | search (r : Searcher)
  | queued (lpn : Lpn)
  | headRead (why : HeadWhy)
  deriving DecidableEq, Repr

/-- MU's answers to lookups by LPN (R48, R49, R55) and by sequence (R57). -/
inductive MapAnswer where
  | found (lpn : Lpn) (r : MapRec)
  | notHeld
  | retry
  | below
  | above
  | nothing
  | gone
  deriving DecidableEq, Repr

/-- Why PP refuses an allocation or a claim (R29, R30, R32). -/
inductive Cause where
  | ceiling | shared
  deriving DecidableEq, Repr

/-- PP's answer to a create or tune claim (R29, R30). -/
inductive ClaimAnswer where
  | granted
  | refused (c : Cause)
  deriving DecidableEq, Repr

/-- PP's answer to a hold request (R33). -/
inductive HoldAnswer where
  | granted | notOwned | releasing
  deriving DecidableEq, Repr

/-- The kinds of a release (chapter 7). -/
inductive RelKind where
  | normal | age | recycle | delete
  deriving DecidableEq, Repr

/-- Whoever asked PP for held(s): SD for a STREAM_INFO, or RU in a teardown (R22, R31, R147). -/
inductive HeldAsker where
  | sd (r : Req)
  | ru
  deriving DecidableEq, Repr

/-- A counter update that reaches SD (R23). -/
inductive CounterRaise where
  | refused
  | dropped (n : Nat)
  | damaged
  deriving DecidableEq, Repr

/-- One of the three answers an evaluation waits for (R133). -/
inductive EvalPart where
  | view (v : ViewInfo)
  | head (h : HeadAnswer)
  | floor (f : Option Seq)
  deriving DecidableEq, Repr

/-! ### Memory Port operations -/

/-- The issuer's reference of an operation, which says what the operation is (R195). -/
inductive MpRef where
  | entryWrite
  | padWrite
  | headerRead (b : BufId)
  | payloadRead (b : BufId)
  | mapWrite (s : StreamId) (lpn : Lpn) (r : MapRec)
  | slotClear (s : StreamId) (lpn : Lpn)
  | walkRead (t : TrackerId)
  | headRead (s : StreamId) (why : HeadWhy) (state : StreamState) (head tail : Lpn)
  deriving DecidableEq, Repr

/-- An operation as it is issued: page, offset, length, data of a write, and reference (R195). -/
structure MpOp where
  ref : MpRef
  page : Ppn
  offset : Nat
  len : Nat
  data : List Byte
  deriving DecidableEq, Repr

/-! ### Cursors -/

/-- Cursor states (table 5.1). -/
inductive CursorState where
  | free | active | paused | seeking | stalled | detached | orphaned
  deriving DecidableEq, Repr

/-! ### Answers and notices -/

/-- Status codes of a REPLY (R214). -/
inductive Status where
  | ok | malformed | unknownKind | noSession | notAdmin | adminHeld | tagBusy | busy | outOfRange | noStream
  | streamExists | sealed | full | noRoom | noCursor | notOwner | wrongState | beforeHead | beyondTail
  | beyondDelivered | inUse | gone | seqExhausted | starting | deviceFailed
  deriving DecidableEq, Repr

/-- SD's answer to a bind or a rebind: a grant carries the effective head and committed_seq (R17, R90, R104). -/
inductive BindAnswer where
  | granted (head committed : Seq)
  | refused (st : Status)
  deriving DecidableEq, Repr

/-- The eight port counters (R161). -/
structure PortCounters where
  framesReceived : Nat
  crcErrors : Nat
  lengthErrors : Nat
  byteGapAborts : Nat
  overruns : Nat
  requestsRefused : Nat
  deliveriesSent : Nat
  noticesSent : Nat
  deriving DecidableEq, Repr

/-- The six pool counters (R41). -/
structure PoolCounters where
  allocations : Nat
  refusals : Nat
  normalReleases : Nat
  forcedReleases : Nat
  recycles : Nat
  lowestShared : Nat
  deriving DecidableEq, Repr

/-- The fourteen map counters (R62). -/
structure MapCounters where
  lookups : Nat
  tailAnswers : Nat
  hits : Nat
  misses : Nat
  merges : Nat
  walks : Nat
  retries : Nat
  fills : Nat
  evictions : Nat
  invalidations : Nat
  mapWrites : Nat
  slotClears : Nat
  searches : Nat
  flushes : Nat
  deriving DecidableEq, Repr

/-- The four stream counters (R23). -/
structure StreamCounters where
  appended : Nat
  refused : Nat
  dropped : Nat
  damaged : Nat
  deriving DecidableEq, Repr

/-- The four cursor counters (table 5.1, R107). -/
structure CursorCounters where
  delivered : Nat
  redeliveries : Nat
  skipped : Nat
  damaged : Nat
  deriving DecidableEq, Repr

/-- What PORT_STATUS reports (R162, R216). -/
structure PortReport where
  port : Port
  link : Bool
  grant : Bool
  sessionOpen : Bool
  role : Role
  number : SessNo
  keepalive : Nat
  mask : Mask
  slotsInUse : Nat
  cursors : Nat
  queueLength : Nat
  lost : Nat
  counters : PortCounters
  deriving DecidableEq, Repr

/-- What POOL_STATUS reports (R40, R216). -/
structure PoolReport where
  size : Nat
  free : Nat
  allocated : Nat
  releasing : Nat
  unused : Nat
  sharedFree : Nat
  pressure : Bool
  lowMark : Nat
  clearMark : Nat
  counters : PoolCounters
  deriving DecidableEq, Repr

/-- What STREAM_INFO reports (R22, R216). -/
structure StreamReport where
  id : StreamId
  state : StreamState
  sealCause : SealCause
  settled : Bool
  policy : Policy
  reservation : Nat
  ceiling : Nat
  keep : Nat
  ageLimit : Nat
  head : Option Lpn
  tail : Option Lpn
  headSeq : Seq
  committed : Seq
  releaseMark : Option Seq
  held : Nat
  cursorCount : Nat
  pendingAppends : Nat
  counters : StreamCounters
  name : List Byte
  deriving DecidableEq, Repr

/-- What CURSOR_INFO reports (R107, R216). -/
structure CursorReport where
  id : CursorId
  state : CursorState
  stream : Option StreamId
  owner : Option SessId
  durable : Bool
  retaining : Bool
  window : Nat
  ackTimeout : Nat
  retryLimit : Nat
  ackSeq : Seq
  nextSeq : Seq
  deliveredTop : Seq
  inFlight : Nat
  lowest : Seq
  due : Nat
  pendingGap : Nat
  hintPresent : Bool
  label : Nat
  returnState : Option CursorState
  counters : CursorCounters
  deriving DecidableEq, Repr

/-- The results a REPLY carries (R213). -/
inductive Result where
  | empty
  | hello (number : SessNo) (role : Role) (dev : DevReport) (cursors : Nat)
  | ping (clock : Clock) (tick : Tick)
  | port (r : PortReport)
  | pool (r : PoolReport)
  | stream (r : StreamReport)
  | cursor (r : CursorReport)
  | map (valid busy queued : Nat) (counters : MapCounters)
  | streamId (id : StreamId)
  | clock (c : Clock)
  | append (seq : Seq) (stamp : Clock)
  | opened (id : CursorId) (start : Seq)
  | sequence (q : Seq)
  | mask (m : Mask)
  deriving DecidableEq, Repr

/-- An answer to a request: status, detail byte and results (R188, R213). -/
structure Answer where
  status : Status
  detail : Nat
  result : Result
  deriving DecidableEq, Repr

/-- The eleven notice kinds (R150). -/
inductive NoticeKind where
  | pressureOn | pressureOff | streamFull | streamSealed | streamDeleted | cursorGap | cursorStalled
  | cursorDrained | entryDamaged | roleChanged | restart
  deriving DecidableEq, Repr

/-- An event as a block raises it at NU: kind, optional fields, and for the cursor and always-sent kinds the session it is
addressed to (R150, R151). -/
structure Event where
  kind : NoticeKind
  stream : Option StreamId
  cursor : Option CursorId
  value : Option Nat
  addressee : Option SessId
  deriving DecidableEq, Repr

/-- A notice record (R150). -/
structure Notice where
  kind : NoticeKind
  clock : Clock
  stream : Option StreamId
  cursor : Option CursorId
  value : Option Nat
  lost : Nat
  deriving DecidableEq, Repr

/-! ### The commands -/

/-- One constructor for each row of the table of operations and events, in the table's order. -/
inductive Instr where
  | resetNLow
  | resetNRelease (memsize : Bool)
  | calibrationDone (ok : Bool)
  | memoryCheckDone (equal : Bool)
  | freeListBuild
  | buildComplete
  | stateReport (p : Port) (d : DevReport)
  | readyReportAtRu
  | linkLock (p : Port)
  | linkLoss (p : Port)
  | frameByte (p : Port) (b : Byte)
  | byteGapAbort (p : Port)
  | answerArrival (p : Port) (slot : SlotId) (a : Answer)
  | transmitOffer (p : Port)
  | frameSent (p : Port)
  | keepaliveExpiry (p : Port) (deadline : Tick)
  | hello (p : Port) (slot : SlotId)
  | adminClaim (p : Port)
  | adminRelease (p : Port)
  | adminClaimAnswer (p : Port) (granted : Bool)
  | bye (r : Req)
  | ping (r : Req)
  | portStatus (r : Req) (named : Port)
  | portGrant (r : Req) (named : Port)
  | clockSet (r : Req)
  | noticeMask (r : Req)
  | streamCreate (r : Req)
  | streamTune (r : Req)
  | streamSeal (r : Req)
  | streamDelete (r : Req)
  | streamInfo (r : Req)
  | createClaimAnswer (s : StreamId) (a : ClaimAnswer)
  | tuneClaimAnswer (s : StreamId) (a : ClaimAnswer)
  | heldAnswerAtSd (r : Req) (s : StreamId) (held : Nat)
  | pageOpen (s : StreamId) (ppn : Ppn)
  | pageClose (s : StreamId)
  | commit (s : StreamId) (seq : Seq) (stamp : Clock)
  | releaseMarkSet (s : StreamId) (m : Seq)
  | headRaise (s : StreamId) (m : Seq)
  | releaseMarkClear (s : StreamId)
  | sealAnswer (s : StreamId)
  | bind (s : StreamId) (c : CursorId)
  | rebind (s : StreamId) (c : CursorId)
  | unbind (s : StreamId)
  | admission (s : StreamId) (r : Req)
  | appendLeave (s : StreamId)
  | counterUpdate (s : StreamId) (u : CounterRaise)
  | emptiedReport (s : StreamId)
  | streamClearReport (s : StreamId)
  | rangeQuestion (s : StreamId) (ref : RangeRef)
  | placeQuestion (s : StreamId)
  | refusalQuestion (s : StreamId)
  | positionQuestion (s : StreamId) (c : CursorId)
  | viewQuestion (s : StreamId)
  | scanQuestion
  | createClaim (s : StreamId) (reservation ceiling : Nat)
  | tuneClaim (s : StreamId) (reservation ceiling : Nat)
  | deleteClaim (s : StreamId) (ceiling : Nat)
  | streamAbsentReport (s : StreamId)
  | heldQuestion (s : StreamId) (asker : HeldAsker)
  | allocationRequest (s : StreamId)
  | holdRequest (s : StreamId) (ppn : Ppn) (b : BufId)
  | holdDrop (ppn : Ppn)
  | handOver (s : StreamId) (ppn : Ppn) (kind : RelKind)
  | poolTune (r : Req)
  | poolStatus (r : Req)
  | mapWrite (s : StreamId) (lpn : Lpn) (record : MapRec)
  | mapWriteDone (s : StreamId) (lpn : Lpn) (record : MapRec)
  | slotClear (s : StreamId) (lpn : Lpn)
  | slotClearDone (s : StreamId) (lpn : Lpn)
  | lookupByLpn (s : StreamId) (lpn : Lpn) (r : Looker)
  | rangeAnswer (s : StreamId) (ref : RangeRef) (info : RangeInfo)
  | walkDone (t : TrackerId) (bytes : List Byte)
  | lookupBySequence (s : StreamId) (q : Seq) (r : Searcher)
  | deleteOrderAtMu (s : StreamId)
  | mapFlush (r : Req)
  | mapStatus (r : Req)
  | headRead (s : StreamId) (why : HeadWhy)
  | headReadDone (s : StreamId) (why : HeadWhy) (state : StreamState) (head tail : Lpn) (bytes : List Byte)
  | append (r : Req)
  | admissionAnswer (r : Req) (admitted : Bool)
  | placeAnswer (s : StreamId) (info : PlaceInfo)
  | allocationGrant (s : StreamId) (ppn : Ppn)
  | allocationRefusal (s : StreamId) (cause : Cause)
  | refusalAnswer (s : StreamId) (info : RefusalInfo)
  | recycledPage (s : StreamId) (ppn : Ppn)
  | noPage (s : StreamId)
  | entryWriteDone
  | padWriteDone
  | sealOrder (s : StreamId)
  | deleteOrderAtAe (s : StreamId)
  | cursorOpen (r : Req)
  | bindAnswer (c : CursorId) (a : BindAnswer)
  | searchAnswer (c : CursorId) (a : MapAnswer)
  | positionAnswer (c : CursorId) (head committed : Seq)
  | cursorSeek (r : Req)
  | cursorPause (r : Req)
  | cursorResume (r : Req)
  | cursorClose (r : Req)
  | cursorAttach (r : Req)
  | rebindAnswer (c : CursorId) (a : BindAnswer)
  | cursorInfo (r : Req)
  | ack (r : Req)
  | sessionEndAtDe (sess : SessId)
  | deleteOrderAtDe (s : StreamId)
  | commitReport (s : StreamId) (seq : Seq)
  | sealedSettledReport (s : StreamId)
  | lookupAnswer (b : BufId) (a : MapAnswer)
  | trackerFreeReport
  | holdAnswer (b : BufId) (a : HoldAnswer)
  | headerReadDone (b : BufId) (bytes : List Byte)
  | payloadReadDone (b : BufId) (bytes : List Byte)
  | deliverTaken (b : BufId)
  | deliverSent (b : BufId)
  | deliverDropped (b : BufId)
  | ackDeadlineExpiry (c : CursorId) (seq : Seq) (tries : Nat)
  | advanceOrder (s : StreamId) (m : Seq) (kind : RelKind)
  | floorQuestion (s : StreamId)
  | returnedCursorGap (c : CursorId) (gap : Nat) (sess : SessId)
  | evaluationTrigger (s : StreamId)
  | evaluationAnswer (s : StreamId) (part : EvalPart)
  | releaseMarkSetAnswer (s : StreamId)
  | advanceOrderAnswer (s : StreamId) (done : Bool)
  | headRaiseAnswer (s : StreamId)
  | clearDoneReport (s : StreamId) (lpn : Lpn)
  | pageReturnedReport (s : StreamId) (ppn : Ppn)
  | recycleRequest (s : StreamId)
  | recycleHeadAnswer (s : StreamId) (h : HeadAnswer)
  | ageScanExpiry (deadline : Tick)
  | scanAnswer (ids : List StreamId)
  | teardownHandover (s : StreamId)
  | teardownHeadAnswer (s : StreamId) (h : HeadAnswer)
  | teardownHeldAnswer (s : StreamId) (held : Nat)
  | noticeEvent (e : Event)
  | sessionOpenReport (sess : SessId) (mask : Mask)
  | sessionEndReportAtNu (sess : SessId)
  | noticeTaken (p : Port)
  | noticeSentReport (sess : SessId) (notice : Notice) (sent : Bool)
  | deviceRestart (r : Req)
  | teardownOrder (p : Port)
  | abandonOrder (b : CoreBlock)
  | abandonDoneReport (b : CoreBlock)
  | portSettledReport (p : Port)
  | nuResetReport
  | mpOperationIssue (op : MpOp)
  | mpOperationFinished
  | readyReportAtPp
  | deleteClaimAnswer (s : StreamId)
  deriving DecidableEq, Repr

end Sys2Proof
end

