-- ==== Sys2Proof/Decode.lean ====
section
/-! DEFINITION. Words that spell a command: no row of the table gives bits, so no word does. -/

namespace Sys2Proof

/-- The command that a word spells by the table's bits: none, since no row has bits (log entry 47). -/
def decodeTableWord (_nbits _w : Nat) : Option Instr := none

end Sys2Proof
end

