-- ==== Sys2Proof/Config.lean ====
section
/-! DEFINITION. The fixed sizes of the part, and the values the spec leaves open. -/

namespace Sys2Proof.Config

/-- Bytes of a page (R194). -/
def pageBytes : Nat := 2048

/-- Pages of the DRAM for a sampled MEMSIZE (R24, R194). -/
def pages (memsize : Bool) : Nat := if memsize then 65536 else 32768

/-- The first pool page: the map region lies below it (R24, R43). -/
def firstPool : Nat := 256

/-- The pool size (R24). -/
def poolSize (memsize : Bool) : Nat := pages memsize - firstPool

/-- A byte of DRAM that nothing has written since the contents became undefined for the `epoch`-th time (R200): a free
value, nothing constrains it (log entry 5). -/
opaque dramByte : (epoch addr : Nat) → BitVec 8

/-- At which of its four comparisons a start-up check that fails finds a byte that differs, counted from 0 (R202): a free value
(log entry 63). -/
opaque unequalAt : (use : Nat) → Fin 4

/-- How many bytes an operation that is cut off had written (R200, R206): a free value (log entry 6). -/
opaque bytesDone : (use : Nat) → Nat

end Sys2Proof.Config
end

