-- ==== Sys2Proof/Machine/Blocks.lean ====
section
/-! DEFINITION. The state of each block of the WJ-320, one structure for a block, as its chapter gives it. -/

namespace Sys2Proof.Machine

/-! ### Stream Directory (chapter 1) -/

/-- A stream descriptor (table 1.1). -/
structure Descriptor where
  name : List Byte
  state : StreamState
  sealCause : SealCause
  settled : Bool
  policy : Policy
  reservation : Nat
  ceiling : Nat
  keep : Nat
  ageLimit : Nat
  nextLpn : Lpn
  headLpn : Option Lpn
  tailLpn : Option Lpn
  headSeq : Seq
  committed : Seq
  releaseMark : Option Seq
  tailRec : Option MapRec
  cursorCount : Nat
  pendingAppends : Nat
  counters : StreamCounters
  deriving DecidableEq, Repr

/-- The five tunable values of a stream (R11, R13). -/
structure QuotaValues where
  policy : Policy
  reservation : Nat
  ceiling : Nat
  keep : Nat
  ageLimit : Nat
  deriving DecidableEq, Repr

/-- The five tunable fields as a body carries them: absent where its presence byte says so, policy as its code (R211). -/
structure QuotaFields where
  policy : Option Nat
  reservation : Option Nat
  ceiling : Option Nat
  keep : Option Nat
  ageLimit : Option Nat
  deriving DecidableEq, Repr

/-- A create in progress: the name and values set aside with the descriptor (R11). -/
structure Create where
  req : Req
  name : List Byte
  values : QuotaValues
  deriving DecidableEq, Repr

/-- A tune whose claim is outstanding at PP (R14). -/
structure Tune where
  req : Req
  values : QuotaValues
  deriving DecidableEq, Repr

/-- The three claims that a stream may have outstanding at PP (R13). -/
inductive ClaimKind where
  | create | tune | delete
  deriving DecidableEq, Repr

/-- A STREAM_TUNE that waits (R13). `awaits`: the claims that were outstanding when it arrived and that PP has not answered
yet. -/
structure WaitingTune where
  req : Req
  fields : QuotaFields
  awaits : List ClaimKind
  deriving DecidableEq, Repr

/-- What SD has under way for one stream id (R11, R13, R19, R20). -/
structure StreamWork where
  create : Option Create
  tune : Option Tune
  deleteClaim : Bool
  waiting : List WaitingTune
  delete : Option Req
  handedOver : Bool
  emptied : Bool
  clear : Bool
  deriving DecidableEq, Repr

/-- The Stream Directory. -/
structure SD where
  streams : Vector Descriptor 32
  works : Vector StreamWork 32
  deriving DecidableEq, Repr

/-! ### Page Pool (chapter 2) -/

/-- The record of a page that is not FREE: RELEASING or ALLOCATED (R25). -/
structure PageRec where
  ppn : Ppn
  releasing : Bool
  owner : StreamId
  holds : Nat
  recycle : Bool
  deriving DecidableEq, Repr

/-- A quota record (R28). -/
structure Quota where
  active : Bool
  reservation : Nat
  ceiling : Nat
  held : Nat
  deriving DecidableEq, Repr

/-- A run of consecutive page numbers of the free list. -/
structure Run where
  first : Ppn
  count : Nat
  deriving DecidableEq, Repr

/-- The Page Pool. `free` is the free list in order, its neighbours that ascend by one kept as one run; `pages` holds the
records of the pages that are not FREE. -/
structure PP where
  free : List Run
  pages : List PageRec
  quotas : Vector Quota 32
  lowMark : Nat
  clearMark : Nat
  pressure : Bool
  ready : Bool
  counters : PoolCounters
  deriving DecidableEq, Repr

/-! ### Map Unit (chapter 3) -/

/-- A valid entry of the map cache and the number of the physical entry that holds it (R50, R51). -/
structure CacheLine where
  num : Fin 32
  stream : StreamId
  lpn : Lpn
  record : MapRec
  deriving DecidableEq, Repr

/-- A BUSY walk tracker (R53). -/
structure Tracker where
  stream : StreamId
  lpn : Lpn
  waiters : List Looker
  noFill : Bool
  deriving DecidableEq, Repr

/-- A lookup-queue entry; `asking`: it has been taken for resolution (R53, R55); `answer`: its range answer, kept while entries
ahead of it are still in the queue (R56). -/
structure QueueEntry where
  stream : StreamId
  lpn : Lpn
  waiters : List Looker
  asking : Bool
  answer : Option RangeInfo
  deriving DecidableEq, Repr

/-- An open search: `stop` is one above the bound hi of R58, and `probe` the LPN being probed. -/
structure Search where
  who : Searcher
  stream : StreamId
  q : Seq
  lo : Lpn
  stop : Lpn
  best : Option (Lpn × MapRec)
  probe : Option Lpn
  deriving DecidableEq, Repr

/-- The Map Unit. `cache` holds the valid entries, the most recently used first. -/
structure MU where
  cache : List CacheLine
  trackers : Vector (Option Tracker) 4
  queue : List QueueEntry
  searches : List Search
  waiting : List Searcher
  owed : Bool
  writes : Vector Nat 32
  clearDue : Vector Bool 32
  counters : MapCounters
  deriving DecidableEq, Repr

/-! ### Append Engine (chapter 4) -/

/-- The states of an APPEND in the queue (R69). -/
inductive JobState where
  | waiting | placing | allocating | recycling | writing
  deriving DecidableEq, Repr

/-- An APPEND in the append queue: `size` is its stored size, `page`, `offset` the place it is written to. -/
structure Job where
  req : Req
  stream : StreamId
  size : Nat
  admitted : Bool
  state : JobState
  recycled : Bool
  marked : Bool
  seq : Seq
  stamp : Clock
  page : Ppn
  offset : Nat
  deriving DecidableEq, Repr

/-- The Append Engine. `episode` holds yes where the flag of R75 is RAISED. -/
structure AE where
  queue : List Job
  fills : Vector Nat 32
  episode : Vector Bool 32
  sealOwed : Vector Bool 32
  deriving DecidableEq, Repr

/-! ### Retention Unit (chapter 7) -/

/-- The phases of a release record (R131). -/
inductive Phase where
  | idle | evaluating | marking | advancing | raising | clearing | returning
  deriving DecidableEq, Repr

/-- The page of a release (R131). -/
structure RelPage where
  lpn : Lpn
  ppn : Ppn
  firstSeq : Seq
  lastSeq : Seq
  deriving DecidableEq, Repr

/-- A release record (R131), with the answers of its evaluation that have arrived (R133). -/
structure Release where
  phase : Phase
  kind : Option RelKind
  page : Option RelPage
  m : Option Seq
  reevaluate : Bool
  recycleWanted : Bool
  teardown : Bool
  view : Option ViewInfo
  head : Option HeadAnswer
  floor : Option (Option Seq)
  deriving DecidableEq, Repr

/-- The Retention Unit; `scan` is the age scan deadline where one is registered (R145). -/
structure RU where
  recs : Vector Release 32
  scan : Option Tick
  deriving DecidableEq, Repr

/-! ### Memory Port and DRAM (chapter 11) -/

/-- The requester classes (R195). -/
inductive MpClass where
  | appendWrite | deliveryRead | map
  deriving DecidableEq, Repr

/-- The DRAM's bytes: the listed ones, addresses rising; `epoch` names the undefined contents that an unlisted byte has
(R200). -/
structure Dram where
  cells : List Host.Cell
  epoch : Nat
  deriving DecidableEq, Repr

/-- The Memory Port: its three class queues, the operation being performed, and the DRAM. -/
structure MP where
  calibrated : Bool
  appendWrites : List MpOp
  deliveryReads : List MpOp
  maps : List MpOp
  last : MpClass
  busy : Option MpOp
  dram : Dram
  deriving DecidableEq, Repr

/-! ### Delivery Engine (chapters 5 and 6) -/

/-- A position hint (R85). -/
structure Hint where
  lpn : Lpn
  ppn : Ppn
  offset : Nat
  seq : Seq
  deriving DecidableEq, Repr

/-- An in-flight entry; the deadline counts while `due` is no (R122). -/
structure InFlight where
  seq : Seq
  lpn : Lpn
  offset : Nat
  tries : Nat
  due : Bool
  deadline : Tick
  deriving DecidableEq, Repr

/-- The question DE has outstanding for a cursor (table 5.1). -/
inductive CursorWork where
  | none | bind | rebind | search | position
  deriving DecidableEq, Repr

/-- Where a cursor is to be positioned (R89). -/
inductive Start where
  | head
  | tail
  | at (q : Seq) (exact : Bool)
  deriving DecidableEq, Repr

/-- A request that waits in its slot for a cursor's work (R88). -/
inductive CursorRequest where
  | seek (start : Nat) (mode : Nat) (target : Nat)
  | pause
  | resume
  | close (label : Nat)
  | attach (label : Nat)
  deriving DecidableEq, Repr

/-- A waiting request and who sent it. -/
structure WaitingRequest where
  req : Req
  what : CursorRequest
  deriving DecidableEq, Repr

/-- A cursor record (table 5.1). `req`, `start` and `found` are the request, target and map answer of the work outstanding
(R91); `searchOut`: a search of the cursor's is unanswered (R85). -/
structure Cursor where
  state : CursorState
  label : Nat
  stream : Option StreamId
  owner : Option SessId
  durable : Bool
  retaining : Bool
  window : Nat
  ackTimeout : Nat
  retryLimit : Nat
  ackSeq : Seq
  nextSeq : Seq
  deliveredTop : Seq
  hint : Option Hint
  list : List InFlight
  pendingGap : Nat
  work : CursorWork
  returnState : Option CursorState
  minStart : Seq
  endDue : Bool
  counters : CursorCounters
  req : Option Req
  start : Start
  found : Option MapAnswer
  searchOut : Bool
  waiting : List WaitingRequest
  deriving DecidableEq, Repr

/-- A stream view (R109). -/
structure View where
  committed : Seq
  settled : Bool
  deriving DecidableEq, Repr

/-- The states of a delivery buffer (R110). -/
inductive BufferState where
  | idle | locating | holding | reading | ready | sending
  deriving DecidableEq, Repr

/-- The lookup that a LOCATING buffer waits for (R113, R115). -/
inductive Locate where
  | page | crossing | sequence
  deriving DecidableEq, Repr

/-- A delivery buffer (R110). `redelivery`: its kind; `owner`: the cursor's owner at the choice; `size`: the entry's stored
size, absent while unknown and for an unreachable entry; `checksum`, `length`: from the header. -/
structure Buffer where
  state : BufferState
  cursor : CursorId
  owner : Option SessId
  redelivery : Bool
  seq : Seq
  lpn : Lpn
  ppn : Ppn
  offset : Nat
  locate : Locate
  hold : Bool
  abandoned : Bool
  checksum : Nat
  length : Nat
  size : Option Nat
  stamp : Clock
  payload : List Byte
  damaged : Bool
  deriving DecidableEq, Repr

/-- The Delivery Engine; `last` is the round-robin position of each port (R130). -/
structure DE where
  cursors : Vector Cursor 64
  views : Vector View 32
  buffers : Vector (Vector Buffer 2) 4
  deferred : Vector Bool 64
  last : Vector CursorId 4
  deriving DecidableEq, Repr

/-! ### Notice Unit (chapter 8) -/

/-- What NU keeps for one port (R153, R157). -/
structure NuPort where
  isOpen : Bool
  number : SessNo
  mask : Mask
  queue : List Notice
  lost : Nat
  draining : Bool
  deriving DecidableEq, Repr

/-- The Notice Unit. -/
structure NU where
  ports : Vector NuPort 4
  deriving DecidableEq, Repr

/-! ### Port Engines (chapters 9 and 10) -/

/-- Framer states (R179); BODY counts the body bytes still to come, HEADER and CHECK the bytes. -/
inductive FramerState where
  | hunting
  | header (left : Nat)
  | body (left : Nat)
  | check (left : Nat)
  deriving DecidableEq, Repr

/-- The framer: its state, the rescan buffer, and the microseconds since the last byte on the line (R179, R182). -/
structure Framer where
  state : FramerState
  buf : List Byte
  gap : Nat
  deriving DecidableEq, Repr

/-- Slot states (R184). -/
inductive SlotState where
  | free | held | answered
  deriving DecidableEq, Repr

/-- A request slot (R184). -/
structure Slot where
  state : SlotState
  tag : Byte
  kind : Byte
  body : List Byte
  owner : Option SessId
  isVoid : Bool
  deriving DecidableEq, Repr

/-- Where a queued REPLY comes from (R189). -/
inductive ReplySource where
  | slot (i : SlotId)
  | reserve
  deriving DecidableEq, Repr

/-- A queued REPLY: its source, tag and body (R189, R213). -/
structure Reply where
  source : ReplySource
  tag : Byte
  body : List Byte
  deriving DecidableEq, Repr

/-- What the transmitter is sending (R190). -/
inductive TxSource where
  | reply (r : ReplySource)
  | deliver (b : BufId)
  | notice (sess : SessId) (n : Notice)
  deriving DecidableEq, Repr

/-- The frame on the line; `reported`: it has already been reported dropped (R190). -/
structure Tx where
  source : TxSource
  bytes : List Byte
  reported : Bool
  deriving DecidableEq, Repr

/-- What a session's end waits for (R164). -/
inductive EndPending where
  | none | bye | restart
  deriving DecidableEq, Repr

/-- An ADMIN HELLO that waits for the holder's answer (R167). -/
structure Claim where
  slot : SlotId
  keepalive : Nat
  mask : Mask
  deriving DecidableEq, Repr

/-- A session record (R164). -/
structure Session where
  isOpen : Bool
  endPending : EndPending
  role : Role
  keepalive : Nat
  deadline : Option Tick
  mask : Mask
  number : SessNo
  claim : Option Claim
  deriving DecidableEq, Repr

/-- A Port Engine. `link`: UP; `prefer`: the arbiter's preference is DELIVER; `dev`: its copy of the device state; `settled`:
it has reported its port settled in this restart. -/
structure PE where
  link : Bool
  framer : Framer
  slots : Vector Slot 8
  replies : List Reply
  reserve : Bool
  tx : Option Tx
  preferDeliver : Bool
  lastCursor : CursorId
  sess : Session
  grant : Bool
  counters : PortCounters
  dev : DevReport
  settled : Bool
  deriving DecidableEq, Repr

/-! ### Time Base and device state (chapters 9 and 11) -/

/-- The Time Base: clock, tick, and microseconds since the tick last rose (R176). -/
structure TB where
  clock : Clock
  tick : Tick
  micros : Nat
  deriving DecidableEq, Repr

/-- The device state, INITIALIZING by its phases (R199). -/
inductive DevState where
  | calibrating | checking | building | ready | restarting | failed
  deriving DecidableEq, Repr

/-- The device state machine. `low`: RESET_N is low; `memsize`: as sampled; `abandonDone`: the blocks whose abandon is done;
`nuReset`: NU has reported its return to its reset values in this teardown. -/
structure Device where
  state : DevState
  low : Bool
  memsize : Bool
  settled : Vector Bool 4
  abandonDone : List CoreBlock
  nuReset : Bool
  deriving DecidableEq, Repr

end Sys2Proof.Machine
end

