-- ==== Sys2Proof/Machine/Flags.lean ====
section
/-! DEFINITION. The codes of chapter 12: statuses, kinds, enumerations, masks and presence bits, and the CRC-16 of frames and
entries. -/

namespace Sys2Proof.Machine

/-- The code of a status (R214). -/
def statusCode : Status → Nat
  | .ok => 0x00
  | .malformed => 0x01
  | .unknownKind => 0x02
  | .noSession => 0x03
  | .notAdmin => 0x04
  | .adminHeld => 0x05
  | .tagBusy => 0x06
  | .busy => 0x07
  | .outOfRange => 0x08
  | .noStream => 0x09
  | .streamExists => 0x0A
  | .sealed => 0x0B
  | .full => 0x0C
  | .noRoom => 0x0D
  | .noCursor => 0x0E
  | .notOwner => 0x0F
  | .wrongState => 0x10
  | .beforeHead => 0x11
  | .beyondTail => 0x12
  | .beyondDelivered => 0x13
  | .inUse => 0x14
  | .gone => 0x15
  | .seqExhausted => 0x16
  | .starting => 0x17
  | .deviceFailed => 0x18

/-- The detail byte of a TAG_BUSY, DUPLICATE (R213). -/
def duplicateDetail : Nat := 0xFE

/-- The code of a notice kind (R216). -/
def noticeCode : NoticeKind → Nat
  | .pressureOn => 0x01
  | .pressureOff => 0x02
  | .streamFull => 0x10
  | .streamSealed => 0x11
  | .streamDeleted => 0x12
  | .cursorGap => 0x20
  | .cursorStalled => 0x21
  | .cursorDrained => 0x22
  | .entryDamaged => 0x23
  | .roleChanged => 0x30
  | .restart => 0x31

/-- A boolean as a byte (R210). -/
def boolCode (b : Bool) : Nat := if b then 1 else 0

/-- The code of a role (R210). -/
def roleCode : Role → Nat
  | .client => 0
  | .admin => 1

/-- The code of a reported device state (R210). -/
def deviceCode : DevReport → Nat
  | .initializing => 0
  | .ready => 1
  | .restarting => 2
  | .failed => 3

/-- The code of a stream state (R210). -/
def streamCode : StreamState → Nat
  | .absent => 0
  | .opened => 1
  | .sealed => 2
  | .deleting => 3

/-- The code of a seal cause (R210). -/
def sealCode : SealCause → Nat
  | .none => 0
  | .request => 1
  | .exhausted => 2

/-- The code of a policy (R210). -/
def policyCode : Policy → Nat
  | .hold => 0
  | .dropOldest => 1

/-- The policy of a code (R210). -/
def policyOf : Nat → Option Policy
  | 0 => some .hold
  | 1 => some .dropOldest
  | _ => none

/-- The code of a cursor state (R210). -/
def cursorCode : CursorState → Nat
  | .free => 0
  | .active => 1
  | .paused => 2
  | .seeking => 3
  | .stalled => 4
  | .detached => 5
  | .orphaned => 6

/-- The code of a notice mask: the sum of its classes' bits (R210). -/
def maskCode (m : Mask) : Nat :=
  (if m.pool then 1 else 0) + (if m.stream then 2 else 0) + (if m.cursor then 4 else 0)

/-- The mask of a code, absent where the code names an undefined class (R152, R212). -/
def maskOf (v : Nat) : Option Mask :=
  if v < 8 then some ⟨v.testBit 0, v.testBit 1, v.testBit 2⟩ else none

/-- The role of a code (R210). -/
def roleOf : Nat → Option Role
  | 0 => some .client
  | 1 => some .admin
  | _ => none

/-- One bit of the CRC-16 with polynomial x^16 + x^12 + x^5 + 1, not reflected (R65). -/
def crcBit (c : BitVec 16) : BitVec 16 :=
  if c.msb then (c <<< 1) ^^^ 0x1021#16 else c <<< 1

/-- The CRC-16 carried over one byte (R65). -/
def crcByte (c : BitVec 16) (b : Byte) : BitVec 16 :=
  crcBit (crcBit (crcBit (crcBit (crcBit (crcBit (crcBit (crcBit
    (c ^^^ ((b.zeroExtend 16) <<< 8)))))))))

/-- The CRC-16 of a run of bytes: initial value FFFFh, no final inversion (R65). -/
def crc16 (bs : List Byte) : BitVec 16 := bs.foldl crcByte 0xFFFF#16

end Sys2Proof.Machine
end

