-- ==== Sys2Proof/Machine/Operands.lean ====
section
/-! DEFINITION. Bytes and fields: the body of each request kind (R211) with its layout check (R212), entry headers, map slots,
and the fields the part sends (R213, R215, R216). -/

namespace Sys2Proof.Machine

/-! ### Numbers, most significant byte first (R210) -/

/-- The number a run of bytes spells, most significant byte first (R210). -/
def number (bs : List Byte) : Nat := bs.foldl (fun n b => n * 256 + b.toNat) 0

/-- The number in `w` bytes at offset `o` of a body. -/
def field (body : List Byte) (o w : Nat) : Nat := number ((body.drop o).take w)

/-- A number in `w` bytes, most significant first (R210). -/
def encode : (w v : Nat) → List Byte
  | 0, _ => []
  | w + 1, v => BitVec.ofNat 8 (v >>> (8 * w)) :: encode w v

/-! ### The layout check (R212) -/

/-- A layout check's failure is the detail byte of the answer MALFORMED. -/
abbrev Layout (α : Type) := Except Nat α

/-- The body length is as the kind fixes it, or detail 0. -/
def fixed (n : Nat) (body : List Byte) : Layout Unit := if body.length = n then .ok () else .error 0

/-- The byte at offset `o` is a boolean, or the field's number is the detail. -/
def boolField (body : List Byte) (o num : Nat) : Layout Bool :=
  let v := field body o 1
  if v < 2 then .ok (v == 1) else .error num

/-- The presence or flags byte at offset `o` holds no bit but the `n` lowest, or the field's number is the detail. -/
def bitsField (body : List Byte) (o n num : Nat) : Layout Nat :=
  let v := field body o 1
  if v < 2 ^ n then .ok v else .error num

/-- A field that bit `b` of a presence byte marks present (R211). -/
def marked (presence b v : Nat) : Option Nat := if presence.testBit b then some v else none

/-- The five tunable fields that stand at offset `o`, marked by a presence byte (R211). -/
def quotaFields (body : List Byte) (o presence : Nat) : QuotaFields :=
  { policy := marked presence 0 (field body o 1)
    reservation := marked presence 1 (field body (o + 1) 2)
    ceiling := marked presence 2 (field body (o + 3) 2)
    keep := marked presence 3 (field body (o + 5) 2)
    ageLimit := marked presence 4 (field body (o + 7) 4) }

/-- HELLO: role, keepalive interval and mask as codes. -/
structure HelloBody where
  role : Nat
  keepalive : Nat
  mask : Nat
  deriving DecidableEq, Repr

/-- The layout of HELLO. -/
def helloBody (body : List Byte) : Layout HelloBody := do
  fixed 4 body
  return ⟨field body 0 1, field body 1 2, field body 3 1⟩

/-- The layout of a body that holds one id, code or number of `n` bytes. -/
def oneField (n : Nat) (body : List Byte) : Layout Nat := do
  fixed n body
  return field body 0 n

/-- The layout of a body that holds a clear flag alone. -/
def clearBody (body : List Byte) : Layout Bool := do
  fixed 1 body
  boolField body 0 1

/-- The layout of PORT_STATUS, and of STREAM_DELETE: an id and a boolean. -/
def idFlagBody (body : List Byte) : Layout (Nat × Bool) := do
  fixed 2 body
  let b ← boolField body 1 2
  return (field body 0 1, b)

/-- The layout of PORT_GRANT: port and action code. -/
def grantBody (body : List Byte) : Layout (Nat × Nat) := do
  fixed 2 body
  return (field body 0 1, field body 1 1)

/-- The layout of POOL_TUNE: low_mark and clear_mark. -/
def poolTuneBody (body : List Byte) : Layout (Nat × Nat) := do
  fixed 4 body
  return (field body 0 2, field body 2 2)

/-- STREAM_INFO's name of a stream: an id, or a name. -/
inductive StreamName where
  | id (v : Nat)
  | name (bs : List Byte)
  deriving DecidableEq, Repr

/-- The layout of STREAM_INFO. -/
def infoBody (body : List Byte) : Layout StreamName :=
  if body.length = 0 then .error 0
  else
    match field body 0 1 with
    | 0 => if body.length = 2 then .ok (.id (field body 1 1)) else .error 0
    | 1 =>
      if body.length < 2 then .error 0
      else if body.length = 2 + field body 1 1 then .ok (.name (body.drop 2)) else .error 0
    | _ => .error 1

/-- STREAM_CREATE: its fields and the name. -/
structure CreateBody where
  fields : QuotaFields
  name : List Byte
  deriving DecidableEq, Repr

/-- The layout of STREAM_CREATE. -/
def createBody (body : List Byte) : Layout CreateBody :=
  if body.length < 13 then .error 0
  else if body.length ≠ 13 + field body 12 1 then .error 0
  else do
    let p ← bitsField body 0 5 1
    return ⟨quotaFields body 1 p, body.drop 13⟩

/-- The layout of STREAM_TUNE: stream id and fields. -/
def tuneBody (body : List Byte) : Layout (Nat × QuotaFields) := do
  fixed 13 body
  let p ← bitsField body 1 5 2
  return (field body 0 1, quotaFields body 2 p)

/-- The layout of APPEND: stream id and payload. -/
def appendBody (body : List Byte) : Layout (Nat × List Byte) :=
  if body.length = 0 then .error 0 else .ok (field body 0 1, body.drop 1)

/-- Where a cursor is to begin (R210). -/
structure StartFields where
  start : Nat
  mode : Nat
  target : Nat
  deriving DecidableEq, Repr

/-- CURSOR_OPEN. -/
structure OpenBody where
  stream : Nat
  label : Nat
  durable : Bool
  retaining : Bool
  window : Option Nat
  ackTimeout : Option Nat
  retryLimit : Option Nat
  start : StartFields
  deriving DecidableEq, Repr

/-- The layout of CURSOR_OPEN. -/
def openBody (body : List Byte) : Layout OpenBody := do
  fixed 15 body
  let f ← bitsField body 3 2 3
  let p ← bitsField body 4 3 4
  return { stream := field body 0 1, label := field body 1 2
           durable := f.testBit 0, retaining := f.testBit 1
           window := marked p 0 (field body 5 1)
           ackTimeout := marked p 1 (field body 6 2)
           retryLimit := marked p 2 (field body 8 1)
           start := ⟨field body 9 1, field body 10 1, field body 11 4⟩ }

/-- The layout of CURSOR_CLOSE and of CURSOR_ATTACH: cursor id and label. -/
def labelBody (body : List Byte) : Layout (Nat × Nat) := do
  fixed 3 body
  return (field body 0 1, field body 1 2)

/-- The layout of CURSOR_SEEK: cursor id and start. -/
def seekBody (body : List Byte) : Layout (Nat × StartFields) := do
  fixed 7 body
  return (field body 0 1, ⟨field body 1 1, field body 2 1, field body 3 4⟩)

/-- The layout of ACK: cursor id and sequence. -/
def ackBody (body : List Byte) : Layout (Nat × Nat) := do
  fixed 5 body
  return (field body 0 1, field body 1 4)

/-- The layout of a body that is empty. -/
def emptyBody (body : List Byte) : Layout Unit := fixed 0 body

/-- A name a stream may have: 1 to 24 bytes, none 00h (R1). -/
def nameValid (name : List Byte) : Bool :=
  0 < name.length && name.length ≤ 24 && name.all (· != 0)

/-! ### Entries and map slots in DRAM -/

/-- The kind of an entry header (R64); any other code is neither. -/
inductive HeaderKind where
  | entry | pad | other
  deriving DecidableEq, Repr

/-- An entry header's fields (R64). -/
structure Header where
  kind : HeaderKind
  length : Nat
  checksum : Nat
  seq : Seq
  stamp : Clock
  deriving DecidableEq, Repr

/-- The code of a header kind in DRAM (log entry 7). -/
def headerCode : HeaderKind → Nat
  | .entry => 1
  | .pad => 2
  | .other => 0

/-- The header kind of a code in DRAM (log entry 7). -/
def headerKindOf : Nat → HeaderKind
  | 1 => .entry
  | 2 => .pad
  | _ => .other

/-- The 16 bytes of a header (R64, log entry 7). -/
def headerBytes (h : Header) : List Byte :=
  encode 2 (headerCode h.kind) ++ encode 2 h.length ++ encode 2 h.checksum ++ encode 4 h.seq ++ encode 6 h.stamp.toNat

/-- The header that 16 bytes hold (R64, log entry 7). -/
def headerOf (bs : List Byte) : Header :=
  { kind := headerKindOf (field bs 0 2), length := field bs 2 2, checksum := field bs 4 2
    seq := field bs 6 4, stamp := BitVec.ofNat 48 (field bs 10 6) }

/-- The padded length of a payload: the next multiple of 8 (R64). -/
def padded (n : Nat) : Nat := (n + 7) / 8 * 8

/-- The stored size of an entry with a payload of `n` bytes (R64). -/
def storedSize (n : Nat) : Nat := 16 + padded n

/-- The bytes of an entry: header, payload, pad bytes 00h (R64, R65). -/
def entryBytes (seq : Seq) (stamp : Clock) (payload : List Byte) : List Byte :=
  headerBytes ⟨.entry, payload.length, (crc16 payload).toNat, seq, stamp⟩ ++ payload ++
    List.replicate (padded payload.length - payload.length) 0

/-- The bytes of an entry write of stored size `n`: the entry (R64, R77). They are `n` also where the slot has been taken again and
holds another body than the APPEND's: what is too long is cut off, and what is too short is followed by bytes 00h, the model's
choice (log entry 60). -/
def entryOfSize (n : Nat) (seq : Seq) (stamp : Clock) (payload : List Byte) : List Byte :=
  (entryBytes seq stamp (payload.take (n - 16)) ++ List.replicate n 0).take n

/-- The PAD header that ends a page with `remaining` bytes left (R64, R67). -/
def padBytes (remaining : Nat) : List Byte := headerBytes ⟨.pad, remaining - 16, 0, 0, 0⟩

/-- The 16 bytes of a closed record in its ring slot (R44, log entry 8). -/
def slotBytes (r : MapRec) : List Byte :=
  encode 2 r.ppn ++ encode 4 r.firstSeq ++ encode 4 r.lastSeq ++ encode 6 r.newestStamp.toNat

/-- The record that a ring slot holds, closed yes (R44, log entry 8). -/
def slotRecord (bs : List Byte) : MapRec :=
  { ppn := field bs 0 2, firstSeq := field bs 2 4, lastSeq := field bs 6 4
    newestStamp := BitVec.ofNat 48 (field bs 10 6), closed := true }

/-- The page of LPN `lpn`'s slot in the ring of stream `s` (R43). -/
def slotPage (s : StreamId) (lpn : Lpn) : Ppn := s.val * 8 + lpn % 1024 / 128

/-- The offset in its page of LPN `lpn`'s slot (R43). -/
def slotOffset (lpn : Lpn) : Nat := lpn % 128 * 16

end Sys2Proof.Machine
end

