-- ==== Sys2Proof/Machine/Work.lean ====
section
/-! DEFINITION. What one block does at one event: its new state and the messages it sends, in order. -/

namespace Sys2Proof.Machine

/-- A block's state at work on an event, and the messages it has sent at that event, oldest first. -/
structure Work (β : Type) where
  st : β
  out : List Instr

/-- A block that begins an event. -/
def Work.start {β : Type} (b : β) : Work β := ⟨b, []⟩

/-- Sends one message. -/
def Work.send {β : Type} (w : Work β) (m : Instr) : Work β := { w with out := w.out ++ [m] }

/-- Sends several messages, in order. -/
def Work.sendAll {β : Type} (w : Work β) (ms : List Instr) : Work β := { w with out := w.out ++ ms }

/-- Changes the block's own state. -/
def Work.mod {β : Type} (w : Work β) (f : β → β) : Work β := { w with st := f w.st }

/-- A table with one entry changed. -/
def upd {α : Type} {n : Nat} (v : Vector α n) (i : Fin n) (f : α → α) : Vector α n := v.set i (f v[i])

/-- An answer without results. -/
def refusal (st : Status) (detail : Nat) : Answer := ⟨st, detail, .empty⟩

/-- The answer OK with results. -/
def okWith (r : Result) : Answer := ⟨.ok, 0, r⟩

/-- The answer OK without results. -/
def okAnswer : Answer := okWith .empty

/-- The message that carries an answer to the Port Engine of the request's port (R188). -/
def reply (r : Req) (a : Answer) : Instr := .answerArrival r.sess.port r.slot a

/-- Answers a request (R188). -/
def Work.answer {β : Type} (w : Work β) (r : Req) (a : Answer) : Work β := w.send (reply r a)

/-- Refuses a request with a status and its detail byte. -/
def Work.refuse {β : Type} (w : Work β) (r : Req) (st : Status) (detail : Nat := 0) : Work β :=
  w.answer r (refusal st detail)

/-- Goes on with a body that passes its layout check, and answers MALFORMED otherwise (R212). -/
def Work.layout {α β : Type} (w : Work β) (r : Req) (l : Except Nat α) (go : α → Work β) : Work β :=
  match l with
  | .error d => w.refuse r .malformed d
  | .ok a => go a

/-- A decoded field as an index below `n`. -/
def index (n v : Nat) : Option (Fin n) := if h : v < n then some ⟨v, h⟩ else none

end Sys2Proof.Machine
end

