-- ==== Sys2Proof/Machine/Append.lean ====
section
/-! DEFINITION. The Append Engine (chapter 4): what AE does at each of its events. -/

namespace Sys2Proof.Machine

/-- AE after RESET_N and after DEVICE_RESTART (R83). -/
def AE.init : AE :=
  ⟨[], Vector.replicate 32 0, Vector.replicate 32 false, Vector.replicate 32 false⟩

/-- The APPEND in progress (R69). -/
def AE.head (a : AE) : Option Job := a.queue.head?

/-- The APPEND in progress where it is in one state and for one stream. -/
def AE.headIn (a : AE) (st : JobState) (s : StreamId) : Option Job :=
  a.head.filter fun j => j.state = st && j.stream = s

/-- Changes the APPEND in progress. -/
def AE.onHead (a : AE) (f : Job → Job) : AE :=
  { a with queue := match a.queue with
                    | [] => []
                    | j :: rest => f j :: rest }

/-- An admitted APPEND that stands WAITING at the head enters PLACING (R69, R71). -/
def AE.startHead (w : Work AE) : Work AE :=
  match w.st.head with
  | some j =>
    if j.state = .waiting && j.admitted then
      (w.mod fun a => a.onHead fun j => { j with state := .placing }).send (.placeQuestion j.stream)
    else w
  | none => w

/-- A seal order owed for the stream is answered (R81). -/
def AE.paySeal (s : StreamId) (w : Work AE) : Work AE :=
  if w.st.sealOwed[s] then
    (w.mod fun a => { a with sealOwed := a.sealOwed.set s false }).send (.sealAnswer s)
  else w

/-- The APPEND in progress is answered and leaves the queue; a marked one is answered GONE (R69, R82). `refused`: the status
raises appends-refused (R23), ahead of the answer: the model's choice (log entry 75). A seal answer that is owed stands between
the answer and the append leave (log entry 23). -/
def AE.finish (refused : Bool) (ans : Answer) (w : Work AE) : Work AE :=
  match w.st.queue with
  | [] => w
  | j :: rest =>
    let w := if refused && !j.marked then w.send (.counterUpdate j.stream .refused) else w
    let w := (w.mod fun a => { a with queue := rest }).answer j.req (if j.marked then refusal .gone 0 else ans)
    AE.startHead ((AE.paySeal j.stream w).send (.appendLeave j.stream))

/-! ### Arrival (R68) -/

/-- APPEND (R68). -/
def AE.append (r : Req) (body : List Byte) (w : Work AE) : Work AE :=
  w.layout r (appendBody body) fun b =>
    match index 32 b.1 with
    | none => w.refuse r .outOfRange 1
    | some s =>
      if b.2.length < 1 ∨ 1536 < b.2.length then w.refuse r .outOfRange 2
      else if 16 ≤ w.st.queue.length then w.refuse r .busy
      else
        (w.mod fun a => { a with queue := a.queue ++
            [⟨r, s, storedSize b.2.length, false, .waiting, false, false, 0, 0, 0, 0⟩] }).send (.admission s r)

/-- SD's answer to an admission (R68). -/
def AE.admissionAnswer (r : Req) (admitted : Bool) (w : Work AE) : Work AE :=
  if w.st.queue.any fun j => j.req = r && !j.admitted then
    if admitted then
      AE.startHead <| w.mod fun a =>
        { a with queue := a.queue.map fun j => if j.req = r then { j with admitted := true } else j }
    else
      AE.startHead <| (w.mod fun a => { a with queue := a.queue.filter fun j => j.req ≠ r || j.admitted }).refuse r
        .noStream
  else w

/-! ### Placing and writing (R71 to R73, R77) -/

/-- The APPEND in progress enters WRITING at an offset of a page (R77). -/
def AE.write (clock : Clock) (payload : List Byte) (page : Ppn) (offset : Nat) (w : Work AE) : Work AE :=
  match w.st.head with
  | none => w
  | some j =>
    (w.mod fun a => a.onHead fun j => { j with state := .writing, stamp := clock, page := page, offset := offset }).send
      (.mpOperationIssue ⟨.entryWrite, page, offset, j.size, entryOfSize j.size j.seq clock payload⟩)

/-- The APPEND in progress enters ALLOCATING (R72). -/
def AE.allocate (s : StreamId) (w : Work AE) : Work AE :=
  (w.mod fun a => a.onHead fun j => { j with state := .allocating }).send (.allocationRequest s)

/-- The tail page is closed: the page close, and a PAD header where 16 bytes or more remain (R67). -/
def AE.close (s : StreamId) (page : Ppn) (w : Work AE) : Work AE :=
  let fill := w.st.fills[s]
  let w := w.send (.pageClose s)
  if 16 ≤ 2048 - fill then w.send (.mpOperationIssue ⟨.padWrite, page, fill, 16, padBytes (2048 - fill)⟩) else w

/-- An APPEND of an OPEN stream is placed (R72). -/
def AE.place (clock : Clock) (payload : List Byte) (s : StreamId) (size : Nat) (tail : Option MapRec) (w : Work AE) :
    Work AE :=
  match tail with
  | none => AE.allocate s w
  | some r =>
    if r.closed then AE.allocate s w
    else if w.st.fills[s] + size ≤ 2048 then AE.write clock payload r.ppn w.st.fills[s] w
    else AE.allocate s (AE.close s r.ppn w)

/-- SD's place answer (R71). ABSENT, which cannot arise, is taken like DELETING (log entry 76). -/
def AE.placeAnswer (clock : Clock) (payload : List Byte) (s : StreamId) (i : PlaceInfo) (w : Work AE) : Work AE :=
  match w.st.headIn .placing s with
  | none => w
  | some j =>
    match i.state with
    | .absent | .deleting => AE.finish false (refusal .gone 0) w
    | .sealed => AE.finish true (refusal (if i.sealCause = .exhausted then .seqExhausted else .sealed) 0) w
    | .opened =>
      AE.place clock payload s j.size i.tailRec <| w.mod fun a => a.onHead fun j => { j with seq := i.committed + 1 }

/-- A page has been obtained: it is opened as the new tail page and the APPEND writes at its start (R73, R76). -/
def AE.openPage (clock : Clock) (payload : List Byte) (s : StreamId) (ppn : Ppn) (w : Work AE) : Work AE :=
  AE.write clock payload ppn 0 <| (w.mod fun a => { a with fills := a.fills.set s 0 }).send (.pageOpen s ppn)

/-- PP's grant (R73). -/
def AE.allocationGrant (clock : Clock) (payload : List Byte) (s : StreamId) (ppn : Ppn) (w : Work AE) : Work AE :=
  if (w.st.headIn .allocating s).isSome then AE.openPage clock payload s ppn w else w

/-- A recycled page from PP (R76). -/
def AE.recycledPage (clock : Clock) (payload : List Byte) (s : StreamId) (ppn : Ppn) (w : Work AE) : Work AE :=
  if (w.st.headIn .recycling s).isSome then AE.openPage clock payload s ppn w else w

/-! ### Without a page (R74 to R76) -/

/-- PP's refusal (R74). -/
def AE.allocationRefusal (s : StreamId) (w : Work AE) : Work AE :=
  if (w.st.headIn .allocating s).isSome then w.send (.refusalQuestion s) else w

/-- The APPEND in progress is answered FULL (R75). STREAM_FULL goes out ahead of the counter update and the answer: the model's
choice (log entry 75). -/
def AE.full (s : StreamId) (w : Work AE) : Work AE :=
  AE.finish true (refusal .full 0) <|
    if w.st.episode[s] then w
    else (w.mod fun a => { a with episode := a.episode.set s true }).send (.noticeEvent ⟨.streamFull, some s, none, none, none⟩)

/-- SD's answer to a refusal question (R74). ABSENT, which cannot arise, is taken like DELETING (log entry 76). -/
def AE.refusalAnswer (s : StreamId) (i : RefusalInfo) (w : Work AE) : Work AE :=
  match w.st.headIn .allocating s with
  | none => w
  | some j =>
    if i.state = .deleting || i.state = .absent || j.marked then AE.finish false (refusal .gone 0) w
    else
      match i.policy, i.head, i.tail with
      | .dropOldest, some h, some t =>
        if h < t && !j.recycled then
          (w.mod fun a => a.onHead fun j => { j with state := .recycling, recycled := true }).send (.recycleRequest s)
        else AE.full s w
      | _, _, _ => AE.full s w

/-- RU's NO_PAGE (R76). -/
def AE.noPage (s : StreamId) (w : Work AE) : Work AE :=
  if (w.st.headIn .recycling s).isSome then AE.allocate s w else w

/-! ### Completion (R77) -/

/-- The entry write's completion (R77). -/
def AE.entryWriteDone (w : Work AE) : Work AE :=
  match w.st.head with
  | none => w
  | some j =>
    if j.state = .writing then
      AE.finish false (okWith (.append j.seq j.stamp)) <|
        (w.mod fun a => { a with fills := upd a.fills j.stream (· + j.size), episode := a.episode.set j.stream false }).send
          (.commit j.stream j.seq j.stamp)
    else w

/-! ### Seal and delete orders (R81, R82) -/

/-- The APPEND in progress is for the stream and past WAITING. -/
def AE.busyOn (a : AE) (s : StreamId) : Bool := a.head.any fun j => j.stream = s && j.state ≠ .waiting

/-- A seal order (R81). -/
def AE.sealOrder (s : StreamId) (w : Work AE) : Work AE :=
  if w.st.busyOn s then w.mod fun a => { a with sealOwed := a.sealOwed.set s true } else w.send (.sealAnswer s)

/-- The APPEND is admitted, for the stream, and still WAITING. -/
def Job.cutBy (s : StreamId) (j : Job) : Bool := j.stream = s && j.admitted && j.state = .waiting

/-- A delete order (R82). The waiting APPENDs are answered in queue order, each ahead of its append leave: the model's choice
(log entry 67). -/
def AE.deleteOrder (s : StreamId) (w : Work AE) : Work AE :=
  let cut := w.st.queue.filter (Job.cutBy s)
  AE.startHead <|
    (w.mod fun a =>
      { a with
        episode := a.episode.set s false
        queue := (a.queue.filter fun j => !j.cutBy s).map fun j =>
          if j.stream = s && j.state ≠ .waiting then { j with marked := true } else j }).sendAll
      (cut.flatMap fun j => [reply j.req (refusal .gone 0), .appendLeave s])

end Sys2Proof.Machine
end

