-- ==== Sys2Proof/Machine/Cursor.lean ====
section
/-! DEFINITION. Cursors (chapter 5): what DE does at a cursor request, at an answer of SD's or MU's to one, at a session end
and at a delete order. -/

namespace Sys2Proof.Machine

/-- No cursor counter has been raised. -/
def noCursorCounts : CursorCounters := ⟨0, 0, 0, 0⟩

/-- The FREE record (table 5.1). -/
def freeCursor : Cursor :=
  { state := .free, label := 0, stream := none, owner := none, durable := false, retaining := false, window := 4
    ackTimeout := 500, retryLimit := 4, ackSeq := 0, nextSeq := 1, deliveredTop := 0, hint := none, list := []
    pendingGap := 0, work := .none, returnState := none, minStart := 0, endDue := false, counters := noCursorCounts
    req := none, start := .head, found := none, searchOut := false, waiting := [] }

/-- An IDLE buffer (R110). -/
def idleBuffer : Buffer :=
  { state := .idle, cursor := 0, owner := none, redelivery := false, seq := 0, lpn := 0, ppn := 0, offset := 0
    locate := .page, hold := false, abandoned := false, checksum := 0, length := 0, size := none, stamp := 0
    payload := [], damaged := false }

/-- DE after RESET_N and after DEVICE_RESTART (R108, R130). -/
def DE.init : DE :=
  { cursors := Vector.replicate 64 freeCursor, views := Vector.replicate 32 ⟨0, false⟩
    buffers := Vector.replicate 4 (Vector.replicate 2 idleBuffer), deferred := Vector.replicate 64 false
    last := Vector.replicate 4 63 }

/-! ### Records, buffers and views -/

/-- Changes one cursor record. -/
def DE.change (c : CursorId) (f : Cursor → Cursor) (w : Work DE) : Work DE :=
  w.mod fun d => { d with cursors := upd d.cursors c f }

/-- A delivery buffer. -/
def DE.buffer (d : DE) (b : BufId) : Buffer := d.buffers[b.port][b.idx]

/-- Changes one delivery buffer. -/
def DE.changeBuffer (b : BufId) (f : Buffer → Buffer) (w : Work DE) : Work DE :=
  w.mod fun d => { d with buffers := upd d.buffers b.port fun v => upd v b.idx f }

/-- Raises a stream view to a committed_seq that is higher (R109). -/
def DE.seen (s : StreamId) (committed : Seq) (w : Work DE) : Work DE :=
  w.mod fun d => { d with views := upd d.views s fun v => { v with committed := max v.committed committed } }

/-- The eight buffers, by port, in the order in which the model goes through them (log entry 57). -/
def allBuffers : List BufId := (List.finRange 4).flatMap fun p => (List.finRange 2).map fun i => ⟨p, i⟩

/-- The states that take part in a floor and are moved by advance orders: the bound states (table 5.2). -/
def CursorState.bound : CursorState → Bool
  | .active | .paused | .seeking | .stalled | .detached => true
  | .free | .orphaned => false

/-- The cursor is in a bound state, on the stream. -/
def Cursor.boundTo (s : StreamId) (c : Cursor) : Bool := CursorState.bound c.state && c.stream = some s

/-- The cursor counts for the session (R86). -/
def Cursor.countsFor (sess : SessId) (c : Cursor) : Bool :=
  match c.state, c.work with
  | .active, _ | .paused, _ | .seeking, _ | .stalled, _ | .orphaned, _ | .free, .bind => c.owner = some sess
  | .detached, .rebind => c.req.any fun r => r.sess = sess
  | _, _ => false

/-- A session's cursor count (R86). -/
def DE.sessionCount (d : DE) (sess : SessId) : Nat := d.cursors.toList.countP (Cursor.countsFor sess)

/-- The release floor of a stream (R135). -/
def DE.floor (d : DE) (s : StreamId) : Option Seq :=
  ((d.cursors.toList.filter fun c => c.boundTo s && c.retaining).map fun c => c.ackSeq + 1).min?

/-- A FREE record is reserved: by an open, an unanswered search, or a read that has not completed (R85). -/
def DE.reserved (d : DE) (c : CursorId) : Bool :=
  d.cursors[c].work ≠ .none || d.cursors[c].searchOut ||
    allBuffers.any fun b => (d.buffer b).cursor = c &&
      ((d.buffer b).state = .reading || ((d.buffer b).state = .locating && (d.buffer b).locate = .sequence))

/-- The record an open takes (R85). -/
def DE.lowestFree (d : DE) : Option CursorId :=
  (List.finRange 64).find? fun c => d.cursors[c].state = .free && !d.reserved c

/-! ### Notices of a cursor (R103, R126) -/

/-- An event of class CURSOR for the owner, where the owner rule of R103 lets it be raised. -/
def DE.raise (c : CursorId) (k : NoticeKind) (v : Option Nat) (w : Work DE) : Work DE :=
  let cur := w.st.cursors[c]
  match cur.owner with
  | some o =>
    if cur.endDue then w
    else w.send (.noticeEvent ⟨k, if k = .cursorGap then cur.stream else none, some c, v, some o⟩)
  | none => w

/-- A gap is reported to the owner, or kept in pending_gap (R103, R128). -/
def DE.reportGap (c : CursorId) (gap : Nat) (w : Work DE) : Work DE :=
  let cur := w.st.cursors[c]
  if cur.owner.isSome && !cur.endDue then DE.raise c .cursorGap (some gap) w
  else DE.change c (fun x => { x with pendingGap := count x.pendingGap gap }) w

/-- The drain test (R126). -/
def DE.drained (c : CursorId) (w : Work DE) : Work DE :=
  let cur := w.st.cursors[c]
  match cur.stream with
  | some s =>
    if w.st.views[s].settled && cur.ackSeq = w.st.views[s].committed then DE.raise c .cursorDrained none w else w
  | none => w

/-! ### Stalling (R124) -/

/-- The entry is exhausted (R124). -/
def Cursor.exhausts (c : Cursor) (e : InFlight) : Bool :=
  c.retryLimit ≠ 0 && e.due && e.tries = c.retryLimit + 1

/-- The exhaustion test (R124). -/
def DE.exhaust (c : CursorId) (w : Work DE) : Work DE :=
  let cur := w.st.cursors[c]
  match cur.list.find? cur.exhausts with
  | none => w
  | some e =>
    DE.raise c .cursorStalled (some e.seq) <| DE.change c (fun x =>
      { x with state := .stalled, list := [], nextSeq := x.ackSeq + 1, hint := none }) w

/-! ### Leaving a use (R98, R102, R118) -/

/-- The buffers that serve the cursor are abandoned (R118). -/
def DE.abandon (c : CursorId) (w : Work DE) : Work DE :=
  w.mod fun d =>
    { d with buffers := d.buffers.map fun v => v.map fun b =>
        if b.state ≠ .idle && b.cursor = c then { b with abandoned := true } else b }

/-- The reads in flight for the cursor are to be discarded at their completion (R92, log entry 51). A buffer that is LOCATING
or HOLDING is left to the test of R118: the model's choice (R129, log entry 55). -/
def DE.discardReads (c : CursorId) (w : Work DE) : Work DE :=
  w.mod fun d =>
    { d with buffers := d.buffers.map fun v => v.map fun b =>
        if b.state = .reading && b.cursor = c then { b with abandoned := true } else b }

/-- The record returns to its FREE values; what still reserves it and the requests that wait on it stay (R85, R98). -/
def DE.free (c : CursorId) (w : Work DE) : Work DE :=
  DE.abandon c <| DE.change c (fun x => { freeCursor with searchOut := x.searchOut, waiting := x.waiting }) w

/-- The cursor leaves its stream: the unbind, and the floor trigger of a retaining one (R17, R100). -/
def DE.leave (c : CursorId) (w : Work DE) : Work DE :=
  match w.st.cursors[c].stream with
  | none => w
  | some s => w.sendAll (.unbind s :: if w.st.cursors[c].retaining then [.evaluationTrigger s] else [])

/-- A cursor of an ended session is settled (R102). -/
def DE.settle (c : CursorId) (w : Work DE) : Work DE :=
  let cur := w.st.cursors[c]
  match cur.state with
  | .free | .detached => DE.change c (fun x => { x with endDue := false }) w
  | .orphaned => DE.free c w
  | .active | .paused | .stalled | .seeking =>
    if cur.durable then
      DE.abandon c <| DE.change c (fun x =>
        { x with state := .detached, owner := none, list := [], hint := none, nextSeq := x.ackSeq + 1
                 deliveredTop := x.ackSeq, returnState := none, endDue := false }) w
    else DE.free c (DE.leave c w)

/-! ### Positioning (R91 to R95) -/

/-- The start of a CURSOR_OPEN or CURSOR_SEEK, checked by R89 item 4; `n` is the number of its start field. -/
def startOf (n start mode target : Nat) : Except Nat Start :=
  match start with
  | 0 => .ok .head
  | 1 => .ok .tail
  | 2 => if 1 < mode then .error (n + 1) else if target = 0 then .error (n + 2) else .ok (.at target (mode = 0))
  | _ => .error n

/-- The cursor begins positioning: a search for AT, the position question for HEAD and TAIL (R91, R95). -/
def DE.beginPositioning (c : CursorId) (s : StreamId) (start : Start) (w : Work DE) : Work DE :=
  match start with
  | .at q _ =>
    (DE.change c (fun x => { x with work := .search, searchOut := true, found := none }) w).send
      (.lookupBySequence s q (.positioning c))
  | .head | .tail => (DE.change c (fun x => { x with work := .position, found := none }) w).send (.positionQuestion s c)

/-! ### Requests that name a cursor (R88, R94 to R99, R104) -/

/-- CURSOR_SEEK, its turn come (R94). -/
def DE.seekNow (c : CursorId) (r : Req) (start mode target : Nat) (w : Work DE) : Work DE :=
  let cur := w.st.cursors[c]
  match cur.state, cur.stream with
  | .active, some s | .paused, some s =>
    match startOf 2 start mode target with
    | .error n => w.refuse r .outOfRange n
    | .ok st =>
      DE.beginPositioning c s st <| DE.change c (fun x =>
        { x with state := .seeking, returnState := some x.state, minStart := 0, req := some r, start := st }) w
  | _, _ => w.refuse r .wrongState

/-- CURSOR_PAUSE, its turn come (R96). -/
def DE.pauseNow (c : CursorId) (r : Req) (w : Work DE) : Work DE :=
  match w.st.cursors[c].state with
  | .active => (DE.change c (fun x => { x with state := .paused }) w).answer r okAnswer
  | .paused => w.answer r okAnswer
  | _ => w.refuse r .wrongState

/-- CURSOR_RESUME, its turn come (R97). -/
def DE.resumeNow (c : CursorId) (r : Req) (w : Work DE) : Work DE :=
  match w.st.cursors[c].state with
  | .paused => DE.exhaust c ((DE.change c (fun x => { x with state := .active }) w).answer r okAnswer)
  | .stalled => (DE.change c (fun x => { x with state := .active }) w).answer r okAnswer
  | .active => w.answer r okAnswer
  | _ => w.refuse r .wrongState

/-- CURSOR_CLOSE, its turn come (R98, R99). -/
def DE.closeNow (c : CursorId) (r : Req) (label : Nat) (w : Work DE) : Work DE :=
  let cur := w.st.cursors[c]
  if cur.state = .detached then
    if cur.label ≠ label then w.refuse r .notOwner else (DE.free c (DE.leave c w)).answer r okAnswer
  else if cur.owner ≠ some r.sess then w.refuse r .notOwner
  else (DE.free c (DE.leave c w)).answer r okAnswer

/-- CURSOR_ATTACH, its turn come (R104). -/
def DE.attachNow (c : CursorId) (r : Req) (label : Nat) (w : Work DE) : Work DE :=
  let cur := w.st.cursors[c]
  match cur.state, cur.stream with
  | .detached, some s =>
    if cur.label ≠ label then w.refuse r .notOwner
    else if 16 ≤ w.st.sessionCount r.sess then w.refuse r .noRoom
    else (DE.change c (fun x => { x with work := .rebind, req := some r }) w).send (.rebind s c)
  | st, _ =>
    if cur.owner ≠ some r.sess then w.refuse r .notOwner
    else if st = .orphaned then w.refuse r .gone
    else w.refuse r .wrongState

/-- Checks 4 and 5 of R88 for a request of the owner's. -/
def DE.owned (c : CursorId) (r : Req) (go : Work DE → Work DE) (w : Work DE) : Work DE :=
  let cur := w.st.cursors[c]
  if cur.owner ≠ some r.sess then w.refuse r .notOwner
  else if cur.state = .orphaned then w.refuse r .gone
  else go w

/-- A request that names a cursor, its turn come: check 3 again, and the rest (R88). -/
def DE.perform (c : CursorId) (q : WaitingRequest) (w : Work DE) : Work DE :=
  if w.st.cursors[c].state = .free then w.refuse q.req .noCursor
  else
    match q.what with
    | .seek a b t => DE.owned c q.req (DE.seekNow c q.req a b t) w
    | .pause => DE.owned c q.req (DE.pauseNow c q.req) w
    | .resume => DE.owned c q.req (DE.resumeNow c q.req) w
    | .close l => DE.closeNow c q.req l w
    | .attach l => DE.attachNow c q.req l w

/-- A request that names a cursor arrives: checks 2 and 3, then its turn or a wait (R88). -/
def DE.arrive (r : Req) (id : Nat) (what : CursorRequest) (w : Work DE) : Work DE :=
  match index 64 id with
  | none => w.refuse r .outOfRange 1
  | some c =>
    if w.st.cursors[c].state = .free then w.refuse r .noCursor
    else if w.st.cursors[c].work ≠ .none then
      DE.change c (fun x => { x with waiting := x.waiting ++ [⟨r, what⟩] }) w
    else DE.perform c ⟨r, what⟩ w

/-- CURSOR_SEEK (R94). -/
def DE.cursorSeek (r : Req) (body : List Byte) (w : Work DE) : Work DE :=
  w.layout r (seekBody body) fun b => DE.arrive r b.1 (.seek b.2.start b.2.mode b.2.target) w

/-- CURSOR_PAUSE (R96). -/
def DE.cursorPause (r : Req) (body : List Byte) (w : Work DE) : Work DE :=
  w.layout r (oneField 1 body) fun id => DE.arrive r id .pause w

/-- CURSOR_RESUME (R97). -/
def DE.cursorResume (r : Req) (body : List Byte) (w : Work DE) : Work DE :=
  w.layout r (oneField 1 body) fun id => DE.arrive r id .resume w

/-- CURSOR_CLOSE (R98, R99). -/
def DE.cursorClose (r : Req) (body : List Byte) (w : Work DE) : Work DE :=
  w.layout r (labelBody body) fun b => DE.arrive r b.1 (.close b.2) w

/-- CURSOR_ATTACH (R104). -/
def DE.cursorAttach (r : Req) (body : List Byte) (w : Work DE) : Work DE :=
  w.layout r (labelBody body) fun b => DE.arrive r b.1 (.attach b.2) w

/-- A cursor of an ended session is settled when its work has ended (R101). -/
def DE.settleDue (c : CursorId) (w : Work DE) : Work DE :=
  if w.st.cursors[c].endDue && w.st.cursors[c].work = .none then DE.settle c w else w

/-- Takes the waiting requests in order until work has begun again, then settles what is due (R88, R101). -/
def DE.takeWaiting (c : CursorId) : List WaitingRequest → Work DE → Work DE
  | [], w => DE.settleDue c (DE.change c (fun x => { x with waiting := [] }) w)
  | q :: rest, w =>
    if w.st.cursors[c].work ≠ .none then DE.change c (fun x => { x with waiting := q :: rest }) w
    else DE.takeWaiting c rest (DE.perform c q w)

/-- The cursor's work has ended (R88). -/
def DE.endWork (c : CursorId) (w : Work DE) : Work DE :=
  DE.takeWaiting c w.st.cursors[c].waiting (DE.change c (fun x => { x with work := .none }) w)

/-! ### CURSOR_OPEN (R89, R90) -/

/-- CURSOR_OPEN's value checks, items 2 to 4 of R89. -/
def checkOpen (b : OpenBody) : Except Nat (StreamId × Start) :=
  match index 32 b.stream with
  | none => .error 1
  | some s =>
    let window := b.window.getD 4
    let timeout := b.ackTimeout.getD 500
    if window < 1 ∨ 16 < window then .error 5
    else if timeout < 10 ∨ 60000 < timeout then .error 6
    else if 15 < b.retryLimit.getD 4 then .error 7
    else
      match startOf 8 b.start.start b.start.mode b.start.target with
      | .error n => .error n
      | .ok st => .ok (s, st)

/-- CURSOR_OPEN (R89). -/
def DE.cursorOpen (r : Req) (body : List Byte) (w : Work DE) : Work DE :=
  w.layout r (openBody body) fun b =>
    match checkOpen b with
    | .error n => w.refuse r .outOfRange n
    | .ok (s, st) =>
      if 16 ≤ w.st.sessionCount r.sess then w.refuse r .noRoom
      else
        match w.st.lowestFree with
        | none => w.refuse r .noRoom
        | some c =>
          (DE.change c (fun _ =>
            { freeCursor with
              label := b.label, stream := some s, owner := some r.sess, durable := b.durable
              retaining := b.retaining, window := b.window.getD 4, ackTimeout := b.ackTimeout.getD 500
              retryLimit := b.retryLimit.getD 4, work := .bind, req := some r, start := st }) w).send (.bind s c)

/-- Answers the request whose work the cursor has outstanding. -/
def DE.reply (c : CursorId) (a : Answer) (w : Work DE) : Work DE :=
  match w.st.cursors[c].req with
  | some r => w.answer r a
  | none => w

/-- A cursor opened at HEAD or TAIL is ACTIVE at its start (R90). -/
def DE.openAt (c : CursorId) (start : Seq) (w : Work DE) : Work DE :=
  DE.endWork c <| DE.drained c <| DE.reply c (okWith (.opened c start)) <| DE.change c (fun x =>
    { x with state := .active, work := .none, ackSeq := start - 1, nextSeq := start, deliveredTop := start - 1, list := []
             pendingGap := 0, hint := none }) w

/-- SD's answer to an open's bind (R90). Two points are the model's choice. An open at TAIL starts at the grant's committed_seq + 1
by the table of R90, even where min_start has risen above that (log entry 83). An open at AT whose session has ended while the
bind was outstanding goes on with its positioning, and R102 is applied when that work has ended, as R101 says, not once the grant
has been applied, as R90 says (log entry 81). -/
def DE.bindAnswer (c : CursorId) (a : BindAnswer) (w : Work DE) : Work DE :=
  let cur := w.st.cursors[c]
  match cur.work, cur.stream with
  | .bind, some s =>
    match a with
    | .refused st => DE.free c (DE.reply c (refusal st (if st = .noRoom then 1 else 0)) w)
    | .granted head committed =>
      let h := max head cur.minStart
      let w := DE.seen s committed w
      match cur.start with
      | .head => DE.openAt c h w
      | .tail => DE.openAt c (committed + 1) w
      | .at q e =>
        DE.beginPositioning c s (.at q e) <| DE.change c (fun x =>
          { x with state := .seeking, returnState := none, ackSeq := h - 1, nextSeq := h, deliveredTop := h - 1
                   list := [], pendingGap := 0, hint := none }) w
  | _, _ => w

/-- MU's answer to a positioning search (R91). -/
def DE.searchAnswer (c : CursorId) (a : MapAnswer) (w : Work DE) : Work DE :=
  let cur := w.st.cursors[c]
  let w := DE.change c (fun x => { x with searchOut := false }) w
  match cur.state, cur.work, cur.stream with
  | .seeking, .search, some s =>
    if a = .gone then w
    else (DE.change c (fun x => { x with work := .position, found := some a }) w).send (.positionQuestion s c)
  | _, _, _ => w

/-- A positioning is refused (R93). Of a refused open the answer goes out ahead of the unbind and of the floor trigger: the model's
choice, since R93 fixes no order of the three (log entry 82). -/
def DE.refusePosition (c : CursorId) (st : Status) (w : Work DE) : Work DE :=
  match w.st.cursors[c].returnState with
  | none => DE.endWork c (DE.free c (DE.leave c (DE.reply c (refusal st 10) w)))
  | some back =>
    let w := DE.reply c (refusal st 4) <| DE.change c (fun x =>
      { x with state := back, returnState := none, minStart := 0, work := .none }) w
    DE.endWork c (if back = .active then DE.exhaust c w else w)

/-- The hint of a positioning that ends at `p` (R92). -/
def hintAt (found : Option MapAnswer) (start : Start) (p : Seq) : Option Hint :=
  match found, start with
  | some (.found lpn rec), .at q _ => if p = q then some ⟨lpn, rec.ppn, 0, rec.firstSeq⟩ else none
  | _, _ => none

/-- A positioning succeeds at `p` (R92). -/
def DE.acceptPosition (c : CursorId) (s : StreamId) (p : Seq) (w : Work DE) : Work DE :=
  let cur := w.st.cursors[c]
  let w := DE.discardReads c <| DE.change c (fun x =>
    { x with state := cur.returnState.getD .active, returnState := none, ackSeq := p - 1, nextSeq := p
             deliveredTop := p - 1, list := [], hint := hintAt cur.found cur.start p, minStart := 0, work := .none }) w
  let w := DE.reply c (okWith (if cur.returnState.isNone then .opened c p else .sequence p)) w
  let w := if cur.retaining then w.send (.evaluationTrigger s) else w
  DE.endWork c (if cur.returnState.isNone || cur.ackSeq ≠ p - 1 then DE.drained c w else w)

/-- The position asked for, or the refusal (R92). `h` may lie above `t`, where SD answered ahead of commits that a release has
passed since: a TAIL then ends at `t`, and so does a CLAMP, by the letter of R92, though R139 has every positioning end at `h` or
above; that is the model's choice (log entry 83). -/
def decidePosition (start : Start) (h t : Seq) : Except Status Seq :=
  match start with
  | .head => .ok h
  | .tail => .ok t
  | .at q exact =>
    if exact && q < h then .error .beforeHead
    else if exact && t < q then .error .beyondTail
    else .ok (min (max q h) t)

/-- SD's position answer (R92). -/
def DE.positionAnswer (c : CursorId) (head committed : Seq) (w : Work DE) : Work DE :=
  let cur := w.st.cursors[c]
  match cur.state, cur.work, cur.stream with
  | .seeking, .position, some s =>
    let w := DE.seen s committed w
    match decidePosition cur.start (max head cur.minStart) (committed + 1) with
    | .error st => DE.refusePosition c st w
    | .ok p => DE.acceptPosition c s p w
  | _, _, _ => w

/-- SD's answer to a rebind (R104). -/
def DE.rebindAnswer (c : CursorId) (a : BindAnswer) (w : Work DE) : Work DE :=
  let cur := w.st.cursors[c]
  match cur.state, cur.work, cur.stream, cur.req, a with
  | .detached, .rebind, some s, some r, .granted _ committed =>
    let w := DE.change c (fun x =>
      { x with owner := some r.sess, state := .active, work := .none, nextSeq := x.ackSeq + 1, deliveredTop := x.ackSeq
               list := [], hint := none }) (DE.seen s committed w)
    let w := w.answer r (okWith (.sequence (cur.ackSeq + 1)))
    let w :=
      if 0 < cur.pendingGap && !cur.endDue then
        DE.change c (fun x => { x with pendingGap := 0 }) (DE.raise c .cursorGap (some cur.pendingGap) w)
      else w
    DE.endWork c (DE.drained c w)
  | _, _, _, _, _ => w

/-! ### CURSOR_INFO (R107) -/

/-- What CURSOR_INFO reports of a cursor to a session (R107). -/
def Cursor.report (c : Cursor) (id : CursorId) (asker : SessId) : CursorReport :=
  { id := id, state := c.state, stream := c.stream, owner := c.owner, durable := c.durable, retaining := c.retaining
    window := c.window, ackTimeout := c.ackTimeout, retryLimit := c.retryLimit, ackSeq := c.ackSeq
    nextSeq := c.nextSeq, deliveredTop := c.deliveredTop, inFlight := c.list.length
    lowest := (c.list.head?.map InFlight.seq).getD 0, due := c.list.countP InFlight.due
    pendingGap := c.pendingGap, hintPresent := c.hint.isSome
    label := if c.owner = some asker then c.label else 0
    returnState := c.returnState, counters := c.counters }

/-- CURSOR_INFO (R107). -/
def DE.cursorInfo (r : Req) (body : List Byte) (w : Work DE) : Work DE :=
  w.layout r (oneField 1 body) fun id =>
    match index 64 id with
    | none => w.refuse r .outOfRange 1
    | some c =>
      let cur := w.st.cursors[c]
      if cur.state = .free then w.refuse r .noCursor
      else if cur.state = .orphaned then w.refuse r .gone
      else w.answer r (okWith (.cursor (cur.report c r.sess)))

/-! ### Session end and delete order (R101, R105) -/

/-- The cursor is owned by the session, or being attached by it (R101). -/
def Cursor.belongsTo (sess : SessId) (c : Cursor) : Bool :=
  c.owner = some sess || (c.work = .rebind && c.req.any fun r => r.sess = sess)

/-- A session-end report (R101). The cursors are taken in rising id order: the model's choice (log entry 68). -/
def DE.sessionEnd (sess : SessId) (w : Work DE) : Work DE :=
  (List.finRange 64).foldl (fun w c =>
    if w.st.cursors[c].belongsTo sess then
      if w.st.cursors[c].work = .none then DE.settle c w else DE.change c (fun x => { x with endDue := true }) w
    else w) w

/-- The cursor becomes ORPHANED (R105). R105 does not say what becomes of its other fields: that return_state becomes absent and
min_start 0, and that window, ack_timeout, retry_limit, ack_seq, next_seq and delivered_top stay as they were, is the model's
choice (DESIGN CHOICE, log entry 77). -/
def DE.orphan (c : CursorId) (s : StreamId) (w : Work DE) : Work DE :=
  DE.endWork c <| (DE.abandon c <| DE.change c (fun x =>
    { x with state := .orphaned, stream := none, list := [], hint := none, pendingGap := 0, returnState := none
             minStart := 0, work := .none }) w).send (.unbind s)

/-- A delete order at one cursor (R105). The answer goes ahead of the unbind: the model's choice (log entry 68). -/
def DE.cut (s : StreamId) (w : Work DE) (c : CursorId) : Work DE :=
  let cur := w.st.cursors[c]
  if cur.boundTo s then
    match cur.state with
    | .detached =>
      DE.endWork c <| (DE.free c (if cur.work = .rebind then DE.reply c (refusal .gone 0) w else w)).send (.unbind s)
    | .seeking => DE.orphan c s (DE.reply c (refusal .gone 0) w)
    | _ => DE.orphan c s w
  else w

/-- A delete order (R105, R109). The cursors are taken in rising id order: the model's choice (log entry 68). -/
def DE.deleteOrder (s : StreamId) (w : Work DE) : Work DE :=
  (List.finRange 64).foldl (DE.cut s) w |>.mod fun d => { d with views := d.views.set s ⟨0, false⟩ }

end Sys2Proof.Machine
end

