-- ==== Sys2Proof/Machine/Delivery.lean ====
section
/-! DEFINITION. Delivery and acknowledgement (chapter 6): choice, reads, offers, in-flight lists, ACK and advance orders. -/

namespace Sys2Proof.Machine

/-- What DE reads of the rest of the part at an event: the tick, and the offers that the arbiter has already taken (R119). -/
structure DeEnv where
  tick : Tick
  taken : List BufId

/-! ### Wanted and withdrawn (R118, R119) -/

/-- The in-flight entry of a sequence. -/
def Cursor.entry (c : Cursor) (q : Seq) : Option InFlight := c.list.find? fun e => e.seq == q

/-- The delivery a buffer serves is wanted (R118). The test alone decides, which is the model's choice (R124, R129, log entry
55): a pause, a refused seek, or a stall undone before the buffer's next completion leaves the delivery as it was. -/
def DE.wanted (d : DE) (b : Buffer) : Bool :=
  let cur := d.cursors[b.cursor]
  !b.abandoned && cur.state = .active &&
    if b.redelivery then (cur.entry b.seq).any InFlight.due else cur.nextSeq = b.seq

/-- A buffer's delivery ends: it drops any hold and returns to IDLE (R114, R118). -/
def DE.endDelivery (b : BufId) (w : Work DE) : Work DE :=
  let buf := w.st.buffer b
  let w := DE.changeBuffer b (fun _ => idleBuffer) w
  if buf.hold then w.send (.holdDrop buf.ppn) else w

/-- Offers that are no longer wanted are withdrawn, unless the arbiter has taken them (R119). -/
def DE.withdraw (env : DeEnv) (w : Work DE) : Work DE :=
  allBuffers.foldl (fun w b =>
    if (w.st.buffer b).state = .ready && !env.taken.contains b && !w.st.wanted (w.st.buffer b) then DE.endDelivery b w
    else w) w

/-! ### Choosing (R111 to R113) -/

/-- The cursor is eligible, but for the buffer (R111). -/
def DE.eligible (d : DE) (c : Cursor) : Bool :=
  match c.stream with
  | none => false
  | some s =>
    let due := c.list.any InFlight.due
    c.state = .active && (c.list.length < c.window || due) && (due || c.nextSeq ≤ d.views[s].committed)

/-- A buffer serves the cursor (R110); an abandoned one still does until it is IDLE (DEDUCED, log entry 27). -/
def DE.served (d : DE) (c : CursorId) : Bool :=
  allBuffers.any fun b => (d.buffer b).state ≠ .idle && (d.buffer b).cursor = c

/-- The cursor may be chosen for the port (R112). -/
def DE.qualifies (d : DE) (p : Port) (c : CursorId) : Bool :=
  let cur := d.cursors[c]
  (cur.owner.any fun o => o.port = p) && d.eligible cur && !d.served c && !d.deferred[c]

/-- The cursor ids in rising order after `c`, wrapping from 63 to 0. -/
def idsAfter (c : CursorId) : List CursorId := (List.finRange 64).map fun i => c + 1 + i

/-- Asks PP for a hold on the page of the buffer (R114). -/
def DE.askHold (b : BufId) (s : StreamId) (w : Work DE) : Work DE :=
  (DE.changeBuffer b (fun x => { x with state := .holding }) w).send (.holdRequest s (w.st.buffer b).ppn b)

/-- Asks MU for the page after `lpn`: a crossing (R115). -/
def DE.cross (b : BufId) (s : StreamId) (lpn : Lpn) (w : Work DE) : Work DE :=
  (DE.changeBuffer b (fun x => { x with state := .locating, locate := .crossing, offset := 0 }) w).send
    (.lookupByLpn s (lpn + 1) (.delivery b))

/-- Finds the page of a new sequence (R113). -/
def DE.locateFirst (b : BufId) (s : StreamId) (cur : Cursor) (w : Work DE) : Work DE :=
  match cur.hint with
  | some h =>
    if h.offset ≤ 2032 then
      DE.askHold b s (DE.changeBuffer b (fun x => { x with lpn := h.lpn, ppn := h.ppn, offset := h.offset }) w)
    else DE.cross b s h.lpn w
  | none =>
    (DE.changeBuffer b (fun x => { x with state := .locating, locate := .sequence }) w).send
      (.lookupBySequence s cur.nextSeq (.delivery b))

/-- Finds the page of an in-flight entry (R113). -/
def DE.locateAgain (b : BufId) (s : StreamId) (cur : Cursor) (e : InFlight) (w : Work DE) : Work DE :=
  let w := DE.changeBuffer b (fun x => { x with lpn := e.lpn, offset := e.offset }) w
  match cur.hint with
  | some h =>
    if h.lpn = e.lpn then DE.askHold b s (DE.changeBuffer b (fun x => { x with ppn := h.ppn }) w)
    else
      (DE.changeBuffer b (fun x => { x with state := .locating, locate := .page }) w).send
        (.lookupByLpn s e.lpn (.delivery b))
  | none =>
    (DE.changeBuffer b (fun x => { x with state := .locating, locate := .page }) w).send
      (.lookupByLpn s e.lpn (.delivery b))

/-- The buffer takes the chosen cursor (R112). -/
def DE.serve (b : BufId) (c : CursorId) (w : Work DE) : Work DE :=
  let cur := w.st.cursors[c]
  match cur.stream with
  | none => w
  | some s =>
    let w := w.mod fun d => { d with last := d.last.set b.port c }
    match cur.list.find? InFlight.due with
    | some e =>
      DE.locateAgain b s cur e <| DE.changeBuffer b (fun _ =>
        { idleBuffer with cursor := c, owner := cur.owner, redelivery := true, seq := e.seq }) w
    | none =>
      DE.locateFirst b s cur <| DE.changeBuffer b (fun _ =>
        { idleBuffer with cursor := c, owner := cur.owner, redelivery := false, seq := cur.nextSeq }) w

/-- The choice of one buffer: an IDLE one takes the first cursor that qualifies, in rising order after the one its port chose
last (R112). -/
def DE.chooseFor (w : Work DE) (b : BufId) : Work DE :=
  if (w.st.buffer b).state = .idle then
    match (idsAfter w.st.last[b.port]).find? (w.st.qualifies b.port) with
    | some c => DE.serve b c w
    | none => w
  else w

/-- Makes the choices that are due (R112). Ports are served in rising order, and buffer 0 before buffer 1: the model's choice
(log entry 57). -/
def DE.choose (w : Work DE) : Work DE := allBuffers.foldl DE.chooseFor w

/-- What follows every event at DE: withdrawals, then choices (R112, R119). A cursor whose work has ended is chosen only after
the requests that waited on it have been taken (R88): the model's choice (log entry 73). -/
def DE.follow (env : DeEnv) (w : Work DE) : Work DE := DE.choose (DE.withdraw env w)

/-! ### Answers and reads (R113 to R117) -/

/-- The stream of the cursor a buffer serves. -/
def DE.streamOf (d : DE) (b : BufId) : Option StreamId := d.cursors[(d.buffer b).cursor].stream

/-- Makes the hint of a buffer's cursor absent. -/
def DE.loseHint (b : BufId) (w : Work DE) : Work DE :=
  DE.change (w.st.buffer b).cursor (fun x => { x with hint := none }) w

/-- MU has found the page (R113, R115). -/
def DE.found (b : BufId) (s : StreamId) (lpn : Lpn) (r : MapRec) (w : Work DE) : Work DE :=
  let buf := w.st.buffer b
  if buf.locate = .crossing && r.firstSeq ≠ buf.seq then DE.endDelivery b (DE.loseHint b w)
  else
    DE.askHold b s <| DE.changeBuffer b (fun x =>
      { x with lpn := lpn, ppn := r.ppn, offset := if x.locate = .page then x.offset else 0 }) w

/-- MU's answer to a buffer's lookup (R113). A RETRY for a delivery that is no longer wanted does not defer the cursor: the
model's choice (R112, R118, log entry 69). -/
def DE.lookupAnswer (b : BufId) (a : MapAnswer) (w : Work DE) : Work DE :=
  let buf := w.st.buffer b
  if buf.state ≠ .locating then w
  else if !w.st.wanted buf then DE.endDelivery b w
  else
    match a, w.st.streamOf b with
    | .found lpn r, some s => DE.found b s lpn r w
    | .retry, _ => DE.endDelivery b (w.mod fun d => { d with deferred := d.deferred.set buf.cursor true })
    | _, _ => DE.endDelivery b w

/-- MU's tracker-free report (R112). -/
def DE.trackerFree (w : Work DE) : Work DE := w.mod fun d => { d with deferred := Vector.replicate 64 false }

/-- Issues the header read at the working offset (R115). -/
def DE.readHeader (b : BufId) (w : Work DE) : Work DE :=
  let buf := w.st.buffer b
  (DE.changeBuffer b (fun x => { x with state := .reading }) w).send
    (.mpOperationIssue ⟨.headerRead b, buf.ppn, buf.offset, 16, []⟩)

/-- PP's hold answer (R114). A refusal for a first delivery that is no longer wanted leaves the hint: the model's choice
(R118, log entry 69). -/
def DE.holdAnswer (b : BufId) (a : HoldAnswer) (w : Work DE) : Work DE :=
  let buf := w.st.buffer b
  if buf.state ≠ .holding then w
  else
    let w := if a = .granted then DE.changeBuffer b (fun x => { x with hold := true }) w else w
    if !w.st.wanted buf then DE.endDelivery b w
    else if a = .granted then DE.readHeader b w
    else DE.endDelivery b (if buf.redelivery then w else DE.loseHint b w)

/-- The buffer drops its hold (R114). -/
def DE.dropHold (b : BufId) (w : Work DE) : Work DE :=
  let buf := w.st.buffer b
  if buf.hold then (DE.changeBuffer b (fun x => { x with hold := false }) w).send (.holdDrop buf.ppn) else w

/-- The DELIVER is offered to the arbiter (R119). -/
def DE.offer (b : BufId) (w : Work DE) : Work DE :=
  (DE.changeBuffer b (fun x => { x with state := .ready }) (DE.dropHold b w)).send (.transmitOffer b.port)

/-- The entry is unreachable (R116). -/
def DE.unreachable (b : BufId) (w : Work DE) : Work DE :=
  DE.offer b (DE.changeBuffer b (fun x => { x with damaged := true, stamp := 0, payload := [], size := none }) w)

/-- The header is valid at the offset (R115). -/
def Header.valid (h : Header) (offset : Nat) : Bool :=
  match h.kind with
  | .pad => true
  | .entry => 1 ≤ h.length && h.length ≤ 1536 && offset + storedSize h.length ≤ 2048
  | .other => false

/-- What a header read brings, for a delivery that is wanted (R115). -/
def DE.header (b : BufId) (s : StreamId) (h : Header) (w : Work DE) : Work DE :=
  let buf := w.st.buffer b
  if !h.valid buf.offset then DE.unreachable b w
  else if h.kind = .pad then
    if buf.redelivery then DE.unreachable b w else DE.cross b s buf.lpn (DE.dropHold b w)
  else if h.seq = buf.seq then
    (DE.changeBuffer b (fun x =>
      { x with stamp := h.stamp, checksum := h.checksum, length := h.length, size := some (storedSize h.length) }) w).send
      (.mpOperationIssue ⟨.payloadRead b, buf.ppn, buf.offset + 16, padded h.length, []⟩)
  else if h.seq < buf.seq && !buf.redelivery then
    let next := buf.offset + storedSize h.length
    if next ≤ 2032 then DE.readHeader b (DE.changeBuffer b (fun x => { x with offset := next }) w)
    else DE.cross b s buf.lpn (DE.dropHold b w)
  else DE.unreachable b w

/-- A header read completes (R115). -/
def DE.headerDone (b : BufId) (bytes : List Byte) (w : Work DE) : Work DE :=
  let buf := w.st.buffer b
  if buf.state ≠ .reading then w
  else
    match w.st.streamOf b with
    | some s => if w.st.wanted buf then DE.header b s (headerOf bytes) w else DE.endDelivery b w
    | none => DE.endDelivery b w

/-- A payload read completes (R117). -/
def DE.payloadDone (b : BufId) (bytes : List Byte) (w : Work DE) : Work DE :=
  let buf := w.st.buffer b
  if buf.state ≠ .reading then w
  else if !w.st.wanted buf then DE.endDelivery b w
  else
    let payload := bytes.take buf.length
    DE.offer b <| DE.changeBuffer b (fun x =>
      if (crc16 payload).toNat = x.checksum then { x with payload := payload, damaged := false }
      else { x with payload := [], damaged := true }) w

/-! ### Sending (R119 to R121) -/

/-- The arbiter has taken the offer (R119). -/
def DE.taken (b : BufId) (w : Work DE) : Work DE :=
  if (w.st.buffer b).state = .ready then DE.changeBuffer b (fun x => { x with state := .sending }) w else w

/-- A recorded DELIVER that carried DAMAGED (R121). -/
def DE.recordDamage (c : CursorId) (q : Seq) (w : Work DE) : Work DE :=
  let w := DE.change c (fun x => { x with counters := { x.counters with damaged := count x.counters.damaged 1 } }) w
  let w := match w.st.cursors[c].stream with
    | some s => w.send (.counterUpdate s .damaged)
    | none => w
  DE.raise c .entryDamaged (some q) w

/-- The cursor after a first delivery has been sent (R120). -/
def Cursor.recordFirst (tick : Tick) (b : Buffer) (c : Cursor) : Cursor :=
  { c with
    list := c.list ++ [⟨b.seq, b.lpn, b.offset, 1, false, tick + BitVec.ofNat 32 c.ackTimeout⟩]
    nextSeq := c.nextSeq + 1
    deliveredTop := b.seq
    hint := b.size.map fun n => ⟨b.lpn, b.ppn, b.offset + n, c.nextSeq + 1⟩
    counters := { c.counters with delivered := count c.counters.delivered 1 } }

/-- The cursor after a redelivery has been sent (R121). -/
def Cursor.recordAgain (tick : Tick) (b : Buffer) (c : Cursor) : Cursor :=
  { c with
    list := c.list.map fun e =>
      if e.seq = b.seq then
        { e with due := false, tries := min 16 (e.tries + 1), deadline := tick + BitVec.ofNat 32 c.ackTimeout }
      else e
    counters := { c.counters with redeliveries := count c.counters.redeliveries 1 } }

/-- The cursor's state lets a sent DELIVER be recorded (R120, R121). -/
def Cursor.records (c : Cursor) (b : Buffer) : Bool :=
  !b.abandoned && c.owner = b.owner && (c.state = .active || c.state = .paused || c.state = .seeking) &&
    if b.redelivery then (c.entry b.seq).isSome else c.nextSeq = b.seq

/-- A sent DELIVER is recorded, or not (R120, R121). -/
def DE.record (tick : Tick) (b : Buffer) (w : Work DE) : Work DE :=
  let cur := w.st.cursors[b.cursor]
  if cur.records b then
    let w := DE.change b.cursor (if b.redelivery then Cursor.recordAgain tick b else Cursor.recordFirst tick b) w
    if b.damaged then DE.recordDamage b.cursor b.seq w else w
  else if !b.abandoned && !b.redelivery && cur.state = .stalled && cur.ackSeq < b.seq then
    DE.change b.cursor (fun x => { x with deliveredTop := max x.deliveredTop b.seq }) w
  else w

/-- The PE's sent report (R120, R121). -/
def DE.sent (tick : Tick) (b : BufId) (w : Work DE) : Work DE :=
  let buf := w.st.buffer b
  if buf.state ≠ .sending then w else DE.endDelivery b (DE.record tick buf w)

/-- The PE's dropped report (R119). -/
def DE.dropped (b : BufId) (w : Work DE) : Work DE :=
  if (w.st.buffer b).state ≠ .sending then w else DE.endDelivery b w

/-! ### Deadlines and acknowledgement (R123, R125) -/

/-- The entry is the one an expiry names, and not yet due (R123). -/
def InFlight.expires (q : Seq) (tries : Nat) (e : InFlight) : Bool := e.seq = q && e.tries = tries && !e.due

/-- An acknowledgement deadline expires (R123). -/
def DE.expiry (c : CursorId) (q : Seq) (tries : Nat) (w : Work DE) : Work DE :=
  if w.st.cursors[c].list.any (InFlight.expires q tries) then
    let w := DE.change c (fun x =>
      { x with list := x.list.map fun e => if e.expires q tries then { e with due := true } else e }) w
    if w.st.cursors[c].state = .active then DE.exhaust c w else w
  else w

/-- The cursor after an ACK above ack_seq (R125). -/
def Cursor.acknowledge (q : Seq) (c : Cursor) : Cursor :=
  { c with
    ackSeq := q
    list := c.list.filter fun e => q < e.seq
    nextSeq := if c.nextSeq ≤ q then q + 1 else c.nextSeq
    hint := if c.nextSeq ≤ q then none else c.hint }

/-- ACK, the cursor found and owned (R125). -/
def DE.ackNow (c : CursorId) (r : Req) (q : Seq) (w : Work DE) : Work DE :=
  let cur := w.st.cursors[c]
  match cur.state, cur.stream with
  | .active, some s | .paused, some s | .stalled, some s =>
    if cur.deliveredTop < q then w.refuse r .beyondDelivered 2
    else if q ≤ cur.ackSeq then w.answer r (okWith (.sequence cur.ackSeq))
    else
      let w := (DE.change c (Cursor.acknowledge q) w).answer r (okWith (.sequence q))
      DE.drained c (if cur.retaining then w.send (.evaluationTrigger s) else w)
  | _, _ => w.refuse r .wrongState

/-- ACK (R125). -/
def DE.ack (r : Req) (body : List Byte) (w : Work DE) : Work DE :=
  w.layout r (ackBody body) fun b =>
    match index 64 b.1 with
    | none => w.refuse r .outOfRange 1
    | some c =>
      if w.st.cursors[c].state = .free then w.refuse r .noCursor else DE.owned c r (DE.ackNow c r b.2) w

/-! ### RU's questions and orders (R127, R128, R135, R158) -/

/-- RU's floor question (R135). -/
def DE.floorQuestion (s : StreamId) (w : Work DE) : Work DE := w.send (.evaluationAnswer s (.floor (w.st.floor s)))

/-- A bound cursor moved to m − 1 (R127). -/
def Cursor.advance (m : Seq) (c : Cursor) : Cursor :=
  { c with
    ackSeq := m - 1
    deliveredTop := max c.deliveredTop (m - 1)
    nextSeq := max c.nextSeq m
    hint := if c.nextSeq < m then none else c.hint
    list := c.list.filter fun e => m ≤ e.seq
    counters := { c.counters with skipped := count c.counters.skipped (m - 1 - c.ackSeq) } }

/-- An advance order at one cursor (R127, R128). -/
def DE.advanceOne (s : StreamId) (m : Seq) (w : Work DE) (c : CursorId) : Work DE :=
  let cur := w.st.cursors[c]
  let positioning := cur.state = .seeking || (cur.state = .free && cur.work = .bind)
  if cur.stream ≠ some s then w
  else
    let w := if positioning then DE.change c (fun x => { x with minStart := max x.minStart m }) w else w
    if CursorState.bound cur.state && cur.ackSeq < m - 1 then
      DE.drained c (DE.reportGap c (m - 1 - cur.ackSeq) (DE.change c (Cursor.advance m) w))
    else w

/-- RU's advance order (R127, R128, R140). The cursors are taken in rising id order, and of one cursor the gap is raised before
the drain: the model's choice (log entry 56). -/
def DE.advanceOrder (s : StreamId) (m : Seq) (kind : RelKind) (w : Work DE) : Work DE :=
  if kind = .normal && (w.st.floor s).any (· < m) then w.send (.advanceOrderAnswer s false)
  else ((List.finRange 64).foldl (DE.advanceOne s m) w).send (.advanceOrderAnswer s true)

/-- A returned CURSOR_GAP (R158). -/
def DE.returnedGap (c : CursorId) (gap : Nat) (sess : SessId) (w : Work DE) : Work DE :=
  let cur := w.st.cursors[c]
  if !CursorState.bound cur.state then w
  else if cur.owner.isNone || cur.endDue || cur.owner = some sess then
    DE.change c (fun x => { x with pendingGap := count x.pendingGap gap }) w
  else DE.raise c .cursorGap (some gap) w

/-- SD's commit report (R109). -/
def DE.commitReport (s : StreamId) (q : Seq) (w : Work DE) : Work DE := DE.seen s q w

/-- SD's report that a stream is sealed and settled (R109, R126). The cursors are taken in rising id order: the model's choice
(log entry 56). -/
def DE.settledReport (s : StreamId) (w : Work DE) : Work DE :=
  (List.finRange 64).foldl (fun w c => if w.st.cursors[c].boundTo s then DE.drained c w else w)
    (w.mod fun d => { d with views := upd d.views s fun v => { v with settled := true } })

end Sys2Proof.Machine
end

