-- ==== Sys2Proof/Machine/Directory.lean ====
section
/-! DEFINITION. The Stream Directory (chapter 1): what SD does at each of its events. -/

namespace Sys2Proof.Machine

/-- No stream counter has been raised. -/
def noStreamCounts : StreamCounters := ⟨0, 0, 0, 0⟩

/-- The defaults of STREAM_CREATE (R11). -/
def defaultValues : QuotaValues := ⟨.hold, 0, 256, 0, 0⟩

/-- A descriptor with the values given, and no page, entry, cursor or append (R12). -/
def freshDescriptor (st : StreamState) (name : List Byte) (v : QuotaValues) : Descriptor :=
  { name := name, state := st, sealCause := .none, settled := false, policy := v.policy
    reservation := v.reservation, ceiling := v.ceiling, keep := v.keep, ageLimit := v.ageLimit
    nextLpn := 0, headLpn := none, tailLpn := none, headSeq := 1, committed := 0
    releaseMark := none, tailRec := none, cursorCount := 0, pendingAppends := 0, counters := noStreamCounts }

/-- The ABSENT descriptor (table 1.1). -/
def absentDescriptor : Descriptor := freshDescriptor .absent [] defaultValues

/-- An id for which SD has nothing under way. -/
def noWork : StreamWork := ⟨none, none, false, [], none, false, false, false⟩

/-- SD after RESET_N (R3). -/
def SD.init : SD := ⟨Vector.replicate 32 absentDescriptor, Vector.replicate 32 noWork⟩

/-! ### Reading a descriptor -/

/-- The descriptor is OPEN or SEALED. -/
def Descriptor.live (d : Descriptor) : Bool := d.state = .opened || d.state = .sealed

/-- The effective head (R5). -/
def Descriptor.effectiveHead (d : Descriptor) : Seq := max d.headSeq (d.releaseMark.getD 0)

/-- The tunable values in force. -/
def Descriptor.values (d : Descriptor) : QuotaValues := ⟨d.policy, d.reservation, d.ceiling, d.keep, d.ageLimit⟩

/-- The descriptor with the five tunable values written together (R14). -/
def Descriptor.withValues (d : Descriptor) (v : QuotaValues) : Descriptor :=
  { d with policy := v.policy, reservation := v.reservation, ceiling := v.ceiling, keep := v.keep
           ageLimit := v.ageLimit }

/-- The present stream of a name (R1). -/
def SD.byName (sd : SD) (name : List Byte) : Option StreamId :=
  (List.finRange 32).find? fun i => sd.streams[i].state ≠ .absent && sd.streams[i].name == name

/-- A create in progress has set the name aside (R2, R11). -/
def SD.setAside (sd : SD) (name : List Byte) : Bool :=
  sd.works.any fun k => k.create.any fun c => c.name == name

/-- The lowest id whose descriptor is ABSENT and not set aside (R11). -/
def SD.lowestFree (sd : SD) : Option StreamId :=
  (List.finRange 32).find? fun i => sd.streams[i].state = .absent && sd.works[i].create.isNone

/-- The claims of the stream that are outstanding at PP (R13). -/
def StreamWork.outstanding (k : StreamWork) : List ClaimKind :=
  (if k.create.isSome then [.create] else []) ++ (if k.tune.isSome then [.tune] else []) ++
    if k.deleteClaim then [.delete] else []

/-- PP has answered a claim of the stream: it is no longer outstanding, and no STREAM_TUNE waits for it (R13). -/
def StreamWork.answered (c : ClaimKind) (k : StreamWork) : StreamWork :=
  { k with
    create := if c = .create then none else k.create
    tune := if c = .tune then none else k.tune
    deleteClaim := k.deleteClaim && c ≠ .delete
    waiting := k.waiting.map fun x => { x with awaits := x.awaits.filter (· ≠ c) } }

/-- Changes one descriptor. -/
def SD.onStream (sd : SD) (s : StreamId) (f : Descriptor → Descriptor) : SD :=
  { sd with streams := upd sd.streams s f }

/-- Changes what is under way for one id. -/
def SD.onWork (sd : SD) (s : StreamId) (f : StreamWork → StreamWork) : SD :=
  { sd with works := upd sd.works s f }

/-- What STREAM_INFO reports of a stream (R22). -/
def Descriptor.report (d : Descriptor) (s : StreamId) (held : Nat) : StreamReport :=
  { id := s, state := d.state, sealCause := d.sealCause, settled := d.settled, policy := d.policy
    reservation := d.reservation, ceiling := d.ceiling, keep := d.keep, ageLimit := d.ageLimit
    head := d.headLpn, tail := d.tailLpn, headSeq := d.headSeq, committed := d.committed
    releaseMark := d.releaseMark, held := held, cursorCount := d.cursorCount
    pendingAppends := d.pendingAppends, counters := d.counters, name := d.name }

/-- An event of class STREAM (R150). -/
def streamEvent (k : NoticeKind) (s : StreamId) (v : Option Nat) : Instr := .noticeEvent ⟨k, some s, none, v, none⟩

/-! ### Requests -/

/-- The values a create or tune would leave, checked in the order of R11; `n` is the number of the policy field. -/
def checkQuota (n : Nat) (cur : QuotaValues) (f : QuotaFields) : Except Nat QuotaValues :=
  match policyOf (f.policy.getD (policyCode cur.policy)) with
  | none => .error n
  | some p =>
    let reservation := f.reservation.getD cur.reservation
    let ceiling := f.ceiling.getD cur.ceiling
    let keep := f.keep.getD cur.keep
    let age := f.ageLimit.getD cur.ageLimit
    if ceiling < 1 ∨ 1024 < ceiling then .error (n + 2)
    else if ceiling < reservation then .error (n + 1)
    else if ceiling < keep then .error (n + 3)
    else if 86400 < age then .error (n + 4)
    else .ok ⟨p, reservation, ceiling, keep, age⟩

/-- STREAM_CREATE (R11). -/
def SD.streamCreate (r : Req) (body : List Byte) (w : Work SD) : Work SD :=
  w.layout r (createBody body) fun b =>
    if !nameValid b.name then w.refuse r .outOfRange 8
    else
      match checkQuota 2 defaultValues b.fields with
      | .error n => w.refuse r .outOfRange n
      | .ok v =>
        if (w.st.byName b.name).isSome || w.st.setAside b.name then w.refuse r .streamExists
        else
          match w.st.lowestFree with
          | none => w.refuse r .noRoom
          | some s =>
            (w.mod fun sd => sd.onWork s fun k => { k with create := some ⟨r, b.name, v⟩ }).send
              (.createClaim s v.reservation v.ceiling)

/-- A STREAM_TUNE whose turn it is: the state check of R4, the value checks, and the claim (R13, R14). -/
def SD.tuneNow (s : StreamId) (r : Req) (f : QuotaFields) (w : Work SD) : Work SD :=
  match w.st.streams[s].state with
  | .absent => w.refuse r .noStream
  | .deleting => w.refuse r .wrongState
  | .opened | .sealed =>
    match checkQuota 3 w.st.streams[s].values f with
    | .error n => w.refuse r .outOfRange n
    | .ok v =>
      (w.mod fun sd => sd.onWork s fun k => { k with tune := some ⟨r, v⟩ }).send
        (.tuneClaim s v.reservation v.ceiling)

/-- STREAM_TUNE (R13). One that finds claims of its stream outstanding waits for these, and for none sent later; that it waits
for both where a delete claim is out behind a create or tune claim is the model's reading (log entry 65). -/
def SD.streamTune (r : Req) (body : List Byte) (w : Work SD) : Work SD :=
  w.layout r (tuneBody body) fun b =>
    match index 32 b.1 with
    | none => w.refuse r .outOfRange 1
    | some s =>
      if w.st.works[s].outstanding = [] then SD.tuneNow s r b.2 w
      else w.mod fun sd => sd.onWork s fun k => { k with waiting := k.waiting ++ [⟨r, b.2, k.outstanding⟩] }

/-- Takes the tunes of a list that wait for no claim any more, whatever claims have gone out since they arrived, and lets the
others wait on (R13). They are taken in order of arrival, and one that finds the claim of a tune taken ahead of it outstanding
waits for that too, since SD holds at most one tune claim: both are the model's choice (log entry 65). -/
def SD.takeTunes (s : StreamId) : List WaitingTune → Work SD → Work SD
  | [], w => w
  | x :: rest, w =>
    SD.takeTunes s rest <|
      if x.awaits = [] ∧ w.st.works[s].tune = none then SD.tuneNow s x.req x.fields w
      else w.mod fun sd => sd.onWork s fun k => { k with waiting := k.waiting ++ [x] }

/-- A claim of the stream has been answered: the tunes that waited for it alone are taken (R13). -/
def SD.resumeTunes (s : StreamId) (w : Work SD) : Work SD :=
  SD.takeTunes s w.st.works[s].waiting (w.mod fun sd => sd.onWork s fun k => { k with waiting := [] })

/-- STREAM_SEAL (R15). -/
def SD.streamSeal (r : Req) (body : List Byte) (w : Work SD) : Work SD :=
  w.layout r (oneField 1 body) fun v =>
    match index 32 v with
    | none => w.refuse r .outOfRange 1
    | some s =>
      match w.st.streams[s].state with
      | .absent => w.refuse r .noStream
      | .sealed | .deleting => w.refuse r .wrongState
      | .opened =>
        ((w.mod fun sd => sd.onStream s fun d =>
            { d with state := .sealed, sealCause := .request, settled := false }).answer r okAnswer).sendAll
          [streamEvent .streamSealed s (some 0), .sealOrder s]

/-- The last step of a teardown: the descriptor becomes ABSENT (R20). -/
def SD.becomeAbsent (s : StreamId) (w : Work SD) : Work SD :=
  let asker := w.st.works[s].delete
  let w := w.mod fun sd => (sd.onStream s fun _ => absentDescriptor).onWork s fun k =>
    { k with delete := none, handedOver := false, emptied := false, clear := false }
  let w := match asker with
    | some r => w.answer r okAnswer
    | none => w
  w.sendAll [streamEvent .streamDeleted s none, .streamAbsentReport s]

/-- No cursor is bound and no append pending (R20). -/
def Descriptor.unused (d : Descriptor) : Bool := d.cursorCount = 0 && d.pendingAppends = 0

/-- Takes a teardown as far as it can go: the hand-over to RU, and the end (R20). -/
def SD.advance (s : StreamId) (w : Work SD) : Work SD :=
  if w.st.streams[s].state = .deleting && w.st.streams[s].unused then
    let w :=
      if w.st.works[s].handedOver then w
      else (w.mod fun sd => sd.onWork s fun k => { k with handedOver := true }).send (.teardownHandover s)
    if w.st.works[s].emptied && w.st.works[s].clear then SD.becomeAbsent s w else w
  else w

/-- STREAM_DELETE (R19). -/
def SD.streamDelete (r : Req) (body : List Byte) (w : Work SD) : Work SD :=
  w.layout r (idFlagBody body) fun b =>
    match index 32 b.1 with
    | none => w.refuse r .outOfRange 1
    | some s =>
      match w.st.streams[s].state with
      | .absent => w.refuse r .noStream
      | .deleting => w.refuse r .wrongState
      | .opened | .sealed =>
        if !b.2 && !w.st.streams[s].unused then w.refuse r .inUse
        else
          SD.advance s <|
            (w.mod fun sd => (sd.onStream s fun d => { d with state := .deleting, reservation := 0 }).onWork s fun k =>
              { k with deleteClaim := true, delete := some r, handedOver := false, emptied := false
                       clear := false }).sendAll
              [.deleteClaim s w.st.streams[s].ceiling, .deleteOrderAtDe s, .deleteOrderAtAe s, .deleteOrderAtMu s]

/-- A resolved STREAM_INFO: a present stream's held count is asked of PP (R22). -/
def SD.infoOf (r : Req) (s : Option StreamId) (w : Work SD) : Work SD :=
  match s with
  | none => w.refuse r .noStream
  | some s =>
    if w.st.streams[s].state = .absent then w.refuse r .noStream else w.send (.heldQuestion s (.sd r))

/-- STREAM_INFO (R1, R22). -/
def SD.streamInfo (r : Req) (body : List Byte) (w : Work SD) : Work SD :=
  w.layout r (infoBody body) fun b =>
    match b with
    | .id v =>
      match index 32 v with
      | none => w.refuse r .outOfRange 2
      | some s => SD.infoOf r (some s) w
    | .name n => if !nameValid n then w.refuse r .outOfRange 3 else SD.infoOf r (w.st.byName n) w

/-! ### Answers of PP -/

/-- The answer to a create claim (R12). -/
def SD.createClaimAnswer (s : StreamId) (a : ClaimAnswer) (w : Work SD) : Work SD :=
  match w.st.works[s].create with
  | none => w
  | some c =>
    let w := w.mod fun sd => sd.onWork s (StreamWork.answered .create)
    SD.resumeTunes s <|
      match a with
      | .granted =>
        (w.mod fun sd => sd.onStream s fun _ => freshDescriptor .opened c.name c.values).answer c.req
          (okWith (.streamId s))
      | .refused _ => w.refuse c.req .noRoom 3

/-- The answer to a tune claim (R14). -/
def SD.tuneClaimAnswer (s : StreamId) (a : ClaimAnswer) (w : Work SD) : Work SD :=
  match w.st.works[s].tune with
  | none => w
  | some t =>
    let w := w.mod fun sd => sd.onWork s (StreamWork.answered .tune)
    SD.resumeTunes s <|
      if !w.st.streams[s].live then w.refuse t.req .gone
      else
        match a with
        | .granted =>
          ((w.mod fun sd => sd.onStream s fun d => d.withValues t.values).answer t.req okAnswer).send
            (.evaluationTrigger s)
        | .refused .ceiling => w.refuse t.req .outOfRange 5
        | .refused .shared => w.refuse t.req .noRoom 4

/-- The answer to a delete claim (R13). -/
def SD.deleteClaimAnswer (s : StreamId) (w : Work SD) : Work SD :=
  SD.resumeTunes s (w.mod fun sd => sd.onWork s (StreamWork.answered .delete))

/-- PP's held count for a STREAM_INFO (R22). -/
def SD.heldAnswer (r : Req) (s : StreamId) (held : Nat) (w : Work SD) : Work SD :=
  w.answer r (okWith (.stream (w.st.streams[s].report s held)))

/-! ### Updates of AE and RU -/

/-- An evaluation trigger for a stream that is OPEN or SEALED (R21, R132). -/
def SD.trigger (s : StreamId) (w : Work SD) : Work SD :=
  if w.st.streams[s].live then w.send (.evaluationTrigger s) else w

/-- A page open (R6). -/
def SD.pageOpen (s : StreamId) (ppn : Ppn) (w : Work SD) : Work SD :=
  if w.st.streams[s].state = .absent then w
  else
    SD.trigger s <| w.mod fun sd => sd.onStream s fun d =>
      { d with tailLpn := some d.nextLpn, nextLpn := d.nextLpn + 1, headLpn := some (d.headLpn.getD d.nextLpn)
               tailRec := some ⟨ppn, 0, 0, 0, false⟩ }

/-- A page close (R7). -/
def SD.pageClose (s : StreamId) (w : Work SD) : Work SD :=
  match w.st.streams[s].tailLpn, w.st.streams[s].tailRec with
  | some t, some rec =>
    let closed : MapRec := { rec with closed := true }
    SD.trigger s <| (w.mod fun sd => sd.onStream s fun d => { d with tailRec := some closed }).send
      (.mapWrite s t closed)
  | _, _ => w

/-- The tail record after a commit (R8). -/
def commitRecord (seq : Seq) (stamp : Clock) (r : MapRec) : MapRec :=
  { r with firstSeq := if r.firstSeq = 0 then seq else r.firstSeq, lastSeq := seq, newestStamp := stamp }

/-- Tells RU and DE that the stream is sealed and settled (R10, R16). -/
def SD.tellSettled (s : StreamId) (w : Work SD) : Work SD :=
  w.sendAll [.evaluationTrigger s, .sealedSettledReport s]

/-- The states in which a commit is applied (R8). -/
def Descriptor.takesCommit (d : Descriptor) : Bool :=
  match d.state with
  | .absent => false
  | .sealed => !d.settled
  | .opened | .deleting => true

/-- A commit (R8, R10). -/
def SD.commit (s : StreamId) (seq : Seq) (stamp : Clock) (w : Work SD) : Work SD :=
  if !w.st.streams[s].takesCommit then w
  else
    let w := w.mod fun sd => sd.onStream s fun d =>
      { d with committed := seq, tailRec := d.tailRec.map (commitRecord seq stamp)
               counters := { d.counters with appended := count d.counters.appended 1 } }
    let w := if w.st.streams[s].live then w.send (.commitReport s seq) else w
    if w.st.streams[s].state = .opened && seq = lastSeq then
      SD.tellSettled s <| (w.mod fun sd => sd.onStream s fun d =>
        { d with state := .sealed, sealCause := .exhausted, settled := true }).send
          (streamEvent .streamSealed s (some 1))
    else w

/-- A release-mark set (R9). -/
def SD.releaseMarkSet (s : StreamId) (m : Seq) (w : Work SD) : Work SD :=
  if w.st.streams[s].state = .absent then w
  else (w.mod fun sd => sd.onStream s fun d => { d with releaseMark := some m }).send (.releaseMarkSetAnswer s)

/-- A head raise (R9). -/
def SD.headRaise (s : StreamId) (m : Seq) (w : Work SD) : Work SD :=
  match w.st.streams[s].headLpn, w.st.streams[s].tailLpn with
  | some h, some t =>
    (w.mod fun sd => sd.onStream s fun d =>
      if h < t then { d with headSeq := m, headLpn := some (h + 1) }
      else { d with headSeq := m, headLpn := none, tailLpn := none, tailRec := none }).send (.headRaiseAnswer s)
  | _, _ => w

/-- A release-mark clear (R9). -/
def SD.releaseMarkClear (s : StreamId) (w : Work SD) : Work SD :=
  w.mod fun sd => sd.onStream s fun d => { d with releaseMark := none }

/-- AE's answer to a seal order (R16). -/
def SD.sealAnswer (s : StreamId) (w : Work SD) : Work SD :=
  match w.st.streams[s].state with
  | .sealed => SD.tellSettled s (w.mod fun sd => sd.onStream s fun d => { d with settled := true })
  | .deleting => w.mod fun sd => sd.onStream s fun d => { d with settled := true }
  | .absent | .opened => w

/-! ### Bindings, appends and counters -/

/-- The state rows of R17: none where the stream is OPEN or SEALED. -/
def Descriptor.bindRefusal (d : Descriptor) : Option Status :=
  match d.state with
  | .absent => some .noStream
  | .deleting => some .gone
  | .opened | .sealed => none

/-- A bind (R17). -/
def SD.bind (s : StreamId) (c : CursorId) (w : Work SD) : Work SD :=
  match w.st.streams[s].bindRefusal with
  | some st => w.send (.bindAnswer c (.refused st))
  | none =>
    if w.st.streams[s].cursorCount ≥ 8 then w.send (.bindAnswer c (.refused .noRoom))
    else
      (w.mod fun sd => sd.onStream s fun d => { d with cursorCount := d.cursorCount + 1 }).send
        (.bindAnswer c (.granted w.st.streams[s].effectiveHead w.st.streams[s].committed))

/-- A rebind (R104). -/
def SD.rebind (s : StreamId) (c : CursorId) (w : Work SD) : Work SD :=
  match w.st.streams[s].bindRefusal with
  | some st => w.send (.rebindAnswer c (.refused st))
  | none => w.send (.rebindAnswer c (.granted w.st.streams[s].effectiveHead w.st.streams[s].committed))

/-- An unbind (R17). -/
def SD.unbind (s : StreamId) (w : Work SD) : Work SD :=
  SD.advance s (w.mod fun sd => sd.onStream s fun d => { d with cursorCount := d.cursorCount - 1 })

/-- An admission, the append join of R18 (R68). -/
def SD.admission (s : StreamId) (r : Req) (w : Work SD) : Work SD :=
  if w.st.streams[s].state = .absent then w.send (.admissionAnswer r false)
  else
    (w.mod fun sd => sd.onStream s fun d => { d with pendingAppends := d.pendingAppends + 1 }).send
      (.admissionAnswer r true)

/-- An append leave (R18). -/
def SD.appendLeave (s : StreamId) (w : Work SD) : Work SD :=
  SD.advance s (w.mod fun sd => sd.onStream s fun d => { d with pendingAppends := d.pendingAppends - 1 })

/-- The counters after a counter update (R23). -/
def raiseCounter (c : StreamCounters) : CounterRaise → StreamCounters
  | .refused => { c with refused := count c.refused 1 }
  | .dropped n => { c with dropped := count c.dropped n }
  | .damaged => { c with damaged := count c.damaged 1 }

/-- A counter update (R23). -/
def SD.counterUpdate (s : StreamId) (u : CounterRaise) (w : Work SD) : Work SD :=
  if w.st.streams[s].state = .absent then w
  else w.mod fun sd => sd.onStream s fun d => { d with counters := raiseCounter d.counters u }

/-! ### Teardown reports -/

/-- RU's emptied report (R20). -/
def SD.emptiedReport (s : StreamId) (w : Work SD) : Work SD :=
  if w.st.streams[s].state = .deleting then
    SD.advance s (w.mod fun sd => sd.onWork s fun k => { k with emptied := true })
  else w

/-- MU's stream-clear report (R20). -/
def SD.streamClearReport (s : StreamId) (w : Work SD) : Work SD :=
  if w.st.streams[s].state = .deleting then
    SD.advance s (w.mod fun sd => sd.onWork s fun k => { k with clear := true })
  else w

/-! ### Questions -/

/-- SD's range answer (R48). -/
def Descriptor.range (d : Descriptor) : RangeInfo := ⟨d.state, d.headLpn, d.tailLpn, d.tailRec⟩

/-- A range question of MU's (R48). -/
def SD.rangeQuestion (s : StreamId) (ref : RangeRef) (w : Work SD) : Work SD :=
  w.send (.rangeAnswer s ref w.st.streams[s].range)

/-- A place question of AE's (R71). -/
def SD.placeQuestion (s : StreamId) (w : Work SD) : Work SD :=
  let d := w.st.streams[s]
  w.send (.placeAnswer s ⟨d.state, d.sealCause, d.committed, d.tailLpn, d.tailRec⟩)

/-- A refusal question of AE's (R74). -/
def SD.refusalQuestion (s : StreamId) (w : Work SD) : Work SD :=
  let d := w.st.streams[s]
  w.send (.refusalAnswer s ⟨d.state, d.policy, d.headLpn, d.tailLpn⟩)

/-- A position question of DE's (R91). -/
def SD.positionQuestion (s : StreamId) (c : CursorId) (w : Work SD) : Work SD :=
  w.send (.positionAnswer c w.st.streams[s].effectiveHead w.st.streams[s].committed)

/-- A view question of RU's (R133). -/
def SD.viewQuestion (s : StreamId) (w : Work SD) : Work SD :=
  let d := w.st.streams[s]
  w.send (.evaluationAnswer s (.view ⟨d.state, d.settled, d.keep, d.ageLimit, d.committed⟩))

/-- RU's scan question (R145). The answer lists the ids in rising order, and RU takes them so: the model's choice (log entry
58). -/
def SD.scanQuestion (w : Work SD) : Work SD :=
  w.send (.scanAnswer ((List.finRange 32).filter fun i => w.st.streams[i].live && w.st.streams[i].ageLimit ≠ 0))

end Sys2Proof.Machine
end

