-- ==== Sys2Proof/Machine/Map.lean ====
section
/-! DEFINITION. The Map Unit (chapter 3): what MU does at each of its events. -/

namespace Sys2Proof.Machine

/-- No map counter has been raised. -/
def noMapCounts : MapCounters := ⟨0, 0, 0, 0, 0, 0, 0, 0, 0, 0, 0, 0, 0, 0⟩

/-- MU after RESET_N and after DEVICE_RESTART (R63). -/
def MU.init : MU :=
  { cache := [], trackers := Vector.replicate 4 none, queue := [], searches := [], waiting := [], owed := false
    writes := Vector.replicate 32 0, clearDue := Vector.replicate 32 false, counters := noMapCounts }

/-- Changes the counters. -/
def MU.onCounters (m : MU) (f : MapCounters → MapCounters) : MU := { m with counters := f m.counters }

/-! ### The map cache (R50 to R52) -/

/-- The line is for the key. -/
def CacheLine.isFor (s : StreamId) (lpn : Lpn) (l : CacheLine) : Bool := l.stream = s && l.lpn = lpn

/-- The valid entry of a key. -/
def MU.cached (m : MU) (s : StreamId) (lpn : Lpn) : Option CacheLine := m.cache.find? (CacheLine.isFor s lpn)

/-- Makes an entry the most recently used (R49). -/
def MU.touch (l : CacheLine) (m : MU) : MU :=
  { m with cache := l :: m.cache.filter fun x => !x.isFor l.stream l.lpn }

/-- The lowest-numbered invalid entry (R51). -/
def MU.lowestInvalid (m : MU) : Option (Fin 32) :=
  (List.finRange 32).find? fun i => m.cache.all fun l => l.num ≠ i

/-- A fill (R51). -/
def MU.fill (s : StreamId) (lpn : Lpn) (rec : MapRec) (m : MU) : MU :=
  match m.cached s lpn with
  | some l => m.touch { l with record := rec }
  | none =>
    let filled (n : Fin 32) (rest : List CacheLine) (m : MU) : MU :=
      { m.onCounters fun c => { c with fills := count c.fills 1 } with cache := ⟨n, s, lpn, rec⟩ :: rest }
    match m.lowestInvalid with
    | some n => filled n m.cache m
    | none =>
      match m.cache.getLast? with
      | none => m
      | some old =>
        filled old.num m.cache.dropLast (m.onCounters fun c => { c with evictions := count c.evictions 1 })

/-- Makes invalid every entry that `p` names (R52). -/
def MU.invalidate (p : CacheLine → Bool) (m : MU) : MU :=
  { m.onCounters fun c => { c with invalidations := count c.invalidations (m.cache.countP p) } with
    cache := m.cache.filter fun l => !p l }

/-! ### Trackers, queue and searches -/

/-- The BUSY tracker of a key (R49). -/
def MU.walking (m : MU) (s : StreamId) (lpn : Lpn) : Option TrackerId :=
  (List.finRange 4).find? fun t => m.trackers[t].any fun k => k.stream = s && k.lpn = lpn

/-- The IDLE tracker that takes a key (R49): the lowest-numbered one, which is the model's choice (log entry 53). -/
def MU.idleTracker (m : MU) : Option TrackerId := (List.finRange 4).find? fun t => m.trackers[t].isNone

/-- The entry is for the key. -/
def QueueEntry.isFor (s : StreamId) (lpn : Lpn) (e : QueueEntry) : Bool := e.stream = s && e.lpn = lpn

/-- Changes the queue entry of a key. -/
def MU.onEntry (m : MU) (s : StreamId) (lpn : Lpn) (f : QueueEntry → QueueEntry) : MU :=
  { m with queue := m.queue.map fun e => if e.isFor s lpn then f e else e }

/-- Takes the entry of a key out of the queue. -/
def MU.leave (m : MU) (s : StreamId) (lpn : Lpn) : MU := { m with queue := m.queue.filter fun e => !e.isFor s lpn }

/-- The open search of a requester. -/
def MU.search (m : MU) (r : Searcher) : Option Search := m.searches.find? fun x => x.who == r

/-- Changes the open search of a requester. -/
def MU.onSearch (m : MU) (r : Searcher) (f : Search → Search) : MU :=
  { m with searches := m.searches.map fun x => if x.who = r then f x else x }

/-- Closes the search of a requester. -/
def MU.endSearch (m : MU) (r : Searcher) : MU :=
  { m with searches := m.searches.filter fun x => x.who ≠ r, waiting := m.waiting.filter (· ≠ r) }

/-- The message that carries the answer of a search to DE (R57). -/
def searchReply (r : Searcher) (a : MapAnswer) : Instr :=
  match r with
  | .delivery b => .lookupAnswer b a
  | .positioning c => .searchAnswer c a

/-- Ends a search with its answer (R57). -/
def MU.finish (r : Searcher) (a : MapAnswer) (w : Work MU) : Work MU :=
  (w.mod fun m => m.endSearch r).send (searchReply r a)

/-- A tracker takes a key and issues its walk (R54). -/
def MU.walk (t : TrackerId) (s : StreamId) (lpn : Lpn) (waiters : List Looker) (w : Work MU) : Work MU :=
  (w.mod fun m =>
    { m.onCounters fun c => { c with walks := count c.walks 1 } with
      trackers := m.trackers.set t (some ⟨s, lpn, waiters, false⟩) }).send
    (.mpOperationIssue ⟨.walkRead t, slotPage s lpn, slotOffset lpn, 16, []⟩)

/-! ### Lookups by LPN (R48, R49) -/

/-- A lookup by LPN arrives, from DE or as a probe (R48). -/
def MU.lookup (s : StreamId) (lpn : Lpn) (r : Looker) (w : Work MU) : Work MU :=
  (w.mod fun m => m.onCounters fun c => { c with lookups := count c.lookups 1 }).send (.rangeQuestion s (.lookup lpn r))

/-- A search probes an LPN: a lookup with the search's reference (R58). -/
def MU.probe (r : Searcher) (s : StreamId) (lpn : Lpn) (w : Work MU) : Work MU :=
  MU.lookup s lpn (.probe r) (w.mod fun m => m.onSearch r fun x => { x with probe := some lpn })

/-- The middle of the closed pages still to be searched, the lower of two (R58). -/
def Search.middle (x : Search) : Lpn := (x.lo + x.stop - 1) / 2

/-- Halves on, or answers when no page is left (R58, items 2 and 3). -/
def MU.halve (x : Search) (w : Work MU) : Work MU :=
  if x.lo < x.stop then
    MU.probe x.who x.stream x.middle (w.mod fun m => m.onSearch x.who fun _ => x)
  else
    match x.best with
    | none => MU.finish x.who .below w
    | some (lpn, rec) => MU.finish x.who (if x.q ≤ rec.lastSeq then .found lpn rec else .above) w

/-- Begins a search, for the first time or again (R58, R59). -/
def MU.beginSearch (x : Search) (w : Work MU) : Work MU :=
  (w.mod fun m => m.onSearch x.who fun x => { x with best := none, probe := none }).send
    (.rangeQuestion x.stream (.search x.who))

/-- A probe is answered (R58, R59). -/
def MU.probed (r : Searcher) (s : StreamId) (lpn : Lpn) (a : MapAnswer) (w : Work MU) : Work MU :=
  match w.st.search r with
  | none => w
  | some x =>
    if x.stream = s && x.probe = some lpn then
      match a with
      | .found _ rec =>
        let x : Search := { x with probe := none }
        MU.halve (if rec.firstSeq ≤ x.q then { x with best := some (lpn, rec), lo := lpn + 1 } else { x with stop := lpn }) w
      | .gone => MU.finish r .gone w
      | _ => MU.beginSearch x w
    else w

/-- Answers one requester of a lookup by LPN. -/
def MU.tell (s : StreamId) (lpn : Lpn) (a : MapAnswer) (r : Looker) (w : Work MU) : Work MU :=
  match r with
  | .delivery b => w.send (.lookupAnswer b a)
  | .probe q => MU.probed q s lpn a w

/-- Answers a waiter list, in order (R55). -/
def MU.tellAll (s : StreamId) (lpn : Lpn) (a : MapAnswer) (rs : List Looker) (w : Work MU) : Work MU :=
  rs.foldl (fun w r => MU.tell s lpn a r w) w

/-- A miss is counted (R49). -/
def MU.miss (m : MU) : MU := m.onCounters fun c => { c with misses := count c.misses 1 }

/-- A miss whose requester joins others is counted, and the merge too (R49). -/
def MU.merge (m : MU) : MU := m.miss.onCounters fun c => { c with merges := count c.merges 1 }

/-- A lookup for which the queue has no place (R49 case 6, R59). -/
def MU.noPlace (r : Looker) (w : Work MU) : Work MU :=
  match r with
  | .delivery b =>
    (w.mod fun m => { m.onCounters fun c => { c with retries := count c.retries 1 } with owed := true }).send
      (.lookupAnswer b .retry)
  | .probe q => w.mod fun m => { m with waiting := m.waiting ++ [q] }

/-- Resolves a closed LPN (R49). -/
def MU.resolve (s : StreamId) (lpn : Lpn) (r : Looker) (w : Work MU) : Work MU :=
  match w.st.cached s lpn with
  | some l =>
    MU.tell s lpn (.found lpn l.record) r <| w.mod fun m =>
      (m.touch l).onCounters fun c => { c with hits := count c.hits 1 }
  | none =>
    match w.st.walking s lpn with
    | some t =>
      w.mod fun m =>
        { MU.merge m with
          trackers := upd m.trackers t fun k => k.map fun k => { k with waiters := k.waiters ++ [r] } }
    | none =>
      if w.st.queue.any (QueueEntry.isFor s lpn) then
        w.mod fun m => (MU.merge m).onEntry s lpn fun e => { e with waiters := e.waiters ++ [r] }
      else
        match w.st.idleTracker with
        | some t => MU.walk t s lpn [r] (w.mod MU.miss)
        | none =>
          if w.st.queue.length < 8 then
            w.mod fun m => { m.miss with queue := m.queue ++ [⟨s, lpn, [r], false, none⟩] }
          else MU.noPlace r (w.mod MU.miss)

/-- The LPNs that a range answer places below the tail page. -/
inductive Place where
  | gone | notHeld | tail (r : MapRec) | closed
  deriving DecidableEq, Repr

/-- Where a range answer places an LPN (R48). -/
def placeOf (i : RangeInfo) (lpn : Lpn) : Place :=
  if i.state = .absent || i.state = .deleting then .gone
  else
    match i.head, i.tail, i.tailRec with
    | some h, some t, some rec =>
      if lpn < h || t < lpn then .notHeld else if lpn = t then .tail rec else .closed
    | _, _, _ => .notHeld

/-- The requester still waits for its lookup: a probe is withdrawn when its search has ended (R59). -/
def MU.asked (m : MU) (s : StreamId) (lpn : Lpn) : Looker → Bool
  | .delivery _ => true
  | .probe q => (m.search q).any fun x => x.stream = s && x.probe = some lpn

/-- The range answer of a lookup (R48). -/
def MU.lookupRange (s : StreamId) (lpn : Lpn) (r : Looker) (i : RangeInfo) (w : Work MU) : Work MU :=
  if !w.st.asked s lpn r then w
  else
    match placeOf i lpn with
    | .gone => MU.tell s lpn .gone r w
    | .notHeld => MU.tell s lpn .notHeld r w
    | .tail rec =>
      MU.tell s lpn (.found lpn rec) r <| w.mod fun m =>
        m.onCounters fun c => { c with tailAnswers := count c.tailAnswers 1 }
    | .closed => MU.resolve s lpn r w

/-- The entry at the front of the queue is resolved with its range answer (R55, item 5). -/
def MU.resolveEntry (e : QueueEntry) (i : RangeInfo) (w : Work MU) : Work MU :=
  let left := w.mod fun m => m.leave e.stream e.lpn
  match placeOf i e.lpn with
  | .gone => MU.tellAll e.stream e.lpn .gone e.waiters left
  | .notHeld => MU.tellAll e.stream e.lpn .notHeld e.waiters left
  | .tail _ | .closed =>
    match w.st.cached e.stream e.lpn with
    | some l =>
      MU.tellAll e.stream e.lpn (.found e.lpn l.record) e.waiters <| left.mod fun m =>
        (m.touch l).onCounters fun c => { c with hits := count c.hits e.waiters.length }
    | none =>
      match w.st.idleTracker with
      | some t => MU.walk t e.stream e.lpn e.waiters left
      | none => w.mod fun m => m.onEntry e.stream e.lpn fun e => { e with asking := false, answer := none }

/-- Resolves the entries at the front of the queue whose range answers have arrived, in their order; an answer that came while
entries ahead were still in the queue has been kept for this (R56, log entry 62). `n`: at most so many. -/
def MU.resolveFront : Nat → Work MU → Work MU
  | 0, w => w
  | n + 1, w =>
    match w.st.queue with
    | [] => w
    | e :: _ =>
      match e.answer with
      | some i => MU.resolveFront n (MU.resolveEntry e i w)
      | none => w

/-- Resolves what can be resolved at the front of the queue (R56). -/
def MU.advanceQueue (w : Work MU) : Work MU := MU.resolveFront w.st.queue.length w

/-- The range answer of a queue entry taken for resolution (R55, item 5; R56). -/
def MU.queuedRange (s : StreamId) (lpn : Lpn) (i : RangeInfo) (w : Work MU) : Work MU :=
  if w.st.queue.any fun e => e.isFor s lpn && e.asking then
    MU.advanceQueue (w.mod fun m => m.onEntry s lpn fun e => { e with answer := some i })
  else w

/-! ### Searches (R57 to R59) -/

/-- A lookup by sequence arrives (R57). -/
def MU.lookupBySequence (s : StreamId) (q : Seq) (r : Searcher) (w : Work MU) : Work MU :=
  (w.mod fun m =>
    { (m.endSearch r).onCounters fun c => { c with searches := count c.searches 1 } with
      searches := (m.endSearch r).searches ++ [⟨r, s, q, 0, 0, none, none⟩] }).send (.rangeQuestion s (.search r))

/-- A search's range answer: the tail record first, then the closed pages (R58). -/
def MU.searchRange (s : StreamId) (r : Searcher) (i : RangeInfo) (w : Work MU) : Work MU :=
  match w.st.search r with
  | none => w
  | some x =>
    if x.stream ≠ s || x.probe.isSome then w
    else if i.state = .absent || i.state = .deleting then MU.finish r .gone w
    else
      match i.head, i.tail, i.tailRec with
      | some h, some t, some rec =>
        if rec.firstSeq ≠ 0 && rec.firstSeq ≤ x.q then
          MU.finish r (if x.q ≤ rec.lastSeq then .found t rec else .above) w
        else if h = t then MU.finish r (if rec.firstSeq = 0 then .nothing else .below) w
        else MU.halve { x with lo := h, stop := t, best := none } w
      | _, _, _ => MU.finish r .nothing w

/-! ### Head reads (R134) -/

/-- The message that carries a head read's answer to RU (R134). -/
def headReply (s : StreamId) (why : HeadWhy) (h : HeadAnswer) : Instr :=
  match why with
  | .evaluation => .evaluationAnswer s (.head h)
  | .recycle => .recycleHeadAnswer s h
  | .teardown => .teardownHeadAnswer s h

/-- A head read of RU's (R134). -/
def MU.headRead (s : StreamId) (why : HeadWhy) (w : Work MU) : Work MU := w.send (.rangeQuestion s (.headRead why))

/-- The range answer of a head read (R134). -/
def MU.headRange (s : StreamId) (why : HeadWhy) (i : RangeInfo) (w : Work MU) : Work MU :=
  match i.head, i.tail, i.tailRec with
  | some h, some t, some rec =>
    if h < t then
      match w.st.cached s h with
      | some l => w.send (headReply s why ⟨i.state, some ⟨h, t, { l.record with closed := true }⟩⟩)
      | none => w.send (.mpOperationIssue ⟨.headRead s why i.state h t, slotPage s h, slotOffset h, 16, []⟩)
    else w.send (headReply s why ⟨i.state, some ⟨h, t, rec⟩⟩)
  | _, _, _ => w.send (headReply s why ⟨i.state, none⟩)

/-- The ring read of a head read completes (R134). -/
def MU.headReadDone (s : StreamId) (why : HeadWhy) (st : StreamState) (h t : Lpn) (bytes : List Byte) (w : Work MU) :
    Work MU := w.send (headReply s why ⟨st, some ⟨h, t, slotRecord bytes⟩⟩)

/-- A range answer of SD's, by the question it answers (R48). -/
def MU.rangeAnswer (s : StreamId) (ref : RangeRef) (i : RangeInfo) (w : Work MU) : Work MU :=
  match ref with
  | .lookup lpn r => MU.lookupRange s lpn r i w
  | .search r => MU.searchRange s r i w
  | .queued lpn => MU.queuedRange s lpn i w
  | .headRead why => MU.headRange s why i w

/-! ### Completions (R46, R47, R55, R60) -/

/-- A walk or a map write of the stream is in flight (R60). -/
def MU.inFlight (m : MU) (s : StreamId) : Bool :=
  m.trackers.any (fun t => t.any fun k => k.stream = s) || m.writes[s] ≠ 0

/-- Sends the stream-clear report that is due, once nothing of the stream is in flight (R60). -/
def MU.reportClear (s : StreamId) (w : Work MU) : Work MU :=
  if w.st.clearDue[s] && !w.st.inFlight s then
    (w.mod fun m => { m with clearDue := m.clearDue.set s false }).send (.streamClearReport s)
  else w

/-- The owed tracker-free report (R55, item 4). -/
def MU.payRetry (w : Work MU) : Work MU :=
  if w.st.owed then (w.mod fun m => { m with owed := false }).send .trackerFreeReport else w

/-- The next queue entry is taken for resolution (R55, item 5). -/
def MU.askNext (w : Work MU) : Work MU :=
  match w.st.queue.find? (fun e => !e.asking) with
  | none => w
  | some e =>
    (w.mod fun m => m.onEntry e.stream e.lpn fun e => { e with asking := true }).send
      (.rangeQuestion e.stream (.queued e.lpn))

/-- A search waiting for a place offers its probe again (R59). -/
def MU.retryProbe (w : Work MU) (r : Searcher) : Work MU :=
  match w.st.search r with
  | some x =>
    match x.probe with
    | some lpn => MU.probe r x.stream lpn w
    | none => w
  | none => w

/-- The searches waiting for a place, in the order in which they began to wait (R55, item 4). -/
def MU.retryWaiting (w : Work MU) : Work MU :=
  w.st.waiting.foldl MU.retryProbe (w.mod fun m => { m with waiting := [] })

/-- A walk completes (R55). A stream-clear report that becomes due goes out last, behind the range questions: the model's choice
(log entry 66). -/
def MU.walkDone (t : TrackerId) (bytes : List Byte) (w : Work MU) : Work MU :=
  match w.st.trackers[t] with
  | none => w
  | some k =>
    let record := slotRecord bytes
    let held := record.ppn ≠ 0
    let w := MU.tellAll k.stream k.lpn (if held then .found k.lpn record else .notHeld) k.waiters w
    let w := if held && !k.noFill then w.mod (MU.fill k.stream k.lpn record) else w
    let w := w.mod fun m => { m with trackers := m.trackers.set t none }
    MU.reportClear k.stream (MU.retryWaiting (MU.askNext (MU.payRetry w)))

/-- A map write (R46). -/
def MU.mapWrite (s : StreamId) (lpn : Lpn) (rec : MapRec) (w : Work MU) : Work MU :=
  (w.mod fun m =>
    { m.onCounters fun c => { c with mapWrites := count c.mapWrites 1 } with
      writes := upd m.writes s (· + 1) }).send
    (.mpOperationIssue ⟨.mapWrite s lpn rec, slotPage s lpn, slotOffset lpn, 16, slotBytes rec⟩)

/-- The map write's completion: a valid entry's copy is replaced in place (R46). -/
def MU.mapWriteDone (s : StreamId) (lpn : Lpn) (rec : MapRec) (w : Work MU) : Work MU :=
  MU.reportClear s <| w.mod fun m =>
    { m with writes := upd m.writes s (· - 1)
             cache := m.cache.map fun l => if l.isFor s lpn then { l with record := rec } else l }

/-- A slot clear (R47). -/
def MU.slotClear (s : StreamId) (lpn : Lpn) (w : Work MU) : Work MU :=
  (w.mod fun m => m.onCounters fun c => { c with slotClears := count c.slotClears 1 }).send
    (.mpOperationIssue ⟨.slotClear s lpn, slotPage s lpn, slotOffset lpn, 16, List.replicate 16 0⟩)

/-- The slot clear's completion (R47). -/
def MU.slotClearDone (s : StreamId) (lpn : Lpn) (w : Work MU) : Work MU :=
  (w.mod (MU.invalidate (CacheLine.isFor s lpn))).send (.clearDoneReport s lpn)

/-! ### Delete order, flush and status (R60 to R62) -/

/-- The delivery buffers among waiters; a probe is answered through its search. -/
def goneReplies (rs : List Looker) : List Instr :=
  rs.filterMap fun r =>
    match r with
    | .delivery b => some (.lookupAnswer b .gone)
    | .probe _ => none

/-- Marks a tracker of the stream and removes its waiters (R60). -/
def Tracker.cut (s : StreamId) (t : Option Tracker) : Option Tracker :=
  t.map fun k => if k.stream = s then { k with noFill := true, waiters := [] } else k

/-- The waiters of a stream's trackers and queue entries, in order (R60). -/
def MU.waitersOf (m : MU) (s : StreamId) : List Looker :=
  (m.trackers.toList.flatMap fun t =>
    match t with
    | some k => if k.stream = s then k.waiters else []
    | none => []) ++
  (m.queue.filter fun e => e.stream = s).flatMap QueueEntry.waiters

/-- A delete order (R60). The GONE answers go out by tracker number, then in queue order, then to the searches in the order of
their opening, and all of them ahead of the answers of queue entries of other streams that come to the front: the model's
choice (log entry 54). -/
def MU.deleteOrder (s : StreamId) (w : Work MU) : Work MU :=
  let waiters := w.st.waitersOf s
  let ended := (w.st.searches.filter fun x => x.stream = s).map Search.who
  MU.reportClear s <| MU.advanceQueue <|
    ((w.mod fun m =>
      { m.invalidate (fun l => l.stream = s) with
        trackers := m.trackers.map (Tracker.cut s)
        queue := m.queue.filter fun e => e.stream ≠ s
        searches := m.searches.filter fun x => x.stream ≠ s
        waiting := m.waiting.filter fun r => !ended.contains r
        clearDue := m.clearDue.set s true }).sendAll (goneReplies waiters)).sendAll
      (ended.map fun r => searchReply r .gone)

/-- MAP_FLUSH (R61). -/
def MU.flush (r : Req) (body : List Byte) (w : Work MU) : Work MU :=
  w.layout r (emptyBody body) fun _ =>
    (w.mod fun m =>
      { (m.invalidate fun _ => true).onCounters fun c => { c with flushes := count c.flushes 1 } with
        trackers := m.trackers.map fun t => t.map fun k => { k with noFill := true } }).answer r okAnswer

/-- MAP_STATUS (R62). -/
def MU.status (r : Req) (body : List Byte) (w : Work MU) : Work MU :=
  w.layout r (clearBody body) fun clear =>
    let a := okWith (.map w.st.cache.length (w.st.trackers.toList.countP Option.isSome) w.st.queue.length w.st.counters)
    (if clear then w.mod fun m => m.onCounters fun _ => noMapCounts else w).answer r a

end Sys2Proof.Machine
end

