-- ==== Sys2Proof/Machine/Memory.lean ====
section
/-! DEFINITION. The external DRAM and the Memory Port (chapter 11): bytes, class queues and the grant in rotation. -/

namespace Sys2Proof.Machine

/-! ### The DRAM (R194, R198, R200) -/

/-- The byte written at an address, absent where nothing has been written. -/
def Dram.written (d : Dram) (a : Nat) : Option Byte := (d.cells.find? fun c => c.1 == a).map Prod.snd

/-- The byte at an address: what was written last, or the undefined contents (R198, R200, log entry 5). -/
def Dram.byte (d : Dram) (a : Nat) : Byte := (d.written a).getD (Config.dramByte d.epoch a)

/-- The bytes at `n` addresses from `a` (R198). -/
def Dram.read (d : Dram) (a n : Nat) : List Byte := (List.range n).map fun k => d.byte (a + k)

/-- The cells of bytes laid from address `a` up. -/
def cellsFrom (a : Nat) : List Byte → List Host.Cell
  | [] => []
  | b :: bs => (a, b) :: cellsFrom (a + 1) bs

/-- Writes bytes from address `a` up. -/
def Dram.write (d : Dram) (a : Nat) (bs : List Byte) : Dram :=
  { d with cells := d.cells.filter (fun c => c.1 < a) ++ cellsFrom a bs ++
                    d.cells.filter fun c => a + bs.length ≤ c.1 }

/-- The contents become undefined (R200). -/
def Dram.lose (d : Dram) : Dram := ⟨[], d.epoch + 1⟩

/-- Makes `n` bytes from address `a` undefined again, on their own (R201, R202). -/
def Dram.spoil (d : Dram) (a n : Nat) : Dram :=
  { d with cells := d.cells.filter fun c => c.1 < a || a + n ≤ c.1 }

/-- The addresses of a list of cells rise strictly, all at or above `a`. -/
def rising (a : Nat) : List Host.Cell → Bool
  | [] => true
  | c :: cs => a ≤ c.1 && rising (c.1 + 1) cs

/-- The memory is in its canonical form: addresses strictly rising. An unlisted address has no value, so no entry equals what
an unlisted address reads as. -/
def Dram.wf (d : Dram) : Bool := rising 0 d.cells

/-! ### The Memory Port (R195 to R197) -/

/-- MP after RESET_N, with the DRAM's contents undefined for the first time (R200). -/
def MP.init : MP :=
  { calibrated := false, appendWrites := [], deliveryReads := [], maps := [], last := .map, busy := none
    dram := ⟨[], 0⟩ }

/-- The class of an operation (R195). -/
def classOf : MpRef → MpClass
  | .entryWrite | .padWrite => .appendWrite
  | .headerRead _ | .payloadRead _ => .deliveryRead
  | .mapWrite _ _ _ | .slotClear _ _ | .walkRead _ | .headRead _ _ _ _ _ => .map

/-- The operation writes (R195). -/
def writes : MpRef → Bool
  | .entryWrite | .padWrite | .mapWrite _ _ _ | .slotClear _ _ => true
  | .headerRead _ | .payloadRead _ | .walkRead _ | .headRead _ _ _ _ _ => false

/-- The queue of a class. -/
def MP.queue (m : MP) : MpClass → List MpOp
  | .appendWrite => m.appendWrites
  | .deliveryRead => m.deliveryReads
  | .map => m.maps

/-- Sets the queue of a class. -/
def MP.setQueue (m : MP) (c : MpClass) (q : List MpOp) : MP :=
  match c with
  | .appendWrite => { m with appendWrites := q }
  | .deliveryRead => { m with deliveryReads := q }
  | .map => { m with maps := q }

/-- The order in which the arbiter looks at the classes: from the one after the last granted (R197). -/
def classesAfter : MpClass → List MpClass
  | .map => [.appendWrite, .deliveryRead, .map]
  | .appendWrite => [.deliveryRead, .map, .appendWrite]
  | .deliveryRead => [.map, .appendWrite, .deliveryRead]

/-- The arbiter grants the head of the first class that waits, when the DRAM is idle (R197). -/
def MP.grant (m : MP) : MP :=
  match m.busy with
  | some _ => m
  | none =>
    match (classesAfter m.last).find? fun c => !(m.queue c).isEmpty with
    | none => m
    | some c => { m.setQueue c (m.queue c).tail with busy := (m.queue c).head?, last := c }

/-- An operation is issued (R196). -/
def MP.issue (op : MpOp) (m : MP) : MP :=
  let c := classOf op.ref
  (m.setQueue c (m.queue c ++ [op])).grant

/-- The address of an operation's first byte (R194). -/
def addressOf (op : MpOp) : Nat := op.page * Config.pageBytes + op.offset

/-- The operation lies inside one page of the strap-selected DRAM (R194). -/
def reaches (memsize : Bool) (op : MpOp) : Bool :=
  op.page < Config.pages memsize && op.offset + op.len ≤ Config.pageBytes

/-- The completion of an operation, an event at its issuer (R195). -/
def completion (bytes : List Byte) : MpRef → Instr
  | .entryWrite => .entryWriteDone
  | .padWrite => .padWriteDone
  | .headerRead b => .headerReadDone b bytes
  | .payloadRead b => .payloadReadDone b bytes
  | .mapWrite s lpn r => .mapWriteDone s lpn r
  | .slotClear s lpn => .slotClearDone s lpn
  | .walkRead t => .walkDone t bytes
  | .headRead s why st h t => .headReadDone s why st h t bytes

/-- The bytes that a write moves: its data, as many as it is long (R195). -/
def writtenBytes (op : MpOp) : List Byte := op.data.take op.len

/-- The DRAM after an operation. -/
def Dram.perform (op : MpOp) (d : Dram) : Dram := if writes op.ref then d.write (addressOf op) (writtenBytes op) else d

/-- The bytes a completed operation brings back. -/
def Dram.result (op : MpOp) (d : Dram) : List Byte := if writes op.ref then [] else d.read (addressOf op) op.len

/-- The DRAM finishes the operation being performed (R197, R198). -/
def MP.finish (op : MpOp) (w : Work MP) : Work MP :=
  (w.mod fun m => { m with busy := none, dram := m.dram.perform op }.grant).send
    (completion (w.st.dram.result op) op.ref)

/-- The operation being performed is cut off after `n` bytes (R200, R206); one that does not lie in the DRAM has written none
(R194). -/
def MP.cut (memsize : Bool) (n : Nat) (m : MP) : MP :=
  match m.busy with
  | none => m
  | some op =>
    { m with busy := none
             dram := if writes op.ref && reaches memsize op then m.dram.write (addressOf op) ((writtenBytes op).take n)
                     else m.dram }

/-- MP's abandon order (R206). -/
def MP.abandon (memsize : Bool) (n : Nat) (m : MP) : MP :=
  { m.cut memsize n with appendWrites := [], deliveryReads := [], maps := [], last := .map }

/-! ### Calibration and the start-up check (R201, R202) -/

/-- Bytes that calibration and the check use in an area. -/
def areaBytes : Nat := 512

/-- The address of the second area: the last page (R202). -/
def lastArea (memsize : Bool) : Nat := (Config.pages memsize - 1) * Config.pageBytes

/-- Pass 1's pattern (R202). -/
def passOne : List Byte := (List.range areaBytes).map fun k => BitVec.ofNat 8 (k % 256)

/-- Pass 2's pattern (R202). -/
def passTwo : List Byte := (List.range areaBytes).map fun k => BitVec.ofNat 8 (255 - k % 256)

/-- A step of the start-up check, on the area at an address (R202). -/
inductive CheckStep where
  | write (area : Nat) (pattern : List Byte)
  | compare (area : Nat) (pattern : List Byte)
  deriving DecidableEq, Repr

/-- The four steps of a pass (R202). -/
def passSteps (memsize : Bool) (pattern : List Byte) : List CheckStep :=
  [.write 0 pattern, .write (lastArea memsize) pattern, .compare 0 pattern, .compare (lastArea memsize) pattern]

/-- The steps of the start-up check: pass 1, then pass 2 (R202). -/
def checkSteps (memsize : Bool) : List CheckStep := passSteps memsize passOne ++ passSteps memsize passTwo

/-- The check from a step on: the DRAM it leaves, and whether every comparison came out equal. It ends at the first comparison
that does not (R202). `faulty`: the DRAM answers the comparison after so many more with another byte than it was given; absent
where it answers every one with what it was given (log entry 63). -/
def Dram.check : (faulty : Option Nat) → List CheckStep → Dram → Dram × Bool
  | _, [], d => (d, true)
  | f, .write a bs :: rest, d => Dram.check f rest (d.write a bs)
  | some 0, .compare _ _ :: _, d => (d, false)
  | f, .compare a bs :: rest, d => if d.read a bs.length = bs then Dram.check (f.map (· - 1)) rest d else (d, false)

end Sys2Proof.Machine
end

