-- ==== Sys2Proof/Machine/Notice.lean ====
section
/-! DEFINITION. The Notice Unit (chapter 8): what NU does at each of its events. -/

namespace Sys2Proof.Machine

/-- No session is open at NU for the port (R159). -/
def noSession : NuPort := ⟨false, 0, ⟨false, false, false⟩, [], 0, false⟩

/-- NU after RESET_N and after DEVICE_RESTART (R159). -/
def NU.init : NU := ⟨Vector.replicate 4 noSession⟩

/-- Changes what NU keeps for one port. -/
def NU.change (p : Port) (f : NuPort → NuPort) (w : Work NU) : Work NU := w.mod fun n => { n with ports := upd n.ports p f }

/-- The lost count after `n` more discarded notices: it saturates at 65,535 (R154). -/
def lose (p : NuPort) (n : Nat) : NuPort := { p with lost := satAdd 65535 p.lost n }

/-- A copy joins a queue that has a place, carrying the lost count (R154). -/
def join (n : Notice) (p : NuPort) : NuPort := { p with queue := p.queue ++ [{ n with lost := p.lost }], lost := 0 }

/-- A copy joins the queue, or is lost (R154). -/
def queueCopy (n : Notice) (p : NuPort) : NuPort := if p.queue.length < 16 then join n p else lose p 1

/-- A kind of the always-sent class (R151). -/
def NoticeKind.always : NoticeKind → Bool
  | .roleChanged | .restart => true
  | _ => false

/-- Removes the newest notice that is not always sent, counting it and what it carried as lost (R155). -/
def makeRoom (p : NuPort) : NuPort :=
  match p.queue.reverse.find? (fun n => !NoticeKind.always n.kind) with
  | none => p
  | some n => lose { p with queue := (p.queue.reverse.eraseP fun x => !NoticeKind.always x.kind).reverse } (1 + n.lost)

/-- An always-sent copy joins the queue (R155). -/
def queueAlways (n : Notice) (p : NuPort) : NuPort := join n (if p.queue.length < 16 then p else makeRoom p)

/-- A change of a port's queue, offered to the arbiter when the queue was empty before (R156). -/
def NU.enqueue (p : Port) (f : NuPort → NuPort) (w : Work NU) : Work NU :=
  let fresh := w.st.ports[p].queue.isEmpty
  let w := NU.change p f w
  if fresh && !w.st.ports[p].queue.isEmpty then w.send (.transmitOffer p) else w

/-- The session is open at NU (R151). -/
def NU.knows (n : NU) (sess : SessId) : Bool := n.ports[sess.port].isOpen && n.ports[sess.port].number = sess.number

/-- A CURSOR_GAP that did not reach its session goes back to DE (R158). -/
def NU.giveBack (kind : NoticeKind) (c : Option CursorId) (v : Option Nat) (sess : SessId) (w : Work NU) : Work NU :=
  match kind, c with
  | .cursorGap, some c => w.send (.returnedCursorGap c (v.getD 0) sess)
  | _, _ => w

/-- One copy of an event of class POOL or STREAM at one port (R151, R157). -/
def NU.fan (wants : Mask → Bool) (n : Notice) (w : Work NU) (p : Port) : Work NU :=
  let q := w.st.ports[p]
  if q.isOpen && wants q.mask && !q.draining then NU.enqueue p (queueCopy n) w else w

/-- An event addressed to one session, of class CURSOR (R151). -/
def NU.cursorEvent (n : Notice) (sess : SessId) (w : Work NU) : Work NU :=
  if w.st.knows sess then
    let q := w.st.ports[sess.port]
    if q.mask.cursor && !q.draining then NU.enqueue sess.port (queueCopy n) w else w
  else NU.giveBack n.kind n.cursor n.value sess w

/-- An event of an always-sent kind; RESTART begins the drain (R155, R157). -/
def NU.alwaysEvent (n : Notice) (sess : SessId) (w : Work NU) : Work NU :=
  if w.st.knows sess && !w.st.ports[sess.port].draining then
    let w := NU.enqueue sess.port (queueAlways n) w
    if n.kind = .restart then NU.change sess.port (fun p => { p with draining := true }) w else w
  else w

/-- An event arrives and is fanned out (R151). -/
def NU.event (clock : Clock) (e : Event) (w : Work NU) : Work NU :=
  let n : Notice := ⟨e.kind, clock, e.stream, e.cursor, e.value, 0⟩
  match e.kind with
  | .pressureOn | .pressureOff => (List.finRange 4).foldl (NU.fan Mask.pool n) w
  | .streamFull | .streamSealed | .streamDeleted => (List.finRange 4).foldl (NU.fan Mask.stream n) w
  | .cursorGap | .cursorStalled | .cursorDrained | .entryDamaged =>
    match e.addressee with
    | some sess => NU.cursorEvent n sess w
    | none => w
  | .roleChanged | .restart =>
    match e.addressee with
    | some sess => NU.alwaysEvent n sess w
    | none => w

/-- A session-open report (R153). -/
def NU.openSession (sess : SessId) (mask : Mask) (w : Work NU) : Work NU :=
  NU.change sess.port (fun _ => ⟨true, sess.number, mask, [], 0, false⟩) w

/-- Every session has ended. -/
def NU.allClosed (n : NU) : Bool := n.ports.toList.all fun p => !p.isOpen

/-- A session ends at NU: its queued gaps go back, the rest is discarded, and the last end of a restart is reported
(R153, R159). The gaps go back in queue order: the model's choice (log entry 78). -/
def NU.endSession (restarting : Bool) (sess : SessId) (w : Work NU) : Work NU :=
  if w.st.knows sess then
    let queue := w.st.ports[sess.port].queue
    let w := NU.change sess.port (fun _ => noSession) w
    let w := queue.foldl (fun w n => NU.giveBack n.kind n.cursor n.value sess w) w
    if restarting && w.st.allClosed then w.send .nuResetReport else w
  else w

/-- The arbiter has taken the head of the queue (R156). -/
def NU.taken (p : Port) (w : Work NU) : Work NU :=
  let w := NU.change p (fun q => { q with queue := q.queue.tail }) w
  if w.st.ports[p].queue.isEmpty then w else w.send (.transmitOffer p)

/-- A sent or dropped report (R156, R157). -/
def NU.report (restarting : Bool) (sess : SessId) (n : Notice) (sent : Bool) (w : Work NU) : Work NU :=
  if n.kind = .restart then NU.endSession restarting sess w
  else if sent then w
  else NU.giveBack n.kind n.cursor n.value sess w

/-- NOTICE_MASK (R152). -/
def NU.noticeMask (r : Req) (body : List Byte) (w : Work NU) : Work NU :=
  w.layout r (oneField 1 body) fun v =>
    match maskOf v with
    | none => w.refuse r .outOfRange 1
    | some m =>
      (if w.st.knows r.sess then NU.change r.sess.port (fun p => { p with mask := m }) w else w).answer r
        (okWith (.mask m))

end Sys2Proof.Machine
end

