-- ==== Sys2Proof/Machine/Pool.lean ====
section
/-! DEFINITION. The Page Pool (chapter 2): what PP does at each of its events. -/

namespace Sys2Proof.Machine

/-- An inactive quota record (R28). -/
def noQuota : Quota := ⟨false, 0, 0, 0⟩

/-- PP after RESET_N and after DEVICE_RESTART (R27). -/
def PP.init : PP :=
  { free := [], pages := [], quotas := Vector.replicate 32 noQuota, lowMark := 1024, clearMark := 2048
    pressure := false, ready := false, counters := ⟨0, 0, 0, 0, 0, 0⟩ }

/-! ### The free list (R26) -/

/-- How many pages a free list holds. -/
def freeCount (l : List Run) : Nat := (l.map Run.count).sum

/-- The page numbers of a free list, in order. -/
def freeList (l : List Run) : List Ppn := l.flatMap fun r => List.range' r.first r.count

/-- Takes the page at the head of the free list. -/
def takeFree : List Run → Option (Ppn × List Run)
  | [] => none
  | ⟨_, 0⟩ :: rest => takeFree rest
  | ⟨p, n + 1⟩ :: rest => some (p, if n = 0 then rest else ⟨p + 1, n⟩ :: rest)

/-- Puts a page at the tail of the free list. -/
def putFree (p : Ppn) : List Run → List Run
  | [] => [⟨p, 1⟩]
  | [r] => if r.first + r.count = p then [⟨r.first, r.count + 1⟩] else [r, ⟨p, 1⟩]
  | r :: rest => r :: putFree p rest

/-! ### Accounting (R28) -/

/-- unused(s) of a quota record (R28). -/
def Quota.unused (q : Quota) : Nat := q.reservation - q.held

/-- U, the unused reservations of all records (R28). -/
def PP.unused (p : PP) : Nat := (p.quotas.toList.map Quota.unused).sum

/-- shared_free (R28). -/
def PP.sharedFree (p : PP) : Nat := freeCount p.free - p.unused

/-- Changes one quota record. -/
def PP.onQuota (p : PP) (s : StreamId) (f : Quota → Quota) : PP := { p with quotas := upd p.quotas s f }

/-- Changes the record of one page that is not FREE. -/
def PP.onPage (p : PP) (ppn : Ppn) (f : PageRec → PageRec) : PP :=
  { p with pages := p.pages.map fun r => if r.ppn = ppn then f r else r }

/-- The record of a page, absent where the page is FREE or no pool page. -/
def PP.page (p : PP) (ppn : Ppn) : Option PageRec := p.pages.find? fun r => r.ppn == ppn

/-- Changes the counters. -/
def PP.onCounters (p : PP) (f : PoolCounters → PoolCounters) : PP := { p with counters := f p.counters }

/-! ### Pressure (R38) -/

/-- An event of class POOL with the shared_free of the moment. -/
def poolEvent (k : NoticeKind) (v : Nat) : Instr := .noticeEvent ⟨k, none, none, some v, none⟩

/-- Evaluates pressure (R38); before READY nothing is evaluated. In RESTARTING PP goes on evaluating until its abandon order:
the model's choice (R38, R203, log entry 72). -/
def PP.evaluate (w : Work PP) : Work PP :=
  let free := w.st.sharedFree
  if !w.st.ready then w
  else if w.st.pressure then
    if w.st.clearMark ≤ free || w.st.lowMark = 0 then
      (w.mod fun p => { p with pressure := false }).send (poolEvent .pressureOff free)
    else w
  else if free < w.st.lowMark then
    (w.mod fun p => { p with pressure := true }).send (poolEvent .pressureOn free)
  else w

/-- After a change of the accounting: where shared_free is no longer `before`, the lowest shared_free seen and the pressure
follow (R28). -/
def PP.settle (before : Nat) (w : Work PP) : Work PP :=
  let now := w.st.sharedFree
  if now = before then w
  else
    PP.evaluate (w.mod fun p => p.onCounters fun c => { c with lowestShared := min c.lowestShared now })

/-- A change of the accounting with what follows from it (R28). -/
def PP.account (w : Work PP) (f : PP → PP) : Work PP := PP.settle w.st.sharedFree (w.mod f)

/-! ### The build (R27) -/

/-- The free-list build, from the values of R27. -/
def PP.build (size : Nat) (w : Work PP) : Work PP :=
  (w.mod fun _ => { PP.init with free := [⟨Config.firstPool, size⟩]
                                 counters := { PP.init.counters with lowestShared := size } }).send .buildComplete

/-- The report that the device has entered READY: pressure is evaluated from then on (R38, R203). -/
def PP.readyReport (w : Work PP) : Work PP := PP.evaluate (w.mod fun p => { p with ready := true })

/-! ### Claims (R29 to R31) -/

/-- A create claim (R29). -/
def PP.createClaim (s : StreamId) (reservation ceiling : Nat) (w : Work PP) : Work PP :=
  if reservation ≤ w.st.sharedFree then
    (PP.account w fun p => p.onQuota s fun _ => ⟨true, reservation, ceiling, 0⟩).send (.createClaimAnswer s .granted)
  else w.send (.createClaimAnswer s (.refused .shared))

/-- A tune claim (R30). -/
def PP.tuneClaim (s : StreamId) (reservation ceiling : Nat) (w : Work PP) : Work PP :=
  let q := w.st.quotas[s]
  if ceiling < q.held then w.send (.tuneClaimAnswer s (.refused .ceiling))
  else if w.st.sharedFree < (reservation - q.held) - q.unused then
    w.send (.tuneClaimAnswer s (.refused .shared))
  else
    (PP.account w fun p => p.onQuota s fun q => { q with reservation := reservation, ceiling := ceiling }).send
      (.tuneClaimAnswer s .granted)

/-- A delete claim: the reservation becomes 0, and the ceiling is the one of the descriptor, which the claim carries; what an
overtaken tune claim had set is replaced (R14, R31, log entry 16). -/
def PP.deleteClaim (s : StreamId) (ceiling : Nat) (w : Work PP) : Work PP :=
  (PP.account w fun p => p.onQuota s fun q => { q with reservation := 0, ceiling := ceiling }).send (.deleteClaimAnswer s)

/-- The report that a stream is ABSENT (R31). -/
def PP.absentReport (s : StreamId) (w : Work PP) : Work PP := PP.account w fun p => p.onQuota s fun _ => noQuota

/-- A held question, answered to SD or RU (R31). -/
def PP.heldQuestion (s : StreamId) (asker : HeldAsker) (w : Work PP) : Work PP :=
  let held := w.st.quotas[s].held
  match asker with
  | .sd r => w.send (.heldAnswerAtSd r s held)
  | .ru => w.send (.teardownHeldAnswer s held)

/-! ### Allocation (R32) -/

/-- A refused allocation (R32). -/
def PP.refuseAllocation (s : StreamId) (c : Cause) (w : Work PP) : Work PP :=
  (w.mod fun p => p.onCounters fun k => { k with refusals := count k.refusals 1 }).send (.allocationRefusal s c)

/-- An allocation request (R32). -/
def PP.allocate (s : StreamId) (w : Work PP) : Work PP :=
  let q := w.st.quotas[s]
  if q.ceiling ≤ q.held then PP.refuseAllocation s .ceiling w
  else if q.reservation ≤ q.held && w.st.sharedFree = 0 then PP.refuseAllocation s .shared w
  else
    match takeFree w.st.free with
    | none => PP.refuseAllocation s .shared w
    | some (ppn, rest) =>
      ((PP.account w fun p =>
          { (p.onQuota s fun q => { q with held := q.held + 1 }) with
            free := rest, pages := ⟨ppn, false, s, 0, false⟩ :: p.pages }).mod fun p =>
          p.onCounters fun k => { k with allocations := count k.allocations 1 }).send (.allocationGrant s ppn)

/-! ### Read holds and the return of pages (R33 to R37) -/

/-- A hold request (R33). -/
def PP.holdRequest (s : StreamId) (ppn : Ppn) (b : BufId) (w : Work PP) : Work PP :=
  match w.st.page ppn with
  | none => w.send (.holdAnswer b .notOwned)
  | some r =>
    if r.releasing then w.send (.holdAnswer b .releasing)
    else if r.owner = s then
      (w.mod fun p => p.onPage ppn fun r => { r with holds := r.holds + 1 }).send (.holdAnswer b .granted)
    else w.send (.holdAnswer b .notOwned)

/-- A RELEASING page without holds becomes FREE, or goes back to its owner (R36, R37). -/
def PP.complete (r : PageRec) (w : Work PP) : Work PP :=
  if r.recycle then
    (w.mod fun p => (p.onPage r.ppn fun r => { r with releasing := false, recycle := false }).onCounters fun k =>
      { k with recycles := count k.recycles 1 }).sendAll
      [.recycledPage r.owner r.ppn, .pageReturnedReport r.owner r.ppn]
  else
    (PP.account w fun p =>
      { (p.onQuota r.owner fun q => { q with held := q.held - 1 }) with
        free := putFree r.ppn p.free, pages := p.pages.filter fun x => x.ppn ≠ r.ppn }).send
      (.pageReturnedReport r.owner r.ppn)

/-- A hold drop (R34). -/
def PP.holdDrop (ppn : Ppn) (w : Work PP) : Work PP :=
  match w.st.page ppn with
  | none => w
  | some r =>
    if r.holds = 0 then w
    else
      let w := w.mod fun p => p.onPage ppn fun r => { r with holds := r.holds - 1 }
      if r.releasing && r.holds = 1 then PP.complete { r with holds := 0 } w else w

/-- The counter that a hand-over raises (R35). -/
def releaseCount (kind : RelKind) (k : PoolCounters) : PoolCounters :=
  if kind = .normal then { k with normalReleases := count k.normalReleases 1 }
  else { k with forcedReleases := count k.forcedReleases 1 }

/-- A hand-over (R35). -/
def PP.handOver (s : StreamId) (ppn : Ppn) (kind : RelKind) (w : Work PP) : Work PP :=
  match w.st.page ppn with
  | none => w
  | some r =>
    if r.releasing || r.owner ≠ s then w
    else
      let r : PageRec := { r with releasing := true, recycle := kind = .recycle }
      let w := w.mod fun p => (p.onPage ppn fun _ => r).onCounters (releaseCount kind)
      if r.holds = 0 then PP.complete r w else w

/-! ### POOL_TUNE and POOL_STATUS (R39, R40) -/

/-- POOL_TUNE (R39). -/
def PP.tune (size : Nat) (r : Req) (body : List Byte) (w : Work PP) : Work PP :=
  w.layout r (poolTuneBody body) fun b =>
    if b.2 < 1 ∨ size < b.2 then w.refuse r .outOfRange 2
    else if b.2 ≤ b.1 then w.refuse r .outOfRange 1
    else (PP.evaluate (w.mod fun p => { p with lowMark := b.1, clearMark := b.2 })).answer r okAnswer

/-- What POOL_STATUS reports (R40). -/
def PP.report (p : PP) (size : Nat) : PoolReport :=
  { size := size, free := freeCount p.free
    allocated := (p.pages.filter fun r => !r.releasing).length
    releasing := (p.pages.filter fun r => r.releasing).length
    unused := p.unused, sharedFree := p.sharedFree, pressure := p.pressure
    lowMark := p.lowMark, clearMark := p.clearMark, counters := p.counters }

/-- POOL_STATUS (R40). -/
def PP.status (size : Nat) (r : Req) (body : List Byte) (w : Work PP) : Work PP :=
  w.layout r (clearBody body) fun clear =>
    let a := okWith (.pool (w.st.report size))
    let w := if clear then w.mod fun p => p.onCounters fun _ => ⟨0, 0, 0, 0, 0, p.sharedFree⟩ else w
    w.answer r a

end Sys2Proof.Machine
end

