-- ==== Sys2Proof/Machine/Release.lean ====
section
/-! DEFINITION. The Retention Unit (chapter 7): what RU does at each of its events. -/

namespace Sys2Proof.Machine

/-- A release record after RESET_N (R131). -/
def noRelease : Release := ⟨.idle, none, none, none, false, false, false, none, none, none⟩

/-- RU after RESET_N and after DEVICE_RESTART (R131, R149). -/
def RU.init : RU := ⟨Vector.replicate 32 noRelease, none⟩

/-- Changes one release record. -/
def RU.on (u : RU) (s : StreamId) (f : Release → Release) : RU := { u with recs := upd u.recs s f }

/-- Changes one release record. -/
def RU.change (s : StreamId) (f : Release → Release) (w : Work RU) : Work RU := w.mod fun u => u.on s f

/-! ### What comes next (R133, R143, R144, R146) -/

/-- The record while RU asks for answers: no release in flight (R131, R133). -/
def Release.asking (r : Release) : Release :=
  { r with phase := .evaluating, kind := none, page := none, m := none, view := none, head := none, floor := none }

/-- Begins an evaluation (R133). -/
def RU.evaluate (s : StreamId) (w : Work RU) : Work RU :=
  (RU.change s (fun r => { r.asking with reevaluate := false }) w).sendAll
    [.viewQuestion s, .headRead s .evaluation, .floorQuestion s]

/-- Begins a recycle (R144). -/
def RU.recycle (s : StreamId) (w : Work RU) : Work RU :=
  (RU.change s (fun r => { r.asking with recycleWanted := false }) w).send (.headRead s .recycle)

/-- Begins the next teardown release (R146). -/
def RU.teardown (s : StreamId) (w : Work RU) : Work RU :=
  (RU.change s Release.asking w).send (.headRead s .teardown)

/-- The record goes IDLE (R143). -/
def RU.rest (s : StreamId) (w : Work RU) : Work RU := RU.change s (fun r => { r.asking with phase := .idle }) w

/-- What follows the end of a release, or of an evaluation without one (R143). `ended`: a release has just ended;
`deleting`: the stream is known to be DELETING. -/
def RU.choose (s : StreamId) (ended deleting : Bool) (w : Work RU) : Work RU :=
  let r := w.st.recs[s]
  if r.teardown then RU.teardown s w
  else if r.recycleWanted then RU.recycle s w
  else if deleting then RU.rest s w
  else if ended || r.reevaluate then RU.evaluate s w
  else RU.rest s w

/-- An evaluation trigger (R132). -/
def RU.trigger (s : StreamId) (w : Work RU) : Work RU :=
  let r := w.st.recs[s]
  if r.phase = .idle && !r.teardown && !r.recycleWanted then RU.evaluate s w
  else RU.change s (fun r => { r with reevaluate := true }) w

/-! ### The decision (R136 to R138) -/

/-- The page of a release, from a head read's answer. -/
def relPage (h : HeadPage) : RelPage := ⟨h.head, h.record.ppn, h.record.firstSeq, h.record.lastSeq⟩

/-- The head page is closed for release (R136). -/
def closedForRelease (v : ViewInfo) (h : HeadPage) : Bool :=
  h.head < h.tail || h.record.closed || (v.state = .sealed && v.settled)

/-- The page may go as far as closing and keep are concerned (R136, R137): n − 1 is tail − head. -/
def mayGo (v : ViewInfo) (h : HeadPage) : Bool :=
  closedForRelease v h && h.record.firstSeq ≠ 0 && v.keep ≤ h.tail - h.head

/-- The NORMAL test (R136). -/
def normalTest (v : ViewInfo) (h : HeadPage) (floor : Option Seq) : Bool :=
  mayGo v h && h.record.lastSeq < floor.getD (v.committed + 1)

/-- The page is expired (R137). -/
def expired (clock : Clock) (v : ViewInfo) (h : HeadPage) : Bool :=
  let d := (clock - h.record.newestStamp).toNat
  d < 2 ^ 47 && v.ageLimit * 1000000 < d

/-- The AGE test (R137). -/
def ageTest (clock : Clock) (v : ViewInfo) (h : HeadPage) : Bool :=
  v.ageLimit ≠ 0 && mayGo v h && expired clock v h

/-- The release an evaluation begins, if any (R138). -/
def decision (clock : Clock) (v : ViewInfo) (h : HeadPage) (floor : Option Seq) : Option RelKind :=
  if v.state = .deleting || v.state = .absent then none
  else if normalTest v h floor then some .normal
  else if ageTest clock v h then some .age
  else none

/-- The record of a release of the page (R138). -/
def Release.begin (k : RelKind) (ph : Phase) (h : HeadPage) (r : Release) : Release :=
  { r.asking with phase := ph, kind := some k, page := some (relPage h), m := some (h.record.lastSeq + 1) }

/-- Begins a NORMAL, AGE or RECYCLE release (R139). -/
def RU.beginMarking (s : StreamId) (k : RelKind) (h : HeadPage) (w : Work RU) : Work RU :=
  (RU.change s (Release.begin k .marking h) w).send (.releaseMarkSet s (h.record.lastSeq + 1))

/-- Decides, once the three answers are in (R133, R138). -/
def RU.decide (clock : Clock) (s : StreamId) (w : Work RU) : Work RU :=
  let r := w.st.recs[s]
  match r.view, r.head, r.floor with
  | some v, some h, some f =>
    match h.page with
    | none => RU.choose s false (v.state = .deleting) w
    | some p =>
      match decision clock v p f with
      | some k => RU.beginMarking s k p w
      | none => RU.choose s false (v.state = .deleting) w
  | _, _, _ => w

/-- The record with one more answer (R133). -/
def Release.take (p : EvalPart) (r : Release) : Release :=
  match p with
  | .view v => { r with view := some v }
  | .head h => { r with head := some h }
  | .floor f => { r with floor := some f }

/-- One of an evaluation's three answers (R133). At a record that is not EVALUATING no question waits for it, and it changes
nothing (DEDUCED, log entry 39). -/
def RU.evaluationAnswer (clock : Clock) (s : StreamId) (p : EvalPart) (w : Work RU) : Work RU :=
  if w.st.recs[s].phase = .evaluating then RU.decide clock s (RU.change s (Release.take p) w) else w

/-! ### The release sequence (R139 to R143) -/

/-- SD's answer to the release-mark set (R139, R140). -/
def RU.markAnswer (s : StreamId) (w : Work RU) : Work RU :=
  let r := w.st.recs[s]
  match r.phase, r.m, r.kind with
  | .marking, some m, some k =>
    (RU.change s (fun r => { r with phase := .advancing }) w).send (.advanceOrder s m k)
  | _, _, _ => w

/-- How many entries a forced release drops (R23, R141). -/
def droppedBy (p : RelPage) : Nat := if p.firstSeq = 0 then 0 else p.lastSeq + 1 - p.firstSeq

/-- DE's answer to the advance order; `deleting`: the stream is DELETING at SD (R140, R141, R143). The head raise goes to SD
ahead of the counter update: the model's choice (log entry 71). -/
def RU.advanceAnswer (s : StreamId) (done deleting : Bool) (w : Work RU) : Work RU :=
  let r := w.st.recs[s]
  match r.phase, r.m, r.kind, r.page with
  | .advancing, some m, some k, some p =>
    if done then
      (RU.change s (fun r => { r with phase := .raising }) w).sendAll
        (.headRaise s m :: if k = .normal then [] else [.counterUpdate s (.dropped (droppedBy p))])
    else RU.choose s true deleting (w.send (.releaseMarkClear s))
  | _, _, _, _ => w

/-- SD's answer to the head raise (R141). -/
def RU.raiseAnswer (s : StreamId) (w : Work RU) : Work RU :=
  let r := w.st.recs[s]
  match r.phase, r.page with
  | .raising, some p => (RU.change s (fun r => { r with phase := .clearing }) w).send (.slotClear s p.lpn)
  | _, _ => w

/-- MU's clear-done report (R142). -/
def RU.clearDone (s : StreamId) (lpn : Lpn) (w : Work RU) : Work RU :=
  let r := w.st.recs[s]
  match r.phase, r.page, r.kind with
  | .clearing, some p, some k =>
    if p.lpn = lpn then (RU.change s (fun r => { r with phase := .returning }) w).send (.handOver s p.ppn k) else w
  | _, _, _ => w

/-- PP's page-returned report (R143). -/
def RU.pageReturned (s : StreamId) (ppn : Ppn) (deleting : Bool) (w : Work RU) : Work RU :=
  let r := w.st.recs[s]
  match r.phase, r.page with
  | .returning, some p =>
    if p.ppn = ppn then
      RU.choose s true deleting (if r.kind = some .delete then w else w.send (.releaseMarkClear s))
    else w
  | _, _ => w

/-! ### Recycle (R144) -/

/-- AE's recycle request (R144). -/
def RU.recycleRequest (s : StreamId) (w : Work RU) : Work RU :=
  let r := w.st.recs[s]
  if r.phase = .idle && !r.teardown then RU.recycle s w
  else RU.change s (fun r => { r with recycleWanted := true }) w

/-- The head read of a recycle (R144). The end of a recycle that found no page is chosen with the head read's state in place of
an evaluation's view: for a stream DELETING the record goes IDLE even with reevaluate yes, which is the model's choice (R143,
log entry 59). -/
def RU.recycleHead (s : StreamId) (h : HeadAnswer) (w : Work RU) : Work RU :=
  if w.st.recs[s].phase ≠ .evaluating then w
  else
    let nothing := RU.choose s false (h.state = .deleting) (w.send (.noPage s))
    match h.page with
    | none => nothing
    | some p => if h.state = .deleting || p.tail ≤ p.head then nothing else RU.beginMarking s .recycle p w

/-! ### Age scan (R145) -/

/-- The device has entered READY (R145). -/
def RU.readyReport (tick : Tick) (w : Work RU) : Work RU := w.mod fun u => { u with scan := some (tick + 1000) }

/-- The age scan deadline expires (R145). -/
def RU.scanExpiry (d : Tick) (w : Work RU) : Work RU :=
  if w.st.scan = some d then (w.mod fun u => { u with scan := some (d + 1000) }).send .scanQuestion else w

/-- SD's scan answer (R145). -/
def RU.scanAnswer (ids : List StreamId) (w : Work RU) : Work RU := ids.foldl (fun w s => RU.trigger s w) w

/-! ### Teardown (R146, R147) -/

/-- SD's teardown hand-over (R146). -/
def RU.handover (s : StreamId) (w : Work RU) : Work RU :=
  let idle := w.st.recs[s].phase = .idle
  let w := RU.change s (fun r => { r with teardown := true }) w
  if idle then RU.teardown s w else w

/-- The head read of a teardown release (R146, R147). -/
def RU.teardownHead (s : StreamId) (h : HeadAnswer) (w : Work RU) : Work RU :=
  let r := w.st.recs[s]
  if r.phase = .evaluating && r.teardown then
    match h.page with
    | none => w.send (.heldQuestion s .ru)
    | some p => (RU.change s (Release.begin .delete .raising p) w).send (.headRaise s (p.record.lastSeq + 1))
  else w

/-- PP's held answer at the end of a teardown (R147). -/
def RU.heldAnswer (s : StreamId) (held : Nat) (w : Work RU) : Work RU :=
  let r := w.st.recs[s]
  if r.phase = .evaluating && r.teardown && held = 0 then
    (RU.change s (fun _ => noRelease) w).send (.emptiedReport s)
  else w

end Sys2Proof.Machine
end

