-- ==== Sys2Proof/Machine/Frames.lean ====
section
/-! DEFINITION. The frames the part sends (R210 to R216): bodies of REPLY, DELIVER and NOTICE, and the frame around a body. -/

namespace Sys2Proof.Machine

/-- An optional id as a byte, FFh when absent (R210). -/
def idByte {n : Nat} (i : Option (Fin n)) : List Byte := encode 1 ((i.map Fin.val).getD 0xFF)

/-- A boolean as a byte (R210). -/
def boolByte (b : Bool) : List Byte := encode 1 (boolCode b)

/-- Counters, four bytes each (R210). -/
def counterBytes (cs : List Nat) : List Byte := cs.flatMap (encode 4)

/-- The eight port counters in the order of R161. -/
def portCounts (c : PortCounters) : List Nat :=
  [c.framesReceived, c.crcErrors, c.lengthErrors, c.byteGapAborts, c.overruns, c.requestsRefused, c.deliveriesSent,
   c.noticesSent]

/-- The six pool counters in the order of R41. -/
def poolCounts (c : PoolCounters) : List Nat :=
  [c.allocations, c.refusals, c.normalReleases, c.forcedReleases, c.recycles, c.lowestShared]

/-- The fourteen map counters in the order of R62. -/
def mapCounts (c : MapCounters) : List Nat :=
  [c.lookups, c.tailAnswers, c.hits, c.misses, c.merges, c.walks, c.retries, c.fills, c.evictions, c.invalidations,
   c.mapWrites, c.slotClears, c.searches, c.flushes]

/-- The four stream counters in the order of R23. -/
def streamCounts (c : StreamCounters) : List Nat := [c.appended, c.refused, c.dropped, c.damaged]

/-- The four cursor counters in the order of R107. -/
def cursorCounts (c : CursorCounters) : List Nat := [c.delivered, c.redeliveries, c.skipped, c.damaged]

/-- The results of PORT_STATUS (R216). -/
def portBytes (r : PortReport) : List Byte :=
  encode 1 r.port.val ++ boolByte r.link ++ boolByte r.grant ++ boolByte r.sessionOpen ++ encode 1 (roleCode r.role) ++
    encode 2 r.number.toNat ++ encode 2 r.keepalive ++ encode 1 (maskCode r.mask) ++ encode 1 r.slotsInUse ++
    encode 1 r.cursors ++ encode 1 r.queueLength ++ encode 2 r.lost ++ counterBytes (portCounts r.counters)

/-- The results of POOL_STATUS (R216). -/
def poolBytes (r : PoolReport) : List Byte :=
  counterBytes [r.size, r.free, r.allocated, r.releasing, r.unused, r.sharedFree] ++ boolByte r.pressure ++
    encode 2 r.lowMark ++ encode 2 r.clearMark ++ counterBytes (poolCounts r.counters)

/-- The results of STREAM_INFO (R216). -/
def streamBytes (r : StreamReport) : List Byte :=
  encode 1 r.id.val ++ encode 1 (streamCode r.state) ++ encode 1 (sealCode r.sealCause) ++ boolByte r.settled ++
    encode 1 (policyCode r.policy) ++ encode 2 r.reservation ++ encode 2 r.ceiling ++ encode 2 r.keep ++
    encode 4 r.ageLimit ++ boolByte r.head.isSome ++ encode 4 (r.head.getD 0) ++ encode 4 (r.tail.getD 0) ++
    encode 4 r.headSeq ++ encode 4 r.committed ++ encode 4 (r.releaseMark.getD 0) ++ encode 2 r.held ++
    encode 1 r.cursorCount ++ encode 1 r.pendingAppends ++ counterBytes (streamCounts r.counters) ++
    encode 1 r.name.length ++ r.name

/-- The results of CURSOR_INFO (R216). -/
def cursorBytes (r : CursorReport) : List Byte :=
  encode 1 r.id.val ++ encode 1 (cursorCode r.state) ++ idByte r.stream ++ idByte (r.owner.map SessId.port) ++
    encode 2 ((r.owner.map fun o => o.number.toNat).getD 0) ++
    encode 1 (boolCode r.durable + 2 * boolCode r.retaining) ++ encode 1 r.window ++ encode 2 r.ackTimeout ++
    encode 1 r.retryLimit ++ encode 4 r.ackSeq ++ encode 4 r.nextSeq ++ encode 4 r.deliveredTop ++
    encode 1 r.inFlight ++ encode 4 r.lowest ++ encode 1 r.due ++ encode 4 r.pendingGap ++ boolByte r.hintPresent ++
    encode 2 r.label ++ encode 1 ((r.returnState.map cursorCode).getD 0xFF) ++ counterBytes (cursorCounts r.counters)

/-- The results of a REPLY (R213). -/
def resultBytes : Result → List Byte
  | .empty => []
  | .hello n role dev cursors =>
    encode 2 n.toNat ++ encode 1 (roleCode role) ++ encode 1 (deviceCode dev) ++ encode 1 cursors
  | .ping clock tick => encode 6 clock.toNat ++ encode 4 tick.toNat
  | .port r => portBytes r
  | .pool r => poolBytes r
  | .stream r => streamBytes r
  | .cursor r => cursorBytes r
  | .map valid busy queued counters =>
    encode 1 valid ++ encode 1 busy ++ encode 1 queued ++ counterBytes (mapCounts counters)
  | .streamId id => encode 1 id.val
  | .clock c => encode 6 c.toNat
  | .append seq stamp => encode 4 seq ++ encode 6 stamp.toNat
  | .opened id start => encode 1 id.val ++ encode 4 start
  | .sequence q => encode 4 q
  | .mask m => encode 1 (maskCode m)

/-- A REPLY body: request kind, status, detail and results (R213). -/
def replyBody (kind : Byte) (a : Answer) : List Byte :=
  [kind, BitVec.ofNat 8 (statusCode a.status), BitVec.ofNat 8 a.detail] ++ resultBytes a.result

/-- A NOTICE body (R216). -/
def noticeBody (n : Notice) : List Byte :=
  encode 1 (noticeCode n.kind) ++ encode 6 n.clock.toNat ++ idByte n.stream ++ idByte n.cursor ++
    encode 4 (n.value.getD 0) ++ encode 2 n.lost

/-- A DELIVER body (R215). -/
def deliverBody (b : Buffer) : List Byte :=
  encode 1 b.cursor.val ++ encode 1 (boolCode b.redelivery + 2 * boolCode b.damaged) ++ encode 4 b.seq ++
    encode 6 b.stamp.toNat ++ b.payload

/-- The sync byte (R211). -/
def syncByte : Byte := 0xC3

/-- A frame: sync, kind, tag, body length, body, CRC-16 over all but the sync (R190, chapter 12.2). -/
def frameBytes (kind tag : Byte) (body : List Byte) : List Byte :=
  let covered := [kind, tag] ++ encode 2 body.length ++ body
  [syncByte] ++ covered ++ encode 2 (crc16 covered).toNat

end Sys2Proof.Machine
end

