-- ==== Sys2Proof/Machine/Port.lean ====
section
/-! DEFINITION. The Port Engine's link side (chapter 10): framer, slots, gate, reply queue, transmitter and arbiter, and the
end of a session (R172). -/

namespace Sys2Proof.Machine

/-- A FREE slot, with nothing in its buffer (R184). -/
def freeSlot : Slot := ⟨.free, 0, 0, [], none, false⟩

/-- The framer, HUNTING with an empty rescan buffer (R179). -/
def Framer.init : Framer := ⟨.hunting, [], 0⟩

/-- The session record with none open (R164). -/
def Session.closed (number : SessNo) : Session :=
  ⟨false, .none, .client, 0, none, ⟨false, false, false⟩, number, none⟩

/-- No port counter has been raised. -/
def noPortCounts : PortCounters := ⟨0, 0, 0, 0, 0, 0, 0, 0⟩

/-- The admin grants after a reset: P0 alone (R164). -/
def grantAtReset (p : Port) : Bool := p = 0

/-- A Port Engine after RESET_N. -/
def PE.init (p : Port) : PE :=
  { link := false, framer := Framer.init, slots := Vector.replicate 8 freeSlot, replies := [], reserve := false
    tx := none, preferDeliver := false, lastCursor := 63, sess := Session.closed 0, grant := grantAtReset p
    counters := noPortCounts, dev := .initializing, settled := false }

/-! ### Small changes -/

/-- Changes one slot. -/
def PE.onSlot (e : PE) (i : SlotId) (f : Slot → Slot) : PE := { e with slots := upd e.slots i f }

/-- Changes the session record. -/
def PE.onSess (e : PE) (f : Session → Session) : PE := { e with sess := f e.sess }

/-- Changes the port counters. -/
def PE.onCounters (e : PE) (f : PortCounters → PortCounters) : PE := { e with counters := f e.counters }

/-- The session open on the port is this one. -/
def PE.has (e : PE) (sess : SessId) : Bool := e.sess.isOpen && e.sess.number = sess.number

/-- The place a REPLY came from becomes free (R189, R190). -/
def PE.freeSource (src : ReplySource) (e : PE) : PE :=
  match src with
  | .slot i => e.onSlot i fun _ => freeSlot
  | .reserve => { e with reserve := false }

/-- A refused answer is counted (R161). -/
def PE.countRefused (a : Answer) (e : PE) : PE :=
  if a.status = .ok then e
  else e.onCounters fun c => { c with requestsRefused := count c.requestsRefused 1 }

/-! ### Answers (R188) -/

/-- The slot still has a partner for its REPLY (R188). -/
def PE.serves (p : Port) (e : PE) (sl : Slot) : Bool :=
  !sl.isVoid && (sl.owner.all fun o => o.port = p && e.has o)

/-- An answer reaches the PE for a slot (R188). -/
def PE.answered (p : Port) (i : SlotId) (a : Answer) (e : PE) : PE :=
  let e := e.countRefused a
  let sl := e.slots[i]
  if sl.state ≠ .held then e
  else if e.serves p sl then
    { e.onSlot i (fun x => { x with state := .answered }) with
      replies := e.replies ++ [⟨.slot i, sl.tag, replyBody sl.kind a⟩] }
  else e.onSlot i fun _ => freeSlot

/-! ### The end of a session (R172) -/

/-- The port has no session and no claim: in RESTARTING it reports itself settled, once (R207). -/
def PE.settle (p : Port) (w : Work PE) : Work PE :=
  let e := w.st
  if e.dev = .restarting && !e.sess.isOpen && e.sess.claim.isNone && !e.settled then
    (w.mod fun e => { e with settled := true }).send (.portSettledReport p)
  else w

/-- The REPLY belongs to a slot of the session (R172). -/
def PE.ownedReply (e : PE) (sess : SessId) (r : Reply) : Bool :=
  match r.source with
  | .slot i => e.slots[i].owner = some sess
  | .reserve => false

/-- The queued REPLYs of a session are discarded and their slots freed (R172, item 4). -/
def PE.discardReplies (sess : SessId) (e : PE) : PE :=
  (e.replies.filter (e.ownedReply sess)).foldl (fun e r => e.freeSource r.source)
    { e with replies := e.replies.filter fun r => !e.ownedReply sess r }

/-- A taken DELIVER or NOTICE that is not yet out is reported dropped (R172, item 6). -/
def PE.dropTx (w : Work PE) : Work PE :=
  match w.st.tx with
  | none => w
  | some t =>
    if t.reported then w
    else
      let w := w.mod fun e => { e with tx := some { t with reported := true } }
      match t.source with
      | .reply _ => w.mod fun e => { e with tx := some t }
      | .deliver b => w.send (.deliverDropped b)
      | .notice sess n => w.send (.noticeSentReport sess n false)

/-- The session of the port ends (R172). -/
def PE.endSession (p : Port) (w : Work PE) : Work PE :=
  let sess : SessId := ⟨p, w.st.sess.number⟩
  let admin := w.st.sess.role = .admin
  let w := w.mod fun e => e.onSess fun s => Session.closed s.number
  let w := if admin then w.send (.adminRelease p) else w
  let w := w.sendAll [.sessionEndReportAtNu sess, .sessionEndAtDe sess]
  PE.settle p (PE.dropTx (w.mod (PE.discardReplies sess)))

/-! ### The transmit arbiter (R190 to R192) -/

/-- A DELIVER that DE offers (R119). -/
structure Offer where
  sess : SessId
  buf : BufId
  cursor : CursorId
  body : List Byte

/-- What a PE reads of the rest of the part at an event: clock, tick, the notice and the DELIVERs offered to it, and the
cursor count of a session on its port (R86, R156). -/
structure PeEnv where
  clock : Clock
  tick : Tick
  notice : Option (SessId × Notice)
  offers : List Offer
  cursors : Nat

/-- The id comes `k` places after the last cursor taken, counting on from 63 to 0 (R192). -/
def turn (last c : CursorId) : Nat := (c.val + 63 - last.val) % 64

/-- The offer whose cursor comes first after the last cursor taken (R192). -/
def firstOffer (last : CursorId) : List Offer → Option Offer
  | [] => none
  | o :: rest =>
    match firstOffer last rest with
    | none => some o
    | some x => if turn last x.cursor < turn last o.cursor then some x else some o

/-- The line takes a frame (R190). -/
def PE.transmit (src : TxSource) (kind tag : Byte) (body : List Byte) (e : PE) : PE :=
  { e with tx := some ⟨src, frameBytes kind tag body, false⟩ }

/-- The arbiter takes a notice (R191). -/
def PE.takeNotice (p : Port) (sess : SessId) (n : Notice) (w : Work PE) : Work PE :=
  (w.mod fun e => { e.transmit (.notice sess n) 0x82 0 (noticeBody n) with preferDeliver := true }).send (.noticeTaken p)

/-- The arbiter takes a DELIVER (R192). -/
def PE.takeDeliver (o : Offer) (w : Work PE) : Work PE :=
  (w.mod fun e =>
    { e.transmit (.deliver o.buf) 0x81 0 o.body with preferDeliver := false, lastCursor := o.cursor }).send
    (.deliverTaken o.buf)

/-- The transmit arbiter chooses the next frame when the line is free (R190, R191). It takes no DELIVER from its teardown order
on (R130, R207). What DE or NU still offers for a session that has ended at the Port Engine is not taken: the model's choice
(R119, R156, log entry 79). -/
def PE.arbitrate (p : Port) (env : PeEnv) (w : Work PE) : Work PE :=
  let e := w.st
  let notice := env.notice.filter fun x => e.has x.1
  let offers := env.offers.filter fun o => e.dev ≠ .restarting && e.has o.sess
  if !e.link || e.tx.isSome then w
  else
    match e.replies with
    | r :: rest =>
      w.mod fun e => { e.transmit (.reply r.source) 0x80 r.tag r.body with replies := rest, preferDeliver := false }
    | [] =>
      match notice, firstOffer e.lastCursor offers with
      | some (sess, n), some o => if e.preferDeliver then PE.takeDeliver o w else PE.takeNotice p sess n w
      | some (sess, n), none => PE.takeNotice p sess n w
      | none, some o => PE.takeDeliver o w
      | none, none => w

/-- The REPLY on the line is the OK of a BYE (R171). -/
def isByeOk (t : Tx) : Bool := t.bytes.getD 5 0 = 0x02 && t.bytes.getD 6 1 = 0x00

/-- A REPLY is out: its slot is freed, and a BYE's REPLY ends its session (R171, R190). -/
def PE.replyOut (p : Port) (t : Tx) (src : ReplySource) (w : Work PE) : Work PE :=
  let ends : Bool := match src with
    | .slot i => isByeOk t && w.st.sess.endPending = .bye && w.st.slots[i].owner = some ⟨p, w.st.sess.number⟩
    | .reserve => false
  let w := w.mod (PE.freeSource src)
  if ends then PE.endSession p w else w

/-- A NOTICE is out: a RESTART ends the session (R156, R173). -/
def PE.noticeOut (p : Port) (sess : SessId) (n : Notice) (w : Work PE) : Work PE :=
  let w := (w.mod fun e => e.onCounters fun c => { c with noticesSent := count c.noticesSent 1 }).send
    (.noticeSentReport sess n true)
  if n.kind = .restart && w.st.has sess then PE.endSession p w else w

/-- The last byte of the frame on the line is out (R190). -/
def PE.frameSent (p : Port) (w : Work PE) : Work PE :=
  match w.st.tx with
  | none => w
  | some t =>
    let w := w.mod fun e => { e with tx := none }
    match t.source with
    | .reply src => PE.replyOut p t src w
    | .deliver b =>
      if t.reported then w
      else (w.mod fun e => e.onCounters fun c => { c with deliveriesSent := count c.deliveriesSent 1 }).send (.deliverSent b)
    | .notice sess n => if t.reported then w else PE.noticeOut p sess n w

/-! ### The gate (R165) -/

/-- What the gate knows of a request kind (R165, R211). -/
inductive Gate where
  | unknown
  | hello
  | any (route : Req → Instr)
  | admin (route : Req → Instr)

/-- The port that PORT_STATUS or PORT_GRANT names (R187). Where the body names none, its length wrong or its port above 3, the
asking Port Engine takes the request and refuses it: the model's choice (log entry 74). -/
def namedPort (p : Port) (body : List Byte) : Port :=
  if body.length = 2 then (index 4 (field body 0 1)).getD p else p

/-- The request kinds, the role each needs, and where each goes (R165, R211). -/
def gateOf (p : Port) (kind : Byte) (body : List Byte) : Gate :=
  match kind.toNat with
  | 0x01 => .hello
  | 0x02 => .any .bye
  | 0x03 => .any .ping
  | 0x08 => .any fun r => .portStatus r (namedPort p body)
  | 0x09 => .any .poolStatus
  | 0x0A => .any .streamInfo
  | 0x0B => .any .cursorInfo
  | 0x0C => .any .mapStatus
  | 0x10 => .admin .streamCreate
  | 0x11 => .admin .streamTune
  | 0x12 => .admin .streamSeal
  | 0x13 => .admin .streamDelete
  | 0x14 => .admin .poolTune
  | 0x15 => .admin fun r => .portGrant r (namedPort p body)
  | 0x16 => .admin .clockSet
  | 0x17 => .admin .mapFlush
  | 0x18 => .admin .deviceRestart
  | 0x20 => .any .append
  | 0x28 => .any .cursorOpen
  | 0x29 => .any .cursorClose
  | 0x2A => .any .cursorAttach
  | 0x2B => .any .cursorSeek
  | 0x2C => .any .cursorPause
  | 0x2D => .any .cursorResume
  | 0x2E => .any .ack
  | 0x30 => .any .noticeMask
  | _ => .unknown

/-- The gate answers from the slot (R165). -/
def PE.refuseGate (p : Port) (i : SlotId) (st : Status) (w : Work PE) : Work PE :=
  w.mod (PE.answered p i (refusal st 0))

/-- A request passes the gate: its slot has the session as owner, and it goes to its owning block (R165, R187). -/
def PE.route (p : Port) (i : SlotId) (go : Req → Instr) (w : Work PE) : Work PE :=
  let sess : SessId := ⟨p, w.st.sess.number⟩
  (w.mod fun e => e.onSlot i fun x => { x with owner := some sess }).send (go ⟨sess, i⟩)

/-- Requests other than HELLO may pass (R165). -/
def PE.admits (e : PE) : Bool := e.dev = .ready && e.sess.isOpen && e.sess.endPending = .none

/-- The request gate (R165). -/
def PE.gate (p : Port) (i : SlotId) (kind : Byte) (body : List Byte) (w : Work PE) : Work PE :=
  match gateOf p kind body with
  | .unknown => PE.refuseGate p i .unknownKind w
  | .hello => w.send (.hello p i)
  | .any go => if w.st.admits then PE.route p i go w else PE.refuseGate p i .noSession w
  | .admin go =>
    if !w.st.admits then PE.refuseGate p i .noSession w
    else if w.st.sess.role = .admin then PE.route p i go w
    else PE.refuseGate p i .notAdmin w

/-! ### Slots (R185, R186) -/

/-- A slot not FREE carries the tag (R185). -/
def PE.tagHeld (e : PE) (tag : Byte) : Bool := e.slots.any fun s => s.state ≠ .free && s.tag = tag

/-- The lowest FREE slot (R185). -/
def PE.freeSlot? (e : PE) : Option SlotId := (List.finRange 8).find? fun i => e.slots[i].state = .free

/-- An overrun (R161). -/
def PE.overrun (e : PE) : PE := e.onCounters fun c => { c with overruns := count c.overruns 1 }

/-- A TAG_BUSY takes the reserve (R186). -/
def PE.tagBusy (kind tag : Byte) (e : PE) : PE :=
  let a := refusal .tagBusy duplicateDetail
  { e.countRefused a with reserve := true, replies := e.replies ++ [⟨.reserve, tag, replyBody kind a⟩] }

/-- Slot allotment takes a good frame (R185). -/
def PE.allot (p : Port) (kind tag : Byte) (body : List Byte) (w : Work PE) : Work PE :=
  if w.st.tagHeld tag then w.mod fun e => if e.reserve then e.overrun else e.tagBusy kind tag
  else
    match w.st.freeSlot? with
    | none => w.mod PE.overrun
    | some i => PE.gate p i kind body (w.mod fun e => e.onSlot i fun _ => ⟨.held, tag, kind, body, none, false⟩)

/-- The keepalive deadline after a valid frame (R170). -/
def Session.rearm (tick : Tick) (s : Session) : Session :=
  if s.isOpen && s.endPending = .none then { s with deadline := some (tick + BitVec.ofNat 32 (2 * s.keepalive)) } else s

/-- A good frame (R181). -/
def PE.accept (p : Port) (tick : Tick) (kind tag : Byte) (body : List Byte) (w : Work PE) : Work PE :=
  PE.allot p kind tag body <| w.mod fun e =>
    (e.onCounters fun c => { c with framesReceived := count c.framesReceived 1 }).onSess (Session.rearm tick)

/-! ### The framer (R179 to R183) -/

/-- What a byte may complete. -/
inductive FrameEvent where
  | good (kind tag : Byte) (body : List Byte)
  | badLength
  | badCrc

/-- The longest body (R180). -/
def maxBody : Nat := 1600

/-- The check after the last CRC byte: the buffer holds kind, tag, length, body and CRC-16 (R181). -/
def checkFrame (buf : List Byte) : FrameEvent :=
  let n := buf.length - 2
  if number (buf.drop n) = (crc16 (buf.take n)).toNat then
    .good (buf.getD 0 0) (buf.getD 1 0) ((buf.take n).drop 4)
  else .badCrc

/-- The framer after the two length bytes (R180). -/
def Framer.afterLength (f : Framer) : Framer × Option FrameEvent :=
  let n := field f.buf 2 2
  if maxBody < n then (f, some .badLength)
  else ({ f with state := if n = 0 then .check 2 else .body n }, none)

/-- The framer takes one byte (R179). -/
def Framer.take (f : Framer) (b : Byte) : Framer × Option FrameEvent :=
  let g : Framer := { f with buf := f.buf ++ [b] }
  match f.state with
  | .hunting => (if b = syncByte then { f with state := .header 4, buf := [] } else f, none)
  | .header n => if n ≤ 1 then g.afterLength else ({ g with state := .header (n - 1) }, none)
  | .body n => ({ g with state := if n ≤ 1 then .check 2 else .body (n - 1) }, none)
  | .check n => if n ≤ 1 then (g, some (checkFrame g.buf)) else ({ g with state := .check (n - 1) }, none)

/-- The framer takes bytes until one completes or spoils a frame; the bytes behind it are left (R179, R183). -/
def Framer.run (f : Framer) : List Byte → Framer × Option FrameEvent × List Byte
  | [] => (f, none, [])
  | b :: rest =>
    match f.take b with
    | (g, some ev) => (g, some ev, rest)
    | (g, none) => g.run rest

/-- The framer back in HUNTING (R181, R183). -/
def PE.hunt (e : PE) : PE := { e with framer := { e.framer with state := .hunting, buf := [] } }

/-- A frame is discarded and counted (R180, R181). -/
def countDiscard (ev : FrameEvent) (c : PortCounters) : PortCounters :=
  match ev with
  | .badLength => { c with lengthErrors := count c.lengthErrors 1 }
  | .badCrc => { c with crcErrors := count c.crcErrors 1 }
  | .good _ _ _ => c

/-- Feeds bytes to the framer; a discard feeds its rescan buffer again, ahead of the bytes behind it (R183). Each round
takes at least one byte off, so `fuel` above the count of bytes does not run out (log entry 44). -/
def PE.feed (p : Port) (tick : Tick) : (fuel : Nat) → List Byte → Work PE → Work PE
  | 0, _, w => w
  | fuel + 1, bytes, w =>
    match w.st.framer.run bytes with
    | (f, none, _) => w.mod fun e => { e with framer := f }
    | (_, some (.good kind tag body), rest) =>
      PE.feed p tick fuel rest (PE.accept p tick kind tag body (w.mod PE.hunt))
    | (f, some ev, rest) =>
      PE.feed p tick fuel (f.buf ++ rest) (w.mod fun e => e.hunt.onCounters (countDiscard ev))

/-- A byte arrives on the receive line; none does while the link is DOWN (R178, R179). -/
def PE.frameByte (p : Port) (tick : Tick) (b : Byte) (w : Work PE) : Work PE :=
  if !w.st.link then w
  else
    (PE.feed p tick (w.st.framer.buf.length + 3) [b] w).mod fun e => { e with framer := { e.framer with gap := 0 } }

/-- More than 2 ms have passed in a frame: it is aborted, and what the rescan leaves in progress goes uncounted
(R182, R183). -/
def PE.byteGapAbort (p : Port) (tick : Tick) (w : Work PE) : Work PE :=
  let f := w.st.framer
  if f.state = .hunting then w
  else
    (PE.feed p tick (f.buf.length + 2) f.buf (w.mod fun e =>
      e.hunt.onCounters fun c => { c with byteGapAborts := count c.byteGapAborts 1 })).mod fun e =>
        { e with framer := Framer.init }

/-! ### The link (R178) -/

/-- A lock report. -/
def PE.linkLock (w : Work PE) : Work PE := w.mod fun e => { e with link := true }

/-- The frame on the line is cut off (R178, R190). -/
def PE.cutTx (w : Work PE) : Work PE :=
  let w := PE.dropTx w
  match w.st.tx with
  | none => w
  | some t =>
    w.mod fun e =>
      let e := { e with tx := none }
      match t.source with
      | .reply src => e.freeSource src
      | _ => e

/-- Every queued REPLY is discarded, and its slot or the reserve freed (R178). -/
def PE.clearReplies (e : PE) : PE := e.replies.foldl (fun e r => e.freeSource r.source) { e with replies := [] }

/-- Every HELD slot is void (R178). -/
def PE.voidHeld (e : PE) : PE :=
  { e with slots := e.slots.map fun s => if s.state = .held then { s with isVoid := true } else s }

/-- A loss-of-lock report (R178). -/
def PE.linkLoss (p : Port) (w : Work PE) : Work PE :=
  if !w.st.link then w
  else
    let w := PE.cutTx (w.mod fun e => { e with link := false, framer := Framer.init })
    let w := w.mod fun e => e.clearReplies.voidHeld
    if w.st.sess.isOpen then PE.endSession p w else w

end Sys2Proof.Machine
end

