-- ==== Sys2Proof/Machine/Session.lean ====
section
/-! DEFINITION. Sessions and roles (chapter 9), the Time Base, and the restart at a port (R193). -/

namespace Sys2Proof.Machine

/-- The results of a HELLO that opens nothing (R213). -/
def helloNone (d : DevReport) : Result := .hello 0 .client d 0

/-- An answer to a HELLO that opens nothing: it carries the PE's copy of the device state (R213). -/
def helloRefusal (st : Status) (detail : Nat) (d : DevReport) : Answer := ⟨st, detail, helloNone d⟩

/-- The request of a port's HELLO, for its answer. -/
def helloReq (p : Port) (i : SlotId) : Req := ⟨⟨p, 0⟩, i⟩

/-- Refuses a HELLO (R166). -/
def PE.refuseHello (p : Port) (i : SlotId) (st : Status) (detail : Nat) (w : Work PE) : Work PE :=
  w.answer (helloReq p i) (helloRefusal st detail w.st.dev)

/-- A session opens (R166, steps 1 to 4). -/
def PE.openSession (p : Port) (tick : Tick) (i : SlotId) (role : Role) (keepalive : Nat) (mask : Mask) (w : Work PE) :
    Work PE :=
  let n := w.st.sess.number + 1
  ((w.mod fun e => e.onSess fun _ =>
    { isOpen := true, endPending := .none, role := role, keepalive := keepalive
      deadline := some (tick + BitVec.ofNat 32 (2 * keepalive)), mask := mask, number := n, claim := none }).send
    (.sessionOpenReport ⟨p, n⟩ mask)).answer (helloReq p i) (okWith (.hello n role w.st.dev 0))

/-- The device state lets a session open, or the status that answers a HELLO (R166, item 2). -/
def helloState : DevReport → Option Status
  | .ready => none
  | .initializing | .restarting => some .starting
  | .failed => some .deviceFailed

/-- HELLO's value checks (R166, item 4). -/
def checkHello (b : HelloBody) : Except Nat (Role × Mask) :=
  match roleOf b.role with
  | none => .error 1
  | some role =>
    if b.keepalive < 100 ∨ 10000 < b.keepalive then .error 2
    else
      match maskOf b.mask with
      | none => .error 3
      | some m => .ok (role, m)

/-- A HELLO whose layout, device state and session state let it go on (R166, items 4 and 5). -/
def PE.helloOpen (p : Port) (tick : Tick) (i : SlotId) (b : HelloBody) (w : Work PE) : Work PE :=
  match checkHello b with
  | .error n => PE.refuseHello p i .outOfRange n w
  | .ok (.client, m) => PE.openSession p tick i .client b.keepalive m w
  | .ok (.admin, m) =>
    if w.st.grant then
      (w.mod fun e => e.onSess fun s => { s with claim := some ⟨i, b.keepalive, m⟩ }).send (.adminClaim p)
    else PE.refuseHello p i .adminHeld 0 w

/-- HELLO, in its slot (R166 to R168). One whose slot the link's loss has made void runs on, and its REPLY is discarded (R178,
log entry 31). -/
def PE.hello (p : Port) (env : PeEnv) (i : SlotId) (w : Work PE) : Work PE :=
  let e := w.st
  if e.slots[i].state ≠ .held then w
  else
    match helloBody e.slots[i].body with
    | .error d => PE.refuseHello p i .malformed d w
    | .ok b =>
      match helloState e.dev with
      | some st => PE.refuseHello p i st 0 w
      | none =>
        if e.sess.isOpen then
          w.answer (helloReq p i) ⟨.wrongState, 0, .hello e.sess.number e.sess.role e.dev env.cursors⟩
        else if e.sess.claim.isSome then PE.refuseHello p i .wrongState 0 w
        else PE.helloOpen p env.tick i b w

/-- The admin holder takes a claim (R167). -/
def claimHolder (p : Port) (w : Work (Option Port)) : Work (Option Port) :=
  match w.st with
  | none => (w.mod fun _ => some p).send (.adminClaimAnswer p true)
  | some _ => w.send (.adminClaimAnswer p false)

/-- The admin holder takes a release (R167). -/
def releaseHolder (p : Port) (w : Work (Option Port)) : Work (Option Port) :=
  if w.st = some p then w.mod fun _ => none else w

/-- The holder's answer reaches the PE (R167, R173). -/
def PE.claimAnswer (p : Port) (tick : Tick) (granted : Bool) (w : Work PE) : Work PE :=
  match w.st.sess.claim with
  | none => w
  | some c =>
    let w := w.mod fun e => e.onSess fun s => { s with claim := none }
    let e := w.st
    if e.dev = .ready && e.link && granted && e.grant then
      PE.openSession p tick c.slot .admin c.keepalive c.mask w
    else
      let w := if granted then w.send (.adminRelease p) else w
      if e.dev = .ready then PE.refuseHello p c.slot .adminHeld 0 w else PE.settle p w

/-- BYE (R171). Only the gate reads the device state (R199). -/
def PE.bye (r : Req) (body : List Byte) (w : Work PE) : Work PE :=
  w.layout r (emptyBody body) fun _ =>
    (w.mod fun e =>
      if e.has r.sess then e.onSess fun s => { s with endPending := .bye, deadline := none } else e).answer r okAnswer

/-- PING (R169). -/
def PE.ping (env : PeEnv) (r : Req) (body : List Byte) (w : Work PE) : Work PE :=
  w.layout r (emptyBody body) fun _ => w.answer r (okWith (.ping env.clock env.tick))

/-- What PORT_STATUS reports of a port, with what DE and NU hold for its session (R162, R216). -/
def PE.report (e : PE) (p : Port) (cursors queue lost : Nat) : PortReport :=
  let opened := e.sess.isOpen
  { port := p, link := e.link, grant := e.grant, sessionOpen := opened, role := e.sess.role
    number := if opened then e.sess.number else 0, keepalive := e.sess.keepalive, mask := e.sess.mask
    slotsInUse := e.slots.toList.countP fun s => s.state ≠ .free
    cursors := if opened then cursors else 0, queueLength := if opened then queue else 0
    lost := if opened then lost else 0, counters := e.counters }

/-- PORT_STATUS, at the PE of the named port, whatever its copy of the device state (R162, R199). -/
def PE.portStatus (p : Port) (cursors queue lost : Nat) (r : Req) (body : List Byte) (w : Work PE) : Work PE :=
  w.layout r (idFlagBody body) fun b =>
    if 3 < b.1 then w.refuse r .outOfRange 1
    else
      let a := okWith (.port (w.st.report p cursors queue lost))
      (if b.2 then w.mod fun e => e.onCounters fun _ => noPortCounts else w).answer r a

/-- The port's ADMIN session becomes a CLIENT session (R175). -/
def PE.demote (p : Port) (w : Work PE) : Work PE :=
  if w.st.sess.isOpen && w.st.sess.role = .admin then
    (w.mod fun e => e.onSess fun s => { s with role := .client }).sendAll
      [.adminRelease p, .noticeEvent ⟨.roleChanged, none, none, some (roleCode .client), some ⟨p, w.st.sess.number⟩⟩]
  else w

/-- PORT_GRANT, at the PE of the named port, whatever its copy of the device state (R174, R199). -/
def PE.portGrant (p : Port) (r : Req) (body : List Byte) (w : Work PE) : Work PE :=
  w.layout r (grantBody body) fun b =>
    if 3 < b.1 then w.refuse r .outOfRange 1
    else if 1 < b.2 then w.refuse r .outOfRange 2
    else if b.2 = 1 then (w.mod fun e => { e with grant := true }).answer r okAnswer
    else if p = 0 then w.refuse r .outOfRange 1
    else (PE.demote p (w.mod fun e => { e with grant := false })).answer r okAnswer

/-- A keepalive expiry (R170). -/
def PE.keepaliveExpiry (p : Port) (deadline : Tick) (w : Work PE) : Work PE :=
  let s := w.st.sess
  if s.isOpen && s.endPending = .none && s.deadline = some deadline then PE.endSession p w else w

/-- A state report reaches the PE (R199). -/
def PE.stateReport (d : DevReport) (w : Work PE) : Work PE :=
  w.mod fun e => { e with dev := d, settled := if d = .restarting then e.settled else false }

/-- The slot's request was handed to another block, or to the PE of another port (R193). -/
def handedAway (p : Port) (s : Slot) : Bool :=
  match gateOf p s.kind s.body, s.kind.toNat with
  | .unknown, _ | .hello, _ => false
  | _, 0x02 | _, 0x03 => false
  | _, 0x08 | _, 0x15 => namedPort p s.body ≠ p
  | _, _ => true

/-- HELD slots whose requests were handed away are freed without a REPLY (R193). The body buffer keeps its bytes until the slot
is taken again: the model's choice (log entry 60). -/
def PE.freeHandedAway (p : Port) (e : PE) : PE :=
  { e with slots := e.slots.map fun s => if s.state = .held && handedAway p s then { freeSlot with body := s.body } else s }

/-- What the PE's own rules answer a request of its own with in RESTARTING: a HELLO by the checks of R166, any other by the
gate (R165, R193, log entry 46). -/
def restartAnswer (p : Port) (s : Slot) : Answer :=
  match gateOf p s.kind s.body with
  | .hello =>
    match helloBody s.body with
    | .error d => helloRefusal .malformed d .restarting
    | .ok _ => helloRefusal .starting 0 .restarting
  | .unknown => refusal .unknownKind 0
  | .any _ | .admin _ => refusal .noSession 0

/-- The answers that the PE has given itself and not yet taken are taken, in their order (R188, R193). -/
def PE.takeOwn (p : Port) (own : List (SlotId × Answer)) (e : PE) : PE :=
  own.foldl (fun e a => e.answered p a.1 a.2) e

/-- Every slot that is still HELD is answered (R193), in rising order: the model's choice (log entry 46). -/
def PE.answerHeld (p : Port) (e : PE) : PE :=
  (List.finRange 8).foldl (fun e i =>
    if e.slots[i].state = .held then e.answered p i (restartAnswer p e.slots[i]) else e) e

/-- An open session goes to its end by RESTART (R173). -/
def PE.beginRestart (p : Port) (w : Work PE) : Work PE :=
  if w.st.sess.isOpen then
    (w.mod fun e => e.onSess fun s => { s with endPending := .restart, deadline := none }).send
      (.noticeEvent ⟨.restart, none, none, none, some ⟨p, w.st.sess.number⟩⟩)
  else w

/-- The HELLO whose ADMIN claim is out is answered STARTING (R173, R193). -/
def PE.answerClaim (p : Port) (e : PE) : PE :=
  match e.sess.claim with
  | some c => e.answered p c.slot (helloRefusal .starting 0 .restarting)
  | none => e

/-- The teardown order (R193, R207); `own`: the answers that the PE has given itself and not yet taken. No slot stays HELD. -/
def PE.teardown (p : Port) (own : List (SlotId × Answer)) (w : Work PE) : Work PE :=
  PE.settle p <| PE.beginRestart p <| w.mod fun e =>
    PE.answerHeld p <| PE.answerClaim p <| PE.takeOwn p own <|
      { e with dev := .restarting, settled := false }.freeHandedAway p

/-- The session record and grant at the end of the teardown (R208). -/
def PE.renew (p : Port) (e : PE) : PE := { e with sess := Session.closed 0, grant := grantAtReset p }

/-! ### The Time Base (R176, R177) -/

/-- TB after RESET_N (R176). -/
def TB.init : TB := ⟨0, 0, 0⟩

/-- One microsecond: the clock rises, and the tick with every thousandth (R176). -/
def TB.advance (t : TB) : TB :=
  if t.micros = 999 then ⟨t.clock + 1, t.tick + 1, 0⟩ else ⟨t.clock + 1, t.tick, t.micros + 1⟩

/-- CLOCK_SET (R177). -/
def TB.clockSet (r : Req) (body : List Byte) (w : Work TB) : Work TB :=
  w.layout r (oneField 6 body) fun v =>
    (w.mod fun t => { t with clock := BitVec.ofNat 48 v }).answer r (okWith (.clock w.st.clock))

end Sys2Proof.Machine
end

