-- ==== Sys2Proof/Machine/State.lean ====
section
/-! DEFINITION. The state of the WJ-320 as a whole, the ways a step can stop, and the state right after RESET_N. -/

namespace Sys2Proof.Machine

/-- A message on its way, and the block that sent it. -/
structure Wire where
  src : Block
  msg : Instr
  deriving DecidableEq, Repr

/-- The WJ-320. `abandoned`: the blocks between their abandon order and the end of the teardown (R206); `wires`: messages
sent and not yet arrived, in the order of sending; `pending`: the commands that wait, first in first out; `free`: the MODEL's
count of free values used (log entries 6 and 63). -/
structure State where
  pe : Vector PE 4
  sd : SD
  pp : PP
  mu : MU
  ae : AE
  de : DE
  ru : RU
  nu : NU
  mp : MP
  tb : TB
  dev : Device
  holder : Option Port
  abandoned : List CoreBlock
  wires : List Wire
  pending : List Instr
  free : Nat
  deriving DecidableEq, Repr

/-- The one fault. -/
inductive Fault where
  /-- Raised by the Memory Port when an operation it performs lies outside the strap-selected DRAM or outside its page: the
  spec says that MP performs no such operation (R194). Safe: nothing the spec describes is cut off. -/
  | noSuchAddress
  deriving DecidableEq, Repr

/-- Why a command has no meaning. -/
inductive Refusal where
  /-- Answered by `exec` for a command whose meaning is not written. Safe. -/
  | notModelled (mnemonic : String)
  deriving DecidableEq, Repr

/-- The device state machine in phase CALIBRATING (R200). -/
def Device.init (memsize : Bool) : Device :=
  { state := .calibrating, low := false, memsize := memsize, settled := Vector.replicate 4 false, abandonDone := []
    nuReset := false }

/-- Every block at its RESET_N values, with MEMSIZE as sampled (R200). -/
def State.powerUp (memsize : Bool) : State :=
  { pe := #v[PE.init 0, PE.init 1, PE.init 2, PE.init 3], sd := SD.init, pp := PP.init, mu := MU.init, ae := AE.init
    de := DE.init, ru := RU.init, nu := NU.init, mp := MP.init, tb := TB.init, dev := Device.init memsize
    holder := none, abandoned := [], wires := [], pending := [], free := 0 }

/-- The part right after the release of RESET_N, with MEMSIZE sampled as 1 (R200, log entry 4). -/
def State.reset : State := State.powerUp true

end Sys2Proof.Machine
end

