-- ==== Sys2Proof/Machine/Ops.lean ====
section
/-! DEFINITION. The operations over the whole state that every command shares: the arrival of a message, one block's event
with the messages it sends, what a block reads of the others, the restart, and the passing of time. -/

namespace Sys2Proof.Machine

/-! ### Who takes a command -/

/-- The block at which a command is an event. -/
def dstOf : Instr → Block
  | .resetNLow | .resetNRelease _ | .calibrationDone _ | .memoryCheckDone _ | .buildComplete | .deviceRestart _
  | .abandonDoneReport _ | .portSettledReport _ | .nuResetReport => .dev
  | .freeListBuild | .createClaim _ _ _ | .tuneClaim _ _ _ | .deleteClaim _ _ | .streamAbsentReport _ | .heldQuestion _ _
  | .allocationRequest _ | .holdRequest _ _ _ | .holdDrop _ | .handOver _ _ _ | .poolTune _ | .poolStatus _
  | .readyReportAtPp => .core .pp
  | .stateReport p _ | .linkLock p | .linkLoss p | .frameByte p _ | .byteGapAbort p | .answerArrival p _ _
  | .transmitOffer p | .frameSent p | .keepaliveExpiry p _ | .hello p _ | .adminClaimAnswer p _ | .teardownOrder p
  | .portStatus _ p | .portGrant _ p => .pe p
  | .bye r | .ping r => .pe r.sess.port
  | .adminClaim _ | .adminRelease _ => .holder
  | .clockSet _ => .core .tb
  | .noticeMask _ | .noticeEvent _ | .sessionOpenReport _ _ | .sessionEndReportAtNu _ | .noticeTaken _
  | .noticeSentReport _ _ _ => .nu
  | .streamCreate _ | .streamTune _ | .streamSeal _ | .streamDelete _ | .streamInfo _ | .createClaimAnswer _ _
  | .tuneClaimAnswer _ _ | .heldAnswerAtSd _ _ _ | .pageOpen _ _ | .pageClose _ | .commit _ _ _ | .releaseMarkSet _ _
  | .headRaise _ _ | .releaseMarkClear _ | .sealAnswer _ | .bind _ _ | .rebind _ _ | .unbind _ | .admission _ _
  | .appendLeave _ | .counterUpdate _ _ | .emptiedReport _ | .streamClearReport _ | .rangeQuestion _ _ | .placeQuestion _
  | .refusalQuestion _ | .positionQuestion _ _ | .viewQuestion _ | .scanQuestion | .deleteClaimAnswer _ => .core .sd
  | .mapWrite _ _ _ | .mapWriteDone _ _ _ | .slotClear _ _ | .slotClearDone _ _ | .lookupByLpn _ _ _ | .rangeAnswer _ _ _
  | .walkDone _ _ | .lookupBySequence _ _ _ | .deleteOrderAtMu _ | .mapFlush _ | .mapStatus _ | .headRead _ _
  | .headReadDone _ _ _ _ _ _ => .core .mu
  | .append _ | .admissionAnswer _ _ | .placeAnswer _ _ | .allocationGrant _ _ | .allocationRefusal _ _ | .refusalAnswer _ _
  | .recycledPage _ _ | .noPage _ | .entryWriteDone | .padWriteDone | .sealOrder _ | .deleteOrderAtAe _ => .core .ae
  | .cursorOpen _ | .bindAnswer _ _ | .searchAnswer _ _ | .positionAnswer _ _ _ | .cursorSeek _ | .cursorPause _
  | .cursorResume _ | .cursorClose _ | .cursorAttach _ | .rebindAnswer _ _ | .cursorInfo _ | .ack _ | .sessionEndAtDe _
  | .deleteOrderAtDe _ | .commitReport _ _ | .sealedSettledReport _ | .lookupAnswer _ _ | .trackerFreeReport
  | .holdAnswer _ _ | .headerReadDone _ _ | .payloadReadDone _ _ | .deliverTaken _ | .deliverSent _ | .deliverDropped _
  | .ackDeadlineExpiry _ _ _ | .advanceOrder _ _ _ | .floorQuestion _ | .returnedCursorGap _ _ _ => .core .de
  | .evaluationTrigger _ | .evaluationAnswer _ _ | .releaseMarkSetAnswer _ | .advanceOrderAnswer _ _ | .headRaiseAnswer _
  | .clearDoneReport _ _ | .pageReturnedReport _ _ | .recycleRequest _ | .recycleHeadAnswer _ _ | .ageScanExpiry _
  | .scanAnswer _ | .teardownHandover _ | .teardownHeadAnswer _ _ | .teardownHeldAnswer _ _ | .readyReportAtRu => .core .ru
  | .mpOperationIssue _ | .mpOperationFinished => .core .mp
  | .abandonOrder b => .core b

/-! ### The arrival of a message (log entries 1, 3, 11) -/

/-- How a command stands to the messages on their way: none of them; one of them, the others left; or one that older messages
of its sender to its receiver keep back. -/
inductive Arrival where
  | outside
  | taken (rest : List Wire)
  | blocked

/-- The older message is the commit of an entry and the younger one the OK of an APPEND: SD has applied the commit when the OK
is taken (R78, log entry 64). -/
def commitAhead : (older younger : Instr) → Bool
  | .commit _ _ _, .answerArrival _ _ ⟨_, _, .append _ _⟩ => true
  | _, _ => false

/-- The older message `y` keeps `x` back: one sender, one receiver, and not the Time Base's (R176, R187); or a commit of the
sender's ahead of the OK that follows it (R78). -/
def keepsBack (x y : Wire) : Bool :=
  y.src = x.src && (dstOf y.msg = dstOf x.msg || commitAhead y.msg x.msg) && x.src ≠ .core .tb

/-- Takes a message from those on their way; `seen` are the older ones, newest first. -/
def arrivalOf (m : Instr) (seen : List Wire) (kept : Bool) : List Wire → Arrival
  | [] => if kept then .blocked else .outside
  | x :: xs =>
    if x.msg = m then
      if seen.any (keepsBack x) then arrivalOf m (x :: seen) true xs else .taken (seen.reverse ++ xs)
    else arrivalOf m (x :: seen) kept xs

/-- The state in which a command takes effect: the message has left the wires. Absent while RESET_N is low, and while older
messages keep it back. -/
def State.receive (m : Instr) (s : State) : Option State :=
  if s.dev.low then none
  else
    match arrivalOf m [] false s.wires with
    | .outside => some s
    | .taken rest => some { s with wires := rest }
    | .blocked => none

/-- A block that has taken its abandon order discards what arrives (R206, log entry 11). TB takes a CLOCK_SET then too: the
clock counts on, and a Port Engine is no core block (R177, R206). -/
def State.drops (m : Instr) (s : State) : Bool :=
  match m, dstOf m with
  | .abandonOrder _, _ | .clockSet _, _ => false
  | _, .core b => s.abandoned.contains b
  | _, _ => false

/-- A command arrives: it waits, is discarded, or takes effect. -/
def arrive (m : Instr) (s : State) (act : State → State) : Host.Outcome State Fault Refusal :=
  match s.receive m with
  | none => .next s
  | some t => .next (if t.drops m then t else act t)

/-! ### One block's event -/

/-- Messages go out, behind those already on their way. -/
def State.post (s : State) (src : Block) (out : List Instr) : State :=
  { s with wires := s.wires ++ out.map fun m => ⟨src, m⟩ }

/-- An event at SD. -/
def State.onSd (s : State) (f : Work SD → Work SD) : State :=
  let w := f (Work.start s.sd)
  { s with sd := w.st }.post (.core .sd) w.out

/-- An event at PP. -/
def State.onPp (s : State) (f : Work PP → Work PP) : State :=
  let w := f (Work.start s.pp)
  { s with pp := w.st }.post (.core .pp) w.out

/-- An event at MU. -/
def State.onMu (s : State) (f : Work MU → Work MU) : State :=
  let w := f (Work.start s.mu)
  { s with mu := w.st }.post (.core .mu) w.out

/-- An event at AE. -/
def State.onAe (s : State) (f : Work AE → Work AE) : State :=
  let w := f (Work.start s.ae)
  { s with ae := w.st }.post (.core .ae) w.out

/-- An event at RU. -/
def State.onRu (s : State) (f : Work RU → Work RU) : State :=
  let w := f (Work.start s.ru)
  { s with ru := w.st }.post (.core .ru) w.out

/-- An event at NU. -/
def State.onNu (s : State) (f : Work NU → Work NU) : State :=
  let w := f (Work.start s.nu)
  { s with nu := w.st }.post .nu w.out

/-- An event at MP. -/
def State.onMp (s : State) (f : Work MP → Work MP) : State :=
  let w := f (Work.start s.mp)
  { s with mp := w.st }.post (.core .mp) w.out

/-- An event at TB. -/
def State.onTb (s : State) (f : Work TB → Work TB) : State :=
  let w := f (Work.start s.tb)
  { s with tb := w.st }.post (.core .tb) w.out

/-- An event at the admin holder. -/
def State.onHolder (s : State) (f : Work (Option Port) → Work (Option Port)) : State :=
  let w := f (Work.start s.holder)
  { s with holder := w.st }.post .holder w.out

/-- The DELIVERs that the arbiters have taken and DE has not yet heard of (R119). -/
def takenOffers (ws : List Wire) : List BufId :=
  ws.filterMap fun w =>
    match w.msg with
    | .deliverTaken b => some b
    | _ => none

/-- What DE reads of the rest of the part. -/
def State.deEnv (s : State) : DeEnv := ⟨s.tb.tick, takenOffers s.wires⟩

/-- An event at DE; withdrawals and choices follow (R112, R119). -/
def State.onDe (s : State) (f : Work DE → Work DE) : State :=
  let w := DE.follow s.deEnv (f (Work.start s.de))
  { s with de := w.st }.post (.core .de) w.out

/-! ### What a Port Engine reads of the rest -/

/-- The session of a port. -/
def State.session (s : State) (p : Port) : SessId := ⟨p, s.pe[p].sess.number⟩

/-- The notice NU offers to a port: the head of its session's queue, unless it has been taken already (R156). -/
def State.offeredNotice (s : State) (p : Port) : Option (SessId × Notice) :=
  if s.wires.any fun w => w.msg = .noticeTaken p then none
  else
    let q := s.nu.ports[p]
    if q.isOpen then q.queue.head?.map fun n => (⟨p, q.number⟩, n) else none

/-- The DELIVER that a buffer offers to its port, unless it has been taken already (R119). None is offered once the restart has
begun (R130): from the device state RESTARTING on, which is the model's reading (log entry 70). -/
def State.offerOf (s : State) (b : BufId) : Option Offer :=
  let buf := s.de.buffer b
  if s.dev.state ≠ .restarting && buf.state = .ready && !(takenOffers s.wires).contains b then
    buf.owner.map fun o => ⟨o, b, buf.cursor, deliverBody buf⟩
  else none

/-- What a Port Engine reads of the rest of the part. -/
def State.peEnv (s : State) (p : Port) : PeEnv :=
  { clock := s.tb.clock, tick := s.tb.tick, notice := s.offeredNotice p
    offers := [⟨p, 0⟩, ⟨p, 1⟩].filterMap s.offerOf
    cursors := s.de.sessionCount (s.session p) }

/-- An event at a Port Engine; the arbiter then chooses where the line is free (R191). -/
def State.onPe (s : State) (p : Port) (f : Work PE → Work PE) : State :=
  let w := PE.arbitrate p (s.peEnv p) (f (Work.start s.pe[p]))
  { s with pe := s.pe.set p w.st }.post (.pe p) w.out

/-- The message is one of a Port Engine to itself: a request that it has not taken yet, or an answer (log entry 33). -/
def ownOf (p : Port) (w : Wire) : Bool := w.src = .pe p && dstOf w.msg = .pe p

/-- The answers that a Port Engine has given itself and not yet taken, oldest first. -/
def State.ownAnswers (s : State) (p : Port) : List (SlotId × Answer) :=
  s.wires.filterMap fun w =>
    match w.msg with
    | .answerArrival _ i a => if ownOf p w then some (i, a) else none
    | _ => none

/-- A Port Engine's messages to itself are settled: they have left the wires (R193). -/
def State.settleOwn (s : State) (p : Port) : State := { s with wires := s.wires.filter fun w => !ownOf p w }

/-- The body of a request, from its slot (R184). Of a slot that the teardown has freed meanwhile it reads what the slot holds:
the request's own body still, or that of the slot's next request; the model's choice (R152, R162, R177, R193, log entry 60). -/
def State.body (s : State) (r : Req) : List Byte := s.pe[r.sess.port].slots[r.slot].body

/-- The payload of the APPEND in progress, read from its slot at the moment (R70, R77). What that is once the teardown has freed
the slot and another frame has taken it is the model's choice (log entry 60). -/
def State.headPayload (s : State) : List Byte :=
  match s.ae.head with
  | some j => (s.body j.req).drop 1
  | none => []

/-- The pool size in force (R24). -/
def State.poolSize (s : State) : Nat := Config.poolSize s.dev.memsize

/-- The stream is DELETING at SD (R143, log entry 37). -/
def State.deleting (s : State) (i : StreamId) : Bool := s.sd.streams[i].state = .deleting

/-! ### The device state machine (R199 to R208) -/

/-- A device state as it is reported (R199). -/
def reportOf : DevState → DevReport
  | .calibrating | .checking | .building => .initializing
  | .ready => .ready
  | .restarting => .restarting
  | .failed => .failed

/-- The four state reports (R199). -/
def stateReports (d : DevState) : List Instr := (List.finRange 4).map fun p => .stateReport p (reportOf d)

/-- Changes the device state machine's record. -/
def State.onDev (s : State) (f : Device → Device) : State := { s with dev := f s.dev }

/-- The device state changes, and the PEs are told; within INITIALIZING nothing is reported (R199). -/
def State.enter (s : State) (d : DevState) : State :=
  (s.onDev fun v => { v with state := d }).post .dev (if reportOf d = reportOf s.dev.state then [] else stateReports d)

/-- Phase BUILDING: PP is ordered to build the free list (R203). -/
def State.beginBuild (s : State) : State := (s.enter .building).post .dev [.freeListBuild]

/-- The core blocks that take the abandon order (R205). -/
def allCore : List CoreBlock := [.sd, .pp, .mu, .ae, .de, .ru, .tb, .mp]

/-- DEVICE_RESTART (R205). In RESTARTING it is discarded without an answer and its body is not read, since the slot may hold
another request by then; that a body that is not empty is discarded there too is the model's choice (log entry 61). In the other
states an empty one changes nothing: none can arrive in FAILED (R204), nor, as the model reads it, in INITIALIZING (DEDUCED, log
entry 39). -/
def State.restart (s : State) (r : Req) : State :=
  if s.dev.state = .restarting then s
  else
    match emptyBody (s.body r) with
    | .error d => s.post .dev [reply r (refusal .malformed d)]
    | .ok _ =>
      if s.dev.state = .ready then
        (s.onDev fun v => { v with state := .restarting }).post .dev
          (reply r okAnswer :: ((List.finRange 4).map Instr.teardownOrder ++ allCore.map Instr.abandonOrder))
      else s

/-- The block at its reset values after its abandon order (R206). -/
def State.clearBlock (s : State) : CoreBlock → State
  | .sd => { s with sd := SD.init }
  | .pp => { s with pp := PP.init }
  | .mu => { s with mu := MU.init }
  | .ae => { s with ae := AE.init }
  | .de => { s with de := DE.init }
  | .ru => { s with ru := RU.init }
  | .tb => s
  | .mp => { s with mp := s.mp.abandon s.dev.memsize (Config.bytesDone s.free), free := s.free + 1 }

/-- An abandon order (R206). It is at this order, not at the device state RESTARTING, that the sends of AE (R83) and of RU (R149)
end: the spec does not say when "the restart begins" for them, and this is the model's choice (DESIGN CHOICE, log entry 80). -/
def State.abandon (s : State) (b : CoreBlock) : State :=
  if s.dev.state = .restarting then
    { s.clearBlock b with abandoned := b :: s.abandoned }.post (.core b) [.abandonDoneReport b]
  else s

/-- The message outlives the teardown: it is not one of a core block's or of NU's, nor one of a PE to a core block, nor an answer
or request between two ports (R193, R206, R208, log entry 12). -/
def outlives (w : Wire) : Bool :=
  match w.src, dstOf w.msg with
  | .core _, _ | .nu, _ | .pe _, .core _ => false
  | .pe p, .pe q => p = q
  | _, _ => true

/-- NU holds its reset values: no session is open at it or on its way to it (R159, R208). -/
def State.nuAtReset (s : State) : Bool :=
  s.nu.allClosed && !s.wires.any fun w =>
    match w.msg with
    | .sessionOpenReport _ _ => true
    | _ => false

/-- NU has returned to its reset values and has told the device state machine, or had nothing to tell (R159, R208, log entry
36). -/
def State.nuBack (s : State) : Bool :=
  s.nuAtReset && (s.dev.nuReset || !s.wires.any fun w => w.msg = .nuResetReport)

/-- The four things that end the teardown hold (R208). -/
def State.teardownDone (s : State) : Bool :=
  s.dev.state = .restarting && s.dev.settled.toList.all id && allCore.all (s.dev.abandonDone.contains ·) && s.nuBack

/-- The end of the teardown (R208). -/
def State.endTeardown (s : State) : State :=
  { s with
    pe := s.pe.mapFinIdx fun i e h => PE.renew ⟨i, h⟩ e
    nu := NU.init, holder := none, abandoned := [], wires := s.wires.filter outlives
    dev := { s.dev with settled := Vector.replicate 4 false, abandonDone := [], nuReset := false } }.beginBuild

/-- Ends the teardown where it is done (R208). -/
def State.tryEnd (s : State) : State := if s.teardownDone then s.endTeardown else s

/-! ### The passing of time (R176, R182; log entries 2 and 29) -/

/-- The keepalive deadlines that the tick has reached (R170). -/
def State.keepalives (s : State) (t : Tick) : List Instr :=
  (List.finRange 4).filterMap fun p => if s.pe[p].sess.deadline = some t then some (.keepaliveExpiry p t) else none

/-- The acknowledgement deadlines that the tick has reached (R123). -/
def State.ackDeadlines (s : State) (t : Tick) : List Instr :=
  (List.finRange 64).flatMap fun c =>
    (s.de.cursors[c].list.filter fun e => !e.due && e.deadline = t).map fun e => .ackDeadlineExpiry c e.seq e.tries

/-- The age scan deadline, where the tick has reached it (R145). -/
def State.scanDeadline (s : State) (t : Tick) : List Instr := if s.ru.scan = some t then [.ageScanExpiry t] else []

/-- The deadlines that the tick has reached; none after TB's abandon order (R176, R206). -/
def State.expiries (s : State) (t : Tick) : List Instr :=
  if s.abandoned.contains .tb then [] else s.keepalives t ++ s.ackDeadlines t ++ s.scanDeadline t

/-- One microsecond in a frame in progress, and the abort when more than 2 ms have run (R182). -/
def State.gapRuns (s : State) (p : Port) : State :=
  let f := s.pe[p].framer
  if f.state = .hunting then s
  else if f.gap < 2000 then { s with pe := upd s.pe p fun e => { e with framer := { e.framer with gap := f.gap + 1 } } }
  else s.onPe p (PE.byteGapAbort p s.tb.tick)

/-- One microsecond passes (R176). -/
def State.passTime (s : State) : State :=
  if s.dev.low then s
  else
    let t := s.tb.advance
    let s := { s with tb := t }.post (.core .tb) (if t.micros = 0 then s.expiries t.tick else [])
    (List.finRange 4).foldl State.gapRuns s

end Sys2Proof.Machine
end

