-- ==== Sys2Proof/Machine/ExecAppend.lean ====
section
/-! DEFINITION. The Append Engine (chapter 4): the meaning of each command of the family. -/

namespace Sys2Proof.Machine

/-- APPEND (R68). -/
def execAppend (r : Req) (s : State) : Host.Outcome State Fault Refusal :=
  arrive (.append r) s fun t => t.onAe (AE.append r (t.body r))

/-- ADMISSION_ANSWER (R68). -/
def execAdmissionAnswer (r : Req) (admitted : Bool) (s : State) : Host.Outcome State Fault Refusal :=
  arrive (.admissionAnswer r admitted) s fun t => t.onAe (AE.admissionAnswer r admitted)

/-- PLACE_ANSWER (R71). -/
def execPlaceAnswer (i : StreamId) (info : PlaceInfo) (s : State) : Host.Outcome State Fault Refusal :=
  arrive (.placeAnswer i info) s fun t => t.onAe (AE.placeAnswer t.tb.clock t.headPayload i info)

/-- ALLOCATION_GRANT (R73). -/
def execAllocationGrant (i : StreamId) (ppn : Ppn) (s : State) : Host.Outcome State Fault Refusal :=
  arrive (.allocationGrant i ppn) s fun t => t.onAe (AE.allocationGrant t.tb.clock t.headPayload i ppn)

/-- ALLOCATION_REFUSAL (R74). -/
def execAllocationRefusal (i : StreamId) (cause : Cause) (s : State) : Host.Outcome State Fault Refusal :=
  arrive (.allocationRefusal i cause) s fun t => t.onAe (AE.allocationRefusal i)

/-- REFUSAL_ANSWER (R74). -/
def execRefusalAnswer (i : StreamId) (info : RefusalInfo) (s : State) : Host.Outcome State Fault Refusal :=
  arrive (.refusalAnswer i info) s fun t => t.onAe (AE.refusalAnswer i info)

/-- RECYCLED_PAGE (R76). -/
def execRecycledPage (i : StreamId) (ppn : Ppn) (s : State) : Host.Outcome State Fault Refusal :=
  arrive (.recycledPage i ppn) s fun t => t.onAe (AE.recycledPage t.tb.clock t.headPayload i ppn)

/-- NO_PAGE (R76). -/
def execNoPage (i : StreamId) (s : State) : Host.Outcome State Fault Refusal :=
  arrive (.noPage i) s fun t => t.onAe (AE.noPage i)

/-- ENTRY_WRITE_DONE (R77). -/
def execEntryWriteDone (s : State) : Host.Outcome State Fault Refusal :=
  arrive .entryWriteDone s fun t => t.onAe (AE.entryWriteDone)

/-- PAD_WRITE_DONE (R67). -/
def execPadWriteDone (s : State) : Host.Outcome State Fault Refusal := arrive .padWriteDone s fun t => t

/-- SEAL_ORDER (R81). -/
def execSealOrder (i : StreamId) (s : State) : Host.Outcome State Fault Refusal :=
  arrive (.sealOrder i) s fun t => t.onAe (AE.sealOrder i)

/-- DELETE_ORDER_AT_AE (R82). -/
def execDeleteOrderAtAe (i : StreamId) (s : State) : Host.Outcome State Fault Refusal :=
  arrive (.deleteOrderAtAe i) s fun t => t.onAe (AE.deleteOrder i)

end Sys2Proof.Machine
end

