-- ==== Sys2Proof/Machine/ExecCursor.lean ====
section
/-! DEFINITION. Cursors (chapter 5): the meaning of each command of the family. -/

namespace Sys2Proof.Machine

/-- CURSOR_OPEN (R89). -/
def execCursorOpen (r : Req) (s : State) : Host.Outcome State Fault Refusal :=
  arrive (.cursorOpen r) s fun t => t.onDe (DE.cursorOpen r (t.body r))

/-- BIND_ANSWER (R90). -/
def execBindAnswer (c : CursorId) (a : BindAnswer) (s : State) : Host.Outcome State Fault Refusal :=
  arrive (.bindAnswer c a) s fun t => t.onDe (DE.bindAnswer c a)

/-- SEARCH_ANSWER (R91). -/
def execSearchAnswer (c : CursorId) (a : MapAnswer) (s : State) : Host.Outcome State Fault Refusal :=
  arrive (.searchAnswer c a) s fun t => t.onDe (DE.searchAnswer c a)

/-- POSITION_ANSWER (R92). -/
def execPositionAnswer (c : CursorId) (head : Seq) (committed : Seq) (s : State) : Host.Outcome State Fault Refusal :=
  arrive (.positionAnswer c head committed) s fun t => t.onDe (DE.positionAnswer c head committed)

/-- CURSOR_SEEK (R94). -/
def execCursorSeek (r : Req) (s : State) : Host.Outcome State Fault Refusal :=
  arrive (.cursorSeek r) s fun t => t.onDe (DE.cursorSeek r (t.body r))

/-- CURSOR_PAUSE (R96). -/
def execCursorPause (r : Req) (s : State) : Host.Outcome State Fault Refusal :=
  arrive (.cursorPause r) s fun t => t.onDe (DE.cursorPause r (t.body r))

/-- CURSOR_RESUME (R97). -/
def execCursorResume (r : Req) (s : State) : Host.Outcome State Fault Refusal :=
  arrive (.cursorResume r) s fun t => t.onDe (DE.cursorResume r (t.body r))

/-- CURSOR_CLOSE (R98). -/
def execCursorClose (r : Req) (s : State) : Host.Outcome State Fault Refusal :=
  arrive (.cursorClose r) s fun t => t.onDe (DE.cursorClose r (t.body r))

/-- CURSOR_ATTACH (R104). -/
def execCursorAttach (r : Req) (s : State) : Host.Outcome State Fault Refusal :=
  arrive (.cursorAttach r) s fun t => t.onDe (DE.cursorAttach r (t.body r))

/-- REBIND_ANSWER (R104). -/
def execRebindAnswer (c : CursorId) (a : BindAnswer) (s : State) : Host.Outcome State Fault Refusal :=
  arrive (.rebindAnswer c a) s fun t => t.onDe (DE.rebindAnswer c a)

/-- CURSOR_INFO (R107). -/
def execCursorInfo (r : Req) (s : State) : Host.Outcome State Fault Refusal :=
  arrive (.cursorInfo r) s fun t => t.onDe (DE.cursorInfo r (t.body r))

/-- SESSION_END_AT_DE (R101). -/
def execSessionEndAtDe (sess : SessId) (s : State) : Host.Outcome State Fault Refusal :=
  arrive (.sessionEndAtDe sess) s fun t => t.onDe (DE.sessionEnd sess)

/-- DELETE_ORDER_AT_DE (R105). -/
def execDeleteOrderAtDe (i : StreamId) (s : State) : Host.Outcome State Fault Refusal :=
  arrive (.deleteOrderAtDe i) s fun t => t.onDe (DE.deleteOrder i)

end Sys2Proof.Machine
end

