-- ==== Sys2Proof/Machine/ExecDelivery.lean ====
section
/-! DEFINITION. Delivery and acknowledgement (chapter 6): the meaning of each command of the family. -/

namespace Sys2Proof.Machine

/-- ACK (R125). -/
def execAck (r : Req) (s : State) : Host.Outcome State Fault Refusal :=
  arrive (.ack r) s fun t => t.onDe (DE.ack r (t.body r))

/-- COMMIT_REPORT (R109). -/
def execCommitReport (i : StreamId) (seq : Seq) (s : State) : Host.Outcome State Fault Refusal :=
  arrive (.commitReport i seq) s fun t => t.onDe (DE.commitReport i seq)

/-- SEALED_SETTLED_REPORT (R109). -/
def execSealedSettledReport (i : StreamId) (s : State) : Host.Outcome State Fault Refusal :=
  arrive (.sealedSettledReport i) s fun t => t.onDe (DE.settledReport i)

/-- LOOKUP_ANSWER (R113). -/
def execLookupAnswer (b : BufId) (a : MapAnswer) (s : State) : Host.Outcome State Fault Refusal :=
  arrive (.lookupAnswer b a) s fun t => t.onDe (DE.lookupAnswer b a)

/-- TRACKER_FREE_REPORT (R112). -/
def execTrackerFreeReport (s : State) : Host.Outcome State Fault Refusal :=
  arrive .trackerFreeReport s fun t => t.onDe (DE.trackerFree)

/-- HOLD_ANSWER (R114). -/
def execHoldAnswer (b : BufId) (a : HoldAnswer) (s : State) : Host.Outcome State Fault Refusal :=
  arrive (.holdAnswer b a) s fun t => t.onDe (DE.holdAnswer b a)

/-- HEADER_READ_DONE (R115). -/
def execHeaderReadDone (b : BufId) (bytes : List Byte) (s : State) : Host.Outcome State Fault Refusal :=
  arrive (.headerReadDone b bytes) s fun t => t.onDe (DE.headerDone b bytes)

/-- PAYLOAD_READ_DONE (R117). -/
def execPayloadReadDone (b : BufId) (bytes : List Byte) (s : State) : Host.Outcome State Fault Refusal :=
  arrive (.payloadReadDone b bytes) s fun t => t.onDe (DE.payloadDone b bytes)

/-- DELIVER_TAKEN (R119). -/
def execDeliverTaken (b : BufId) (s : State) : Host.Outcome State Fault Refusal :=
  arrive (.deliverTaken b) s fun t => t.onDe (DE.taken b)

/-- DELIVER_SENT (R120). -/
def execDeliverSent (b : BufId) (s : State) : Host.Outcome State Fault Refusal :=
  arrive (.deliverSent b) s fun t => t.onDe (DE.sent t.tb.tick b)

/-- DELIVER_DROPPED (R119). -/
def execDeliverDropped (b : BufId) (s : State) : Host.Outcome State Fault Refusal :=
  arrive (.deliverDropped b) s fun t => t.onDe (DE.dropped b)

/-- ACK_DEADLINE_EXPIRY (R123). -/
def execAckDeadlineExpiry (c : CursorId) (seq : Seq) (tries : Nat) (s : State) : Host.Outcome State Fault Refusal :=
  arrive (.ackDeadlineExpiry c seq tries) s fun t => t.onDe (DE.expiry c seq tries)

/-- ADVANCE_ORDER (R127). -/
def execAdvanceOrder (i : StreamId) (m : Seq) (kind : RelKind) (s : State) : Host.Outcome State Fault Refusal :=
  arrive (.advanceOrder i m kind) s fun t => t.onDe (DE.advanceOrder i m kind)

/-- FLOOR_QUESTION (R135). -/
def execFloorQuestion (i : StreamId) (s : State) : Host.Outcome State Fault Refusal :=
  arrive (.floorQuestion i) s fun t => t.onDe (DE.floorQuestion i)

/-- RETURNED_CURSOR_GAP (R158). -/
def execReturnedCursorGap (c : CursorId) (gap : Nat) (sess : SessId) (s : State) : Host.Outcome State Fault Refusal :=
  arrive (.returnedCursorGap c gap sess) s fun t => t.onDe (DE.returnedGap c gap sess)

end Sys2Proof.Machine
end

