-- ==== Sys2Proof/Machine/ExecDevice.lean ====
section
/-! DEFINITION. Reset, start-up, restart and the Memory Port (chapter 11): the meaning of each command of the family. -/

namespace Sys2Proof.Machine

/-- The part while RESET_N is low: every block at its reset values, the DRAM operation in progress cut off where it stands
(R200, log entries 6 and 42). -/
def State.hold (s : State) : State :=
  { State.powerUp s.dev.memsize with
    dev := { Device.init s.dev.memsize with low := true }
    mp := { MP.init with dram := (s.mp.cut s.dev.memsize (Config.bytesDone s.free)).dram }
    pending := s.pending, free := s.free + 1 }

/-- The part as RESET_N rises: every block at its reset values, MEMSIZE sampled, the DRAM's contents undefined (R200). -/
def State.release (memsize : Bool) (s : State) : State :=
  { State.powerUp memsize with
    mp := { MP.init with dram := s.mp.dram.lose }
    pending := s.pending, free := s.free }

/-- The end of calibration (R201). -/
def State.calibrated (ok : Bool) (s : State) : State :=
  if s.dev.state = .calibrating then
    let s := { s with mp := { s.mp with calibrated := ok, dram := s.mp.dram.spoil 0 areaBytes } }
    if ok then s.enter .checking else s.enter .failed
  else s

/-- The start-up memory check, with `equal` where the DRAM gives back every byte as written (R202). A check that fails does so
at a comparison that is a free value (log entry 63). -/
def State.memoryChecked (equal : Bool) (s : State) : State :=
  if s.dev.state = .checking then
    let r := s.mp.dram.check (if equal then none else some (Config.unequalAt s.free).val) (checkSteps s.dev.memsize)
    let s := { s with mp := { s.mp with dram := r.1 }, free := if equal then s.free else s.free + 1 }
    if r.2 then s.beginBuild else s.enter .failed
  else s

/-- The build is complete: the device is READY (R203). -/
def State.built (s : State) : State :=
  if s.dev.state = .building then (s.enter .ready).post .dev [.readyReportAtRu, .readyReportAtPp] else s

/-- A block has reported its abandon done (R208). -/
def State.blockDone (b : CoreBlock) (s : State) : State :=
  if s.dev.state = .restarting then (s.onDev fun v => { v with abandonDone := b :: v.abandonDone.erase b }).tryEnd else s

/-- A port has reported itself settled (R207). -/
def State.portSettled (p : Port) (s : State) : State :=
  if s.dev.state = .restarting then (s.onDev fun v => { v with settled := v.settled.set p true }).tryEnd else s

/-- NU has reported its return to its reset values (R159, R208). -/
def State.nuDone (s : State) : State :=
  if s.dev.state = .restarting then (s.onDev fun v => { v with nuReset := true }).tryEnd else s

/-- The DRAM finishes the operation being performed; one that does not lie in the DRAM is a fault (R194, R197). -/
def State.finishOperation (s : State) : Host.Outcome State Fault Refusal :=
  match s.mp.busy with
  | none => .next s
  | some op => if reaches s.dev.memsize op then .next (s.onMp (MP.finish op)) else .fault .noSuchAddress

/-- RESET_N_LOW (R200). -/
def execResetNLow (s : State) : Host.Outcome State Fault Refusal := .next s.hold

/-- RESET_N_RELEASE: the rising edge, where RESET_N is low (R200). -/
def execResetNRelease (memsize : Bool) (s : State) : Host.Outcome State Fault Refusal :=
  .next (if s.dev.low then s.release memsize else s)

/-- MP_OPERATION_FINISHED (R197). -/
def execMpOperationFinished (s : State) : Host.Outcome State Fault Refusal :=
  match s.receive .mpOperationFinished with
  | none => .next s
  | some t => if t.drops .mpOperationFinished then .next t else t.finishOperation

/-- CALIBRATION_DONE (R201). -/
def execCalibrationDone (ok : Bool) (s : State) : Host.Outcome State Fault Refusal :=
  arrive (.calibrationDone ok) s fun t => t.calibrated ok

/-- MEMORY_CHECK_DONE (R202). -/
def execMemoryCheckDone (equal : Bool) (s : State) : Host.Outcome State Fault Refusal :=
  arrive (.memoryCheckDone equal) s fun t => t.memoryChecked equal

/-- BUILD_COMPLETE (R203). -/
def execBuildComplete (s : State) : Host.Outcome State Fault Refusal := arrive .buildComplete s fun t => t.built

/-- DEVICE_RESTART (R205). -/
def execDeviceRestart (r : Req) (s : State) : Host.Outcome State Fault Refusal :=
  arrive (.deviceRestart r) s fun t => t.restart r

/-- ABANDON_ORDER (R206). -/
def execAbandonOrder (b : CoreBlock) (s : State) : Host.Outcome State Fault Refusal :=
  arrive (.abandonOrder b) s fun t => t.abandon b

/-- ABANDON_DONE_REPORT (R208). -/
def execAbandonDoneReport (b : CoreBlock) (s : State) : Host.Outcome State Fault Refusal :=
  arrive (.abandonDoneReport b) s fun t => t.blockDone b

/-- PORT_SETTLED_REPORT (R207). -/
def execPortSettledReport (p : Port) (s : State) : Host.Outcome State Fault Refusal :=
  arrive (.portSettledReport p) s fun t => t.portSettled p

/-- NU_RESET_REPORT (R159). -/
def execNuResetReport (s : State) : Host.Outcome State Fault Refusal := arrive .nuResetReport s fun t => t.nuDone

/-- MP_OPERATION_ISSUE (R196). -/
def execMpOperationIssue (op : MpOp) (s : State) : Host.Outcome State Fault Refusal :=
  arrive (.mpOperationIssue op) s fun t => t.onMp fun w => w.mod (MP.issue op)

end Sys2Proof.Machine
end

