-- ==== Sys2Proof/Machine/ExecDirectory.lean ====
section
/-! DEFINITION. The Stream Directory (chapter 1): the meaning of each command of the family. -/

namespace Sys2Proof.Machine

/-- STREAM_CREATE (R11). -/
def execStreamCreate (r : Req) (s : State) : Host.Outcome State Fault Refusal :=
  arrive (.streamCreate r) s fun t => t.onSd (SD.streamCreate r (t.body r))

/-- STREAM_TUNE (R13). -/
def execStreamTune (r : Req) (s : State) : Host.Outcome State Fault Refusal :=
  arrive (.streamTune r) s fun t => t.onSd (SD.streamTune r (t.body r))

/-- STREAM_SEAL (R15). -/
def execStreamSeal (r : Req) (s : State) : Host.Outcome State Fault Refusal :=
  arrive (.streamSeal r) s fun t => t.onSd (SD.streamSeal r (t.body r))

/-- STREAM_DELETE (R19). -/
def execStreamDelete (r : Req) (s : State) : Host.Outcome State Fault Refusal :=
  arrive (.streamDelete r) s fun t => t.onSd (SD.streamDelete r (t.body r))

/-- STREAM_INFO (R22). -/
def execStreamInfo (r : Req) (s : State) : Host.Outcome State Fault Refusal :=
  arrive (.streamInfo r) s fun t => t.onSd (SD.streamInfo r (t.body r))

/-- CREATE_CLAIM_ANSWER (R12). -/
def execCreateClaimAnswer (i : StreamId) (a : ClaimAnswer) (s : State) : Host.Outcome State Fault Refusal :=
  arrive (.createClaimAnswer i a) s fun t => t.onSd (SD.createClaimAnswer i a)

/-- TUNE_CLAIM_ANSWER (R14). -/
def execTuneClaimAnswer (i : StreamId) (a : ClaimAnswer) (s : State) : Host.Outcome State Fault Refusal :=
  arrive (.tuneClaimAnswer i a) s fun t => t.onSd (SD.tuneClaimAnswer i a)

/-- HELD_ANSWER_AT_SD (R22). -/
def execHeldAnswerAtSd (r : Req) (i : StreamId) (held : Nat) (s : State) : Host.Outcome State Fault Refusal :=
  arrive (.heldAnswerAtSd r i held) s fun t => t.onSd (SD.heldAnswer r i held)

/-- PAGE_OPEN (R6). -/
def execPageOpen (i : StreamId) (ppn : Ppn) (s : State) : Host.Outcome State Fault Refusal :=
  arrive (.pageOpen i ppn) s fun t => t.onSd (SD.pageOpen i ppn)

/-- PAGE_CLOSE (R7). -/
def execPageClose (i : StreamId) (s : State) : Host.Outcome State Fault Refusal :=
  arrive (.pageClose i) s fun t => t.onSd (SD.pageClose i)

/-- COMMIT (R8). -/
def execCommit (i : StreamId) (seq : Seq) (stamp : Clock) (s : State) : Host.Outcome State Fault Refusal :=
  arrive (.commit i seq stamp) s fun t => t.onSd (SD.commit i seq stamp)

/-- RELEASE_MARK_SET (R9). -/
def execReleaseMarkSet (i : StreamId) (m : Seq) (s : State) : Host.Outcome State Fault Refusal :=
  arrive (.releaseMarkSet i m) s fun t => t.onSd (SD.releaseMarkSet i m)

/-- HEAD_RAISE (R9). -/
def execHeadRaise (i : StreamId) (m : Seq) (s : State) : Host.Outcome State Fault Refusal :=
  arrive (.headRaise i m) s fun t => t.onSd (SD.headRaise i m)

/-- RELEASE_MARK_CLEAR (R9). -/
def execReleaseMarkClear (i : StreamId) (s : State) : Host.Outcome State Fault Refusal :=
  arrive (.releaseMarkClear i) s fun t => t.onSd (SD.releaseMarkClear i)

/-- SEAL_ANSWER (R16). -/
def execSealAnswer (i : StreamId) (s : State) : Host.Outcome State Fault Refusal :=
  arrive (.sealAnswer i) s fun t => t.onSd (SD.sealAnswer i)

/-- BIND (R17). -/
def execBind (i : StreamId) (c : CursorId) (s : State) : Host.Outcome State Fault Refusal :=
  arrive (.bind i c) s fun t => t.onSd (SD.bind i c)

/-- REBIND (R104). -/
def execRebind (i : StreamId) (c : CursorId) (s : State) : Host.Outcome State Fault Refusal :=
  arrive (.rebind i c) s fun t => t.onSd (SD.rebind i c)

/-- UNBIND (R17). -/
def execUnbind (i : StreamId) (s : State) : Host.Outcome State Fault Refusal :=
  arrive (.unbind i) s fun t => t.onSd (SD.unbind i)

/-- ADMISSION (R68). -/
def execAdmission (i : StreamId) (r : Req) (s : State) : Host.Outcome State Fault Refusal :=
  arrive (.admission i r) s fun t => t.onSd (SD.admission i r)

/-- APPEND_LEAVE (R18). -/
def execAppendLeave (i : StreamId) (s : State) : Host.Outcome State Fault Refusal :=
  arrive (.appendLeave i) s fun t => t.onSd (SD.appendLeave i)

/-- COUNTER_UPDATE (R23). -/
def execCounterUpdate (i : StreamId) (u : CounterRaise) (s : State) : Host.Outcome State Fault Refusal :=
  arrive (.counterUpdate i u) s fun t => t.onSd (SD.counterUpdate i u)

/-- EMPTIED_REPORT (R20). -/
def execEmptiedReport (i : StreamId) (s : State) : Host.Outcome State Fault Refusal :=
  arrive (.emptiedReport i) s fun t => t.onSd (SD.emptiedReport i)

/-- STREAM_CLEAR_REPORT (R20). -/
def execStreamClearReport (i : StreamId) (s : State) : Host.Outcome State Fault Refusal :=
  arrive (.streamClearReport i) s fun t => t.onSd (SD.streamClearReport i)

/-- RANGE_QUESTION (R48). -/
def execRangeQuestion (i : StreamId) (ref : RangeRef) (s : State) : Host.Outcome State Fault Refusal :=
  arrive (.rangeQuestion i ref) s fun t => t.onSd (SD.rangeQuestion i ref)

/-- PLACE_QUESTION (R71). -/
def execPlaceQuestion (i : StreamId) (s : State) : Host.Outcome State Fault Refusal :=
  arrive (.placeQuestion i) s fun t => t.onSd (SD.placeQuestion i)

/-- REFUSAL_QUESTION (R74). -/
def execRefusalQuestion (i : StreamId) (s : State) : Host.Outcome State Fault Refusal :=
  arrive (.refusalQuestion i) s fun t => t.onSd (SD.refusalQuestion i)

/-- POSITION_QUESTION (R91). -/
def execPositionQuestion (i : StreamId) (c : CursorId) (s : State) : Host.Outcome State Fault Refusal :=
  arrive (.positionQuestion i c) s fun t => t.onSd (SD.positionQuestion i c)

/-- VIEW_QUESTION (R133). -/
def execViewQuestion (i : StreamId) (s : State) : Host.Outcome State Fault Refusal :=
  arrive (.viewQuestion i) s fun t => t.onSd (SD.viewQuestion i)

/-- SCAN_QUESTION (R145). -/
def execScanQuestion (s : State) : Host.Outcome State Fault Refusal :=
  arrive .scanQuestion s fun t => t.onSd (SD.scanQuestion)

/-- DELETE_CLAIM_ANSWER (R13). -/
def execDeleteClaimAnswer (i : StreamId) (s : State) : Host.Outcome State Fault Refusal :=
  arrive (.deleteClaimAnswer i) s fun t => t.onSd (SD.deleteClaimAnswer i)

end Sys2Proof.Machine
end

