-- ==== Sys2Proof/Machine/ExecMap.lean ====
section
/-! DEFINITION. The Map Unit (chapter 3): the meaning of each command of the family. -/

namespace Sys2Proof.Machine

/-- MAP_WRITE (R46). -/
def execMapWrite (i : StreamId) (lpn : Lpn) (record : MapRec) (s : State) : Host.Outcome State Fault Refusal :=
  arrive (.mapWrite i lpn record) s fun t => t.onMu (MU.mapWrite i lpn record)

/-- MAP_WRITE_DONE (R46). -/
def execMapWriteDone (i : StreamId) (lpn : Lpn) (record : MapRec) (s : State) : Host.Outcome State Fault Refusal :=
  arrive (.mapWriteDone i lpn record) s fun t => t.onMu (MU.mapWriteDone i lpn record)

/-- SLOT_CLEAR (R47). -/
def execSlotClear (i : StreamId) (lpn : Lpn) (s : State) : Host.Outcome State Fault Refusal :=
  arrive (.slotClear i lpn) s fun t => t.onMu (MU.slotClear i lpn)

/-- SLOT_CLEAR_DONE (R47). -/
def execSlotClearDone (i : StreamId) (lpn : Lpn) (s : State) : Host.Outcome State Fault Refusal :=
  arrive (.slotClearDone i lpn) s fun t => t.onMu (MU.slotClearDone i lpn)

/-- LOOKUP_BY_LPN (R48). -/
def execLookupByLpn (i : StreamId) (lpn : Lpn) (r : Looker) (s : State) : Host.Outcome State Fault Refusal :=
  arrive (.lookupByLpn i lpn r) s fun t => t.onMu (MU.lookup i lpn r)

/-- RANGE_ANSWER (R48). -/
def execRangeAnswer (i : StreamId) (ref : RangeRef) (info : RangeInfo) (s : State) : Host.Outcome State Fault Refusal :=
  arrive (.rangeAnswer i ref info) s fun t => t.onMu (MU.rangeAnswer i ref info)

/-- WALK_DONE (R55). -/
def execWalkDone (t' : TrackerId) (bytes : List Byte) (s : State) : Host.Outcome State Fault Refusal :=
  arrive (.walkDone t' bytes) s fun t => t.onMu (MU.walkDone t' bytes)

/-- LOOKUP_BY_SEQUENCE (R57). -/
def execLookupBySequence (i : StreamId) (q : Seq) (r : Searcher) (s : State) : Host.Outcome State Fault Refusal :=
  arrive (.lookupBySequence i q r) s fun t => t.onMu (MU.lookupBySequence i q r)

/-- DELETE_ORDER_AT_MU (R60). -/
def execDeleteOrderAtMu (i : StreamId) (s : State) : Host.Outcome State Fault Refusal :=
  arrive (.deleteOrderAtMu i) s fun t => t.onMu (MU.deleteOrder i)

/-- MAP_FLUSH (R61). -/
def execMapFlush (r : Req) (s : State) : Host.Outcome State Fault Refusal :=
  arrive (.mapFlush r) s fun t => t.onMu (MU.flush r (t.body r))

/-- MAP_STATUS (R62). -/
def execMapStatus (r : Req) (s : State) : Host.Outcome State Fault Refusal :=
  arrive (.mapStatus r) s fun t => t.onMu (MU.status r (t.body r))

/-- HEAD_READ (R134). -/
def execHeadRead (i : StreamId) (why : HeadWhy) (s : State) : Host.Outcome State Fault Refusal :=
  arrive (.headRead i why) s fun t => t.onMu (MU.headRead i why)

/-- HEAD_READ_DONE (R134). -/
def execHeadReadDone (i : StreamId) (why : HeadWhy) (state : StreamState) (head : Lpn) (tail : Lpn) (bytes : List Byte) (s : State) : Host.Outcome State Fault Refusal :=
  arrive (.headReadDone i why state head tail bytes) s fun t => t.onMu (MU.headReadDone i why state head tail bytes)

end Sys2Proof.Machine
end

