-- ==== Sys2Proof/Machine/ExecNotice.lean ====
section
/-! DEFINITION. The Notice Unit (chapter 8): the meaning of each command of the family. -/

namespace Sys2Proof.Machine

/-- The PE's session record holds the mask that NU has taken (R152, R164, log entry 40). -/
def State.copyMask (s : State) (r : Req) : State :=
  match oneField 1 (s.body r) with
  | .error _ => s
  | .ok v =>
    match maskOf v with
    | none => s
    | some m =>
      { s with pe := upd s.pe r.sess.port fun e => if e.has r.sess then e.onSess fun x => { x with mask := m } else e }

/-- NOTICE_MASK (R152). The body is what the slot holds, also where the teardown has freed it (log entry 60). -/
def execNoticeMask (r : Req) (s : State) : Host.Outcome State Fault Refusal :=
  arrive (.noticeMask r) s fun t => (t.onNu (NU.noticeMask r (t.body r))).copyMask r

/-- NOTICE_EVENT (R151). -/
def execNoticeEvent (e : Event) (s : State) : Host.Outcome State Fault Refusal :=
  arrive (.noticeEvent e) s fun t => t.onNu (NU.event t.tb.clock e)

/-- SESSION_OPEN_REPORT (R153). -/
def execSessionOpenReport (sess : SessId) (mask : Mask) (s : State) : Host.Outcome State Fault Refusal :=
  arrive (.sessionOpenReport sess mask) s fun t => t.onNu (NU.openSession sess mask)

/-- SESSION_END_REPORT_AT_NU (R153). -/
def execSessionEndReportAtNu (sess : SessId) (s : State) : Host.Outcome State Fault Refusal :=
  arrive (.sessionEndReportAtNu sess) s fun t => t.onNu (NU.endSession (t.dev.state = .restarting) sess)

/-- NOTICE_TAKEN (R156). -/
def execNoticeTaken (p : Port) (s : State) : Host.Outcome State Fault Refusal :=
  arrive (.noticeTaken p) s fun t => t.onNu (NU.taken p)

/-- NOTICE_SENT_REPORT (R156). -/
def execNoticeSentReport (sess : SessId) (notice : Notice) (sent : Bool) (s : State) : Host.Outcome State Fault Refusal :=
  arrive (.noticeSentReport sess notice sent) s fun t => t.onNu (NU.report (t.dev.state = .restarting) sess notice sent)

end Sys2Proof.Machine
end

