-- ==== Sys2Proof/Machine/ExecPool.lean ====
section
/-! DEFINITION. The Page Pool (chapter 2): the meaning of each command of the family. -/

namespace Sys2Proof.Machine

/-- FREE_LIST_BUILD (R27). -/
def execFreeListBuild (s : State) : Host.Outcome State Fault Refusal :=
  arrive .freeListBuild s fun t => t.onPp (PP.build t.poolSize)

/-- CREATE_CLAIM (R29). -/
def execCreateClaim (i : StreamId) (reservation : Nat) (ceiling : Nat) (s : State) : Host.Outcome State Fault Refusal :=
  arrive (.createClaim i reservation ceiling) s fun t => t.onPp (PP.createClaim i reservation ceiling)

/-- TUNE_CLAIM (R30). -/
def execTuneClaim (i : StreamId) (reservation : Nat) (ceiling : Nat) (s : State) : Host.Outcome State Fault Refusal :=
  arrive (.tuneClaim i reservation ceiling) s fun t => t.onPp (PP.tuneClaim i reservation ceiling)

/-- DELETE_CLAIM (R31). -/
def execDeleteClaim (i : StreamId) (ceiling : Nat) (s : State) : Host.Outcome State Fault Refusal :=
  arrive (.deleteClaim i ceiling) s fun t => t.onPp (PP.deleteClaim i ceiling)

/-- STREAM_ABSENT_REPORT (R31). -/
def execStreamAbsentReport (i : StreamId) (s : State) : Host.Outcome State Fault Refusal :=
  arrive (.streamAbsentReport i) s fun t => t.onPp (PP.absentReport i)

/-- HELD_QUESTION (R31). -/
def execHeldQuestion (i : StreamId) (asker : HeldAsker) (s : State) : Host.Outcome State Fault Refusal :=
  arrive (.heldQuestion i asker) s fun t => t.onPp (PP.heldQuestion i asker)

/-- ALLOCATION_REQUEST (R32). -/
def execAllocationRequest (i : StreamId) (s : State) : Host.Outcome State Fault Refusal :=
  arrive (.allocationRequest i) s fun t => t.onPp (PP.allocate i)

/-- HOLD_REQUEST (R33). -/
def execHoldRequest (i : StreamId) (ppn : Ppn) (b : BufId) (s : State) : Host.Outcome State Fault Refusal :=
  arrive (.holdRequest i ppn b) s fun t => t.onPp (PP.holdRequest i ppn b)

/-- HOLD_DROP (R34). -/
def execHoldDrop (ppn : Ppn) (s : State) : Host.Outcome State Fault Refusal :=
  arrive (.holdDrop ppn) s fun t => t.onPp (PP.holdDrop ppn)

/-- HAND_OVER (R35). -/
def execHandOver (i : StreamId) (ppn : Ppn) (kind : RelKind) (s : State) : Host.Outcome State Fault Refusal :=
  arrive (.handOver i ppn kind) s fun t => t.onPp (PP.handOver i ppn kind)

/-- POOL_TUNE (R39). -/
def execPoolTune (r : Req) (s : State) : Host.Outcome State Fault Refusal :=
  arrive (.poolTune r) s fun t => t.onPp (PP.tune t.poolSize r (t.body r))

/-- POOL_STATUS (R40). -/
def execPoolStatus (r : Req) (s : State) : Host.Outcome State Fault Refusal :=
  arrive (.poolStatus r) s fun t => t.onPp (PP.status t.poolSize r (t.body r))

/-- READY_REPORT_AT_PP (R203). -/
def execReadyReportAtPp (s : State) : Host.Outcome State Fault Refusal :=
  arrive .readyReportAtPp s fun t => t.onPp (PP.readyReport)

end Sys2Proof.Machine
end

