-- ==== Sys2Proof/Machine/ExecPort.lean ====
section
/-! DEFINITION. Links, frames and the transmitter (chapter 10): the meaning of each command of the family. -/

namespace Sys2Proof.Machine

/-- An answer from another block meets a slot that a HELLO holds: the PE alone answers a HELLO, so the answer was meant for an
earlier request of the slot, freed at the restart (R193, log entry 45). -/
def State.strayAnswer (s : State) (p : Port) (i : SlotId) (a : Answer) : Bool :=
  s.pe[p].slots[i].kind = 0x01 && (s.wires.find? fun w => w.msg = .answerArrival p i a).any fun w => w.src ≠ .pe p

/-- An answer reaches the PE (R188). -/
def PE.takeAnswer (p : Port) (i : SlotId) (a : Answer) (stray : Bool) (w : Work PE) : Work PE :=
  w.mod fun e => if stray then e.countRefused a else e.answered p i a

/-- STATE_REPORT (R199). -/
def execStateReport (p : Port) (d : DevReport) (s : State) : Host.Outcome State Fault Refusal :=
  arrive (.stateReport p d) s fun t => t.onPe p (PE.stateReport d)

/-- LINK_LOCK (R178). -/
def execLinkLock (p : Port) (s : State) : Host.Outcome State Fault Refusal :=
  arrive (.linkLock p) s fun t => t.onPe p (PE.linkLock)

/-- LINK_LOSS (R178). -/
def execLinkLoss (p : Port) (s : State) : Host.Outcome State Fault Refusal :=
  arrive (.linkLoss p) s fun t => t.onPe p (PE.linkLoss p)

/-- FRAME_BYTE (R179). -/
def execFrameByte (p : Port) (b : Byte) (s : State) : Host.Outcome State Fault Refusal :=
  arrive (.frameByte p b) s fun t => t.onPe p (PE.frameByte p t.tb.tick b)

/-- BYTE_GAP_ABORT (R182). -/
def execByteGapAbort (p : Port) (s : State) : Host.Outcome State Fault Refusal :=
  arrive (.byteGapAbort p) s fun t => t.onPe p (PE.byteGapAbort p t.tb.tick)

/-- ANSWER_ARRIVAL (R188). -/
def execAnswerArrival (p : Port) (slot : SlotId) (a : Answer) (s : State) : Host.Outcome State Fault Refusal :=
  arrive (.answerArrival p slot a) s fun t => t.onPe p (PE.takeAnswer p slot a (s.strayAnswer p slot a))

/-- TRANSMIT_OFFER (R191). -/
def execTransmitOffer (p : Port) (s : State) : Host.Outcome State Fault Refusal :=
  arrive (.transmitOffer p) s fun t => t.onPe p (id)

/-- FRAME_SENT (R190). -/
def execFrameSent (p : Port) (s : State) : Host.Outcome State Fault Refusal :=
  arrive (.frameSent p) s fun t => t.onPe p (PE.frameSent p)

/-- TEARDOWN_ORDER (R193). The Port Engine's messages to itself are settled in the same step. -/
def execTeardownOrder (p : Port) (s : State) : Host.Outcome State Fault Refusal :=
  arrive (.teardownOrder p) s fun t => (t.settleOwn p).onPe p (PE.teardown p (t.ownAnswers p))

end Sys2Proof.Machine
end

