-- ==== Sys2Proof/Machine/ExecRelease.lean ====
section
/-! DEFINITION. The Retention Unit (chapter 7): the meaning of each command of the family. -/

namespace Sys2Proof.Machine

/-- READY_REPORT_AT_RU (R145). -/
def execReadyReportAtRu (s : State) : Host.Outcome State Fault Refusal :=
  arrive .readyReportAtRu s fun t => t.onRu (RU.readyReport t.tb.tick)

/-- EVALUATION_TRIGGER (R132). -/
def execEvaluationTrigger (i : StreamId) (s : State) : Host.Outcome State Fault Refusal :=
  arrive (.evaluationTrigger i) s fun t => t.onRu (RU.trigger i)

/-- EVALUATION_ANSWER (R133). -/
def execEvaluationAnswer (i : StreamId) (part : EvalPart) (s : State) : Host.Outcome State Fault Refusal :=
  arrive (.evaluationAnswer i part) s fun t => t.onRu (RU.evaluationAnswer t.tb.clock i part)

/-- RELEASE_MARK_SET_ANSWER (R139). -/
def execReleaseMarkSetAnswer (i : StreamId) (s : State) : Host.Outcome State Fault Refusal :=
  arrive (.releaseMarkSetAnswer i) s fun t => t.onRu (RU.markAnswer i)

/-- ADVANCE_ORDER_ANSWER (R140). -/
def execAdvanceOrderAnswer (i : StreamId) (done : Bool) (s : State) : Host.Outcome State Fault Refusal :=
  arrive (.advanceOrderAnswer i done) s fun t => t.onRu (RU.advanceAnswer i done (t.deleting i))

/-- HEAD_RAISE_ANSWER (R141). -/
def execHeadRaiseAnswer (i : StreamId) (s : State) : Host.Outcome State Fault Refusal :=
  arrive (.headRaiseAnswer i) s fun t => t.onRu (RU.raiseAnswer i)

/-- CLEAR_DONE_REPORT (R142). -/
def execClearDoneReport (i : StreamId) (lpn : Lpn) (s : State) : Host.Outcome State Fault Refusal :=
  arrive (.clearDoneReport i lpn) s fun t => t.onRu (RU.clearDone i lpn)

/-- PAGE_RETURNED_REPORT (R143). -/
def execPageReturnedReport (i : StreamId) (ppn : Ppn) (s : State) : Host.Outcome State Fault Refusal :=
  arrive (.pageReturnedReport i ppn) s fun t => t.onRu (RU.pageReturned i ppn (t.deleting i))

/-- RECYCLE_REQUEST (R144). -/
def execRecycleRequest (i : StreamId) (s : State) : Host.Outcome State Fault Refusal :=
  arrive (.recycleRequest i) s fun t => t.onRu (RU.recycleRequest i)

/-- RECYCLE_HEAD_ANSWER (R144). -/
def execRecycleHeadAnswer (i : StreamId) (h : HeadAnswer) (s : State) : Host.Outcome State Fault Refusal :=
  arrive (.recycleHeadAnswer i h) s fun t => t.onRu (RU.recycleHead i h)

/-- AGE_SCAN_EXPIRY (R145). -/
def execAgeScanExpiry (deadline : Tick) (s : State) : Host.Outcome State Fault Refusal :=
  arrive (.ageScanExpiry deadline) s fun t => t.onRu (RU.scanExpiry deadline)

/-- SCAN_ANSWER (R145). -/
def execScanAnswer (ids : List StreamId) (s : State) : Host.Outcome State Fault Refusal :=
  arrive (.scanAnswer ids) s fun t => t.onRu (RU.scanAnswer ids)

/-- TEARDOWN_HANDOVER (R146). -/
def execTeardownHandover (i : StreamId) (s : State) : Host.Outcome State Fault Refusal :=
  arrive (.teardownHandover i) s fun t => t.onRu (RU.handover i)

/-- TEARDOWN_HEAD_ANSWER (R146). -/
def execTeardownHeadAnswer (i : StreamId) (h : HeadAnswer) (s : State) : Host.Outcome State Fault Refusal :=
  arrive (.teardownHeadAnswer i h) s fun t => t.onRu (RU.teardownHead i h)

/-- TEARDOWN_HELD_ANSWER (R147). -/
def execTeardownHeldAnswer (i : StreamId) (held : Nat) (s : State) : Host.Outcome State Fault Refusal :=
  arrive (.teardownHeldAnswer i held) s fun t => t.onRu (RU.heldAnswer i held)

end Sys2Proof.Machine
end

