-- ==== Sys2Proof/Machine/ExecSession.lean ====
section
/-! DEFINITION. Sessions, roles and the Time Base (chapter 9): the meaning of each command of the family. -/

namespace Sys2Proof.Machine

/-- The length of the notice queue of the session on a port (R162). -/
def State.noticeQueue (s : State) (p : Port) : Nat := if s.nu.knows (s.session p) then s.nu.ports[p].queue.length else 0

/-- The present lost count of the session on a port (R162). -/
def State.noticesLost (s : State) (p : Port) : Nat := if s.nu.knows (s.session p) then s.nu.ports[p].lost else 0

/-- KEEPALIVE_EXPIRY (R170). -/
def execKeepaliveExpiry (p : Port) (deadline : Tick) (s : State) : Host.Outcome State Fault Refusal :=
  arrive (.keepaliveExpiry p deadline) s fun t => t.onPe p (PE.keepaliveExpiry p deadline)

/-- HELLO (R166). -/
def execHello (p : Port) (slot : SlotId) (s : State) : Host.Outcome State Fault Refusal :=
  arrive (.hello p slot) s fun t => t.onPe p (PE.hello p (t.peEnv p) slot)

/-- ADMIN_CLAIM (R167). -/
def execAdminClaim (p : Port) (s : State) : Host.Outcome State Fault Refusal :=
  arrive (.adminClaim p) s fun t => t.onHolder (claimHolder p)

/-- ADMIN_RELEASE (R167). -/
def execAdminRelease (p : Port) (s : State) : Host.Outcome State Fault Refusal :=
  arrive (.adminRelease p) s fun t => t.onHolder (releaseHolder p)

/-- ADMIN_CLAIM_ANSWER (R167). -/
def execAdminClaimAnswer (p : Port) (granted : Bool) (s : State) : Host.Outcome State Fault Refusal :=
  arrive (.adminClaimAnswer p granted) s fun t => t.onPe p (PE.claimAnswer p t.tb.tick granted)

/-- BYE (R171). -/
def execBye (r : Req) (s : State) : Host.Outcome State Fault Refusal :=
  arrive (.bye r) s fun t => t.onPe r.sess.port (PE.bye r (t.body r))

/-- PING (R169). -/
def execPing (r : Req) (s : State) : Host.Outcome State Fault Refusal :=
  arrive (.ping r) s fun t => t.onPe r.sess.port (PE.ping (t.peEnv r.sess.port) r (t.body r))

/-- PORT_STATUS (R162), with DE's and NU's counts of the moment (log entry 41). The body is what the slot holds, also where the
teardown of the asking port has freed it (log entry 60). -/
def execPortStatus (r : Req) (named : Port) (s : State) : Host.Outcome State Fault Refusal :=
  arrive (.portStatus r named) s fun t => t.onPe named (PE.portStatus named (t.peEnv named).cursors (t.noticeQueue named) (t.noticesLost named) r (t.body r))

/-- PORT_GRANT (R174). -/
def execPortGrant (r : Req) (named : Port) (s : State) : Host.Outcome State Fault Refusal :=
  arrive (.portGrant r named) s fun t => t.onPe named (PE.portGrant named r (t.body r))

/-- CLOCK_SET (R177). -/
def execClockSet (r : Req) (s : State) : Host.Outcome State Fault Refusal :=
  arrive (.clockSet r) s fun t => t.onTb (TB.clockSet r (t.body r))

end Sys2Proof.Machine
end

