-- ==== Sys2Proof/Machine/Dispatch.lean ====
section
/-! DEFINITION. One arm for each command: the call of its meaning. -/

namespace Sys2Proof.Machine

/-- The effect of a command on everything but the queue of commands. -/
def exec (i : Instr) (s : State) : Host.Outcome State Fault Refusal :=
  match i with
  | .resetNLow => Sys2Proof.Machine.execResetNLow s
  | .resetNRelease memsize => Sys2Proof.Machine.execResetNRelease memsize s
  | .calibrationDone ok => Sys2Proof.Machine.execCalibrationDone ok s
  | .memoryCheckDone equal => Sys2Proof.Machine.execMemoryCheckDone equal s
  | .freeListBuild => Sys2Proof.Machine.execFreeListBuild s
  | .buildComplete => Sys2Proof.Machine.execBuildComplete s
  | .stateReport p d => Sys2Proof.Machine.execStateReport p d s
  | .readyReportAtRu => Sys2Proof.Machine.execReadyReportAtRu s
  | .linkLock p => Sys2Proof.Machine.execLinkLock p s
  | .linkLoss p => Sys2Proof.Machine.execLinkLoss p s
  | .frameByte p b => Sys2Proof.Machine.execFrameByte p b s
  | .byteGapAbort p => Sys2Proof.Machine.execByteGapAbort p s
  | .answerArrival p slot a => Sys2Proof.Machine.execAnswerArrival p slot a s
  | .transmitOffer p => Sys2Proof.Machine.execTransmitOffer p s
  | .frameSent p => Sys2Proof.Machine.execFrameSent p s
  | .keepaliveExpiry p deadline => Sys2Proof.Machine.execKeepaliveExpiry p deadline s
  | .hello p slot => Sys2Proof.Machine.execHello p slot s
  | .adminClaim p => Sys2Proof.Machine.execAdminClaim p s
  | .adminRelease p => Sys2Proof.Machine.execAdminRelease p s
  | .adminClaimAnswer p granted => Sys2Proof.Machine.execAdminClaimAnswer p granted s
  | .bye r => Sys2Proof.Machine.execBye r s
  | .ping r => Sys2Proof.Machine.execPing r s
  | .portStatus r named => Sys2Proof.Machine.execPortStatus r named s
  | .portGrant r named => Sys2Proof.Machine.execPortGrant r named s
  | .clockSet r => Sys2Proof.Machine.execClockSet r s
  | .noticeMask r => Sys2Proof.Machine.execNoticeMask r s
  | .streamCreate r => Sys2Proof.Machine.execStreamCreate r s
  | .streamTune r => Sys2Proof.Machine.execStreamTune r s
  | .streamSeal r => Sys2Proof.Machine.execStreamSeal r s
  | .streamDelete r => Sys2Proof.Machine.execStreamDelete r s
  | .streamInfo r => Sys2Proof.Machine.execStreamInfo r s
  | .createClaimAnswer st a => Sys2Proof.Machine.execCreateClaimAnswer st a s
  | .tuneClaimAnswer st a => Sys2Proof.Machine.execTuneClaimAnswer st a s
  | .heldAnswerAtSd r st held => Sys2Proof.Machine.execHeldAnswerAtSd r st held s
  | .pageOpen st ppn => Sys2Proof.Machine.execPageOpen st ppn s
  | .pageClose st => Sys2Proof.Machine.execPageClose st s
  | .commit st seq stamp => Sys2Proof.Machine.execCommit st seq stamp s
  | .releaseMarkSet st m => Sys2Proof.Machine.execReleaseMarkSet st m s
  | .headRaise st m => Sys2Proof.Machine.execHeadRaise st m s
  | .releaseMarkClear st => Sys2Proof.Machine.execReleaseMarkClear st s
  | .sealAnswer st => Sys2Proof.Machine.execSealAnswer st s
  | .bind st c => Sys2Proof.Machine.execBind st c s
  | .rebind st c => Sys2Proof.Machine.execRebind st c s
  | .unbind st => Sys2Proof.Machine.execUnbind st s
  | .admission st r => Sys2Proof.Machine.execAdmission st r s
  | .appendLeave st => Sys2Proof.Machine.execAppendLeave st s
  | .counterUpdate st u => Sys2Proof.Machine.execCounterUpdate st u s
  | .emptiedReport st => Sys2Proof.Machine.execEmptiedReport st s
  | .streamClearReport st => Sys2Proof.Machine.execStreamClearReport st s
  | .rangeQuestion st ref => Sys2Proof.Machine.execRangeQuestion st ref s
  | .placeQuestion st => Sys2Proof.Machine.execPlaceQuestion st s
  | .refusalQuestion st => Sys2Proof.Machine.execRefusalQuestion st s
  | .positionQuestion st c => Sys2Proof.Machine.execPositionQuestion st c s
  | .viewQuestion st => Sys2Proof.Machine.execViewQuestion st s
  | .scanQuestion => Sys2Proof.Machine.execScanQuestion s
  | .createClaim st reservation ceiling => Sys2Proof.Machine.execCreateClaim st reservation ceiling s
  | .tuneClaim st reservation ceiling => Sys2Proof.Machine.execTuneClaim st reservation ceiling s
  | .deleteClaim st ceiling => Sys2Proof.Machine.execDeleteClaim st ceiling s
  | .streamAbsentReport st => Sys2Proof.Machine.execStreamAbsentReport st s
  | .heldQuestion st asker => Sys2Proof.Machine.execHeldQuestion st asker s
  | .allocationRequest st => Sys2Proof.Machine.execAllocationRequest st s
  | .holdRequest st ppn b => Sys2Proof.Machine.execHoldRequest st ppn b s
  | .holdDrop ppn => Sys2Proof.Machine.execHoldDrop ppn s
  | .handOver st ppn kind => Sys2Proof.Machine.execHandOver st ppn kind s
  | .poolTune r => Sys2Proof.Machine.execPoolTune r s
  | .poolStatus r => Sys2Proof.Machine.execPoolStatus r s
  | .mapWrite st lpn record => Sys2Proof.Machine.execMapWrite st lpn record s
  | .mapWriteDone st lpn record => Sys2Proof.Machine.execMapWriteDone st lpn record s
  | .slotClear st lpn => Sys2Proof.Machine.execSlotClear st lpn s
  | .slotClearDone st lpn => Sys2Proof.Machine.execSlotClearDone st lpn s
  | .lookupByLpn st lpn r => Sys2Proof.Machine.execLookupByLpn st lpn r s
  | .rangeAnswer st ref info => Sys2Proof.Machine.execRangeAnswer st ref info s
  | .walkDone t bytes => Sys2Proof.Machine.execWalkDone t bytes s
  | .lookupBySequence st q r => Sys2Proof.Machine.execLookupBySequence st q r s
  | .deleteOrderAtMu st => Sys2Proof.Machine.execDeleteOrderAtMu st s
  | .mapFlush r => Sys2Proof.Machine.execMapFlush r s
  | .mapStatus r => Sys2Proof.Machine.execMapStatus r s
  | .headRead st why => Sys2Proof.Machine.execHeadRead st why s
  | .headReadDone st why state head tail bytes => Sys2Proof.Machine.execHeadReadDone st why state head tail bytes s
  | .append r => Sys2Proof.Machine.execAppend r s
  | .admissionAnswer r admitted => Sys2Proof.Machine.execAdmissionAnswer r admitted s
  | .placeAnswer st info => Sys2Proof.Machine.execPlaceAnswer st info s
  | .allocationGrant st ppn => Sys2Proof.Machine.execAllocationGrant st ppn s
  | .allocationRefusal st cause => Sys2Proof.Machine.execAllocationRefusal st cause s
  | .refusalAnswer st info => Sys2Proof.Machine.execRefusalAnswer st info s
  | .recycledPage st ppn => Sys2Proof.Machine.execRecycledPage st ppn s
  | .noPage st => Sys2Proof.Machine.execNoPage st s
  | .entryWriteDone => Sys2Proof.Machine.execEntryWriteDone s
  | .padWriteDone => Sys2Proof.Machine.execPadWriteDone s
  | .sealOrder st => Sys2Proof.Machine.execSealOrder st s
  | .deleteOrderAtAe st => Sys2Proof.Machine.execDeleteOrderAtAe st s
  | .cursorOpen r => Sys2Proof.Machine.execCursorOpen r s
  | .bindAnswer c a => Sys2Proof.Machine.execBindAnswer c a s
  | .searchAnswer c a => Sys2Proof.Machine.execSearchAnswer c a s
  | .positionAnswer c head committed => Sys2Proof.Machine.execPositionAnswer c head committed s
  | .cursorSeek r => Sys2Proof.Machine.execCursorSeek r s
  | .cursorPause r => Sys2Proof.Machine.execCursorPause r s
  | .cursorResume r => Sys2Proof.Machine.execCursorResume r s
  | .cursorClose r => Sys2Proof.Machine.execCursorClose r s
  | .cursorAttach r => Sys2Proof.Machine.execCursorAttach r s
  | .rebindAnswer c a => Sys2Proof.Machine.execRebindAnswer c a s
  | .cursorInfo r => Sys2Proof.Machine.execCursorInfo r s
  | .ack r => Sys2Proof.Machine.execAck r s
  | .sessionEndAtDe sess => Sys2Proof.Machine.execSessionEndAtDe sess s
  | .deleteOrderAtDe st => Sys2Proof.Machine.execDeleteOrderAtDe st s
  | .commitReport st seq => Sys2Proof.Machine.execCommitReport st seq s
  | .sealedSettledReport st => Sys2Proof.Machine.execSealedSettledReport st s
  | .lookupAnswer b a => Sys2Proof.Machine.execLookupAnswer b a s
  | .trackerFreeReport => Sys2Proof.Machine.execTrackerFreeReport s
  | .holdAnswer b a => Sys2Proof.Machine.execHoldAnswer b a s
  | .headerReadDone b bytes => Sys2Proof.Machine.execHeaderReadDone b bytes s
  | .payloadReadDone b bytes => Sys2Proof.Machine.execPayloadReadDone b bytes s
  | .deliverTaken b => Sys2Proof.Machine.execDeliverTaken b s
  | .deliverSent b => Sys2Proof.Machine.execDeliverSent b s
  | .deliverDropped b => Sys2Proof.Machine.execDeliverDropped b s
  | .ackDeadlineExpiry c seq tries => Sys2Proof.Machine.execAckDeadlineExpiry c seq tries s
  | .advanceOrder st m kind => Sys2Proof.Machine.execAdvanceOrder st m kind s
  | .floorQuestion st => Sys2Proof.Machine.execFloorQuestion st s
  | .returnedCursorGap c gap sess => Sys2Proof.Machine.execReturnedCursorGap c gap sess s
  | .evaluationTrigger st => Sys2Proof.Machine.execEvaluationTrigger st s
  | .evaluationAnswer st part => Sys2Proof.Machine.execEvaluationAnswer st part s
  | .releaseMarkSetAnswer st => Sys2Proof.Machine.execReleaseMarkSetAnswer st s
  | .advanceOrderAnswer st done => Sys2Proof.Machine.execAdvanceOrderAnswer st done s
  | .headRaiseAnswer st => Sys2Proof.Machine.execHeadRaiseAnswer st s
  | .clearDoneReport st lpn => Sys2Proof.Machine.execClearDoneReport st lpn s
  | .pageReturnedReport st ppn => Sys2Proof.Machine.execPageReturnedReport st ppn s
  | .recycleRequest st => Sys2Proof.Machine.execRecycleRequest st s
  | .recycleHeadAnswer st h => Sys2Proof.Machine.execRecycleHeadAnswer st h s
  | .ageScanExpiry deadline => Sys2Proof.Machine.execAgeScanExpiry deadline s
  | .scanAnswer ids => Sys2Proof.Machine.execScanAnswer ids s
  | .teardownHandover st => Sys2Proof.Machine.execTeardownHandover st s
  | .teardownHeadAnswer st h => Sys2Proof.Machine.execTeardownHeadAnswer st h s
  | .teardownHeldAnswer st held => Sys2Proof.Machine.execTeardownHeldAnswer st held s
  | .noticeEvent e => Sys2Proof.Machine.execNoticeEvent e s
  | .sessionOpenReport sess mask => Sys2Proof.Machine.execSessionOpenReport sess mask s
  | .sessionEndReportAtNu sess => Sys2Proof.Machine.execSessionEndReportAtNu sess s
  | .noticeTaken p => Sys2Proof.Machine.execNoticeTaken p s
  | .noticeSentReport sess notice sent => Sys2Proof.Machine.execNoticeSentReport sess notice sent s
  | .deviceRestart r => Sys2Proof.Machine.execDeviceRestart r s
  | .teardownOrder p => Sys2Proof.Machine.execTeardownOrder p s
  | .abandonOrder b => Sys2Proof.Machine.execAbandonOrder b s
  | .abandonDoneReport b => Sys2Proof.Machine.execAbandonDoneReport b s
  | .portSettledReport p => Sys2Proof.Machine.execPortSettledReport p s
  | .nuResetReport => Sys2Proof.Machine.execNuResetReport s
  | .mpOperationIssue op => Sys2Proof.Machine.execMpOperationIssue op s
  | .mpOperationFinished => Sys2Proof.Machine.execMpOperationFinished s
  | .readyReportAtPp => Sys2Proof.Machine.execReadyReportAtPp s
  | .deleteClaimAnswer st => Sys2Proof.Machine.execDeleteClaimAnswer st s

end Sys2Proof.Machine
end

