-- ==== Sys2Proof/Machine/Step.lean ====
section
/-! DEFINITION. One step: the command at the front of the queue; without one, the oldest message on its way; without either,
a microsecond. -/

namespace Sys2Proof.Machine

/-- The state without its first waiting command. -/
def State.behind (s : State) (rest : List Instr) : State := { s with pending := rest }

/-- What happens with no command waiting: the oldest message arrives, or time passes (log entries 1 and 2). -/
def State.idle (s : State) : Host.Outcome State Fault Refusal :=
  match s.wires with
  | w :: _ => exec w.msg s
  | [] => .next s.passTime

/-- One step. -/
def step (s : State) : Host.Outcome State Fault Refusal :=
  match s.pending with
  | c :: rest => exec c (s.behind rest)
  | [] => s.idle

/-- The state with the command that a word spells put at the front of its queue. -/
def State.withFetchWord (s : State) (nbits w : Nat) : State :=
  match decodeTableWord nbits w with
  | some c => { s with pending := c :: s.pending }
  | none => s

end Sys2Proof.Machine
end

