-- ==== Sys2Proof/Safety.lean ====
section
/-! DEFINITION. The predicates that the statements use: a command that takes effect, a step that touches one block, what a
block sends, and the invariants of the part. -/

namespace Sys2Proof.Machine

/-! ### A command that takes effect -/

/-- The command takes effect, and in `t`: it has arrived and left the wires, and its receiver does not discard it. In RESTARTING a
core block that has not taken its abandon order yet is not shut out: it acts, and sends, as its rules say (for the sends of AE
and RU, R83 and R149, that is the model's choice, log entry 80). -/
def Takes (m : Instr) (s t : State) : Prop := s.receive m = some t ∧ t.drops m = false

/-! ### What a step sends -/

/-- The block sends these messages and nothing else is sent. -/
def Sends (b : Block) (t u : State) (ms : List Instr) : Prop := u.wires = t.wires ++ ms.map fun m => ⟨b, m⟩

/-- The block sends these messages first. -/
def SendsFirst (b : Block) (t u : State) (ms : List Instr) : Prop := ∃ more, Sends b t u (ms ++ more)

/-- A list of pressure events alone (R38). -/
def PressureEvents (ms : List Instr) : Prop :=
  ∀ m ∈ ms, ∃ v, m = poolEvent .pressureOn v ∨ m = poolEvent .pressureOff v

/-- The older message `y` keeps `x` back: one sender to one receiver, and not the Time Base's (R176, R187); or the commit of an
entry ahead of the OK that its sender answers the APPEND with (R78). -/
def HeldBackBy (x y : Wire) : Prop :=
  y.src = x.src ∧ x.src ≠ .core .tb ∧
    (dstOf y.msg = dstOf x.msg ∨
      ((∃ i q stamp, y.msg = .commit i q stamp) ∧ ∃ p k st d q stamp, x.msg = .answerArrival p k ⟨st, d, .append q stamp⟩))

/-! ### Tunes that wait -/

/-- The waiting tunes that wait for this claim alone, and are taken at its answer (R13). -/
def freedTunes (c : ClaimKind) (l : List WaitingTune) : List WaitingTune := l.filter fun x => x.awaits.all (· == c)

/-- The waiting tunes that wait for another claim too, and for that alone after the answer to this one (R13). -/
def heldTunes (c : ClaimKind) (l : List WaitingTune) : List WaitingTune :=
  (l.filter fun x => !x.awaits.all (· == c)).map fun x => { x with awaits := x.awaits.filter (· ≠ c) }

/-! ### The pool's accounting -/

/-- PP takes the pool `p`, and the answers go out. Where shared_free is no longer what it was, the lowest shared_free seen
follows and pressure is evaluated first, its event ahead of the answers (R28, R38). -/
def State.accounted (t : State) (p : PP) (answers : List Instr) : State :=
  let w := if p.sharedFree = t.pp.sharedFree then Work.start p
    else PP.evaluate (Work.start { p with counters :=
      { p.counters with lowestShared := min p.counters.lowestShared p.sharedFree } })
  { t with pp := w.st }.post (.core .pp) (w.out ++ answers)

/-! ### Frames: a step of one block leaves everything else as it was -/

/-- Nothing but SD and the messages on their way differs. -/
def OnlySd (t u : State) : Prop := u = { t with sd := u.sd, wires := u.wires }

/-- Nothing but PP and the messages on their way differs. -/
def OnlyPp (t u : State) : Prop := u = { t with pp := u.pp, wires := u.wires }

/-- Nothing but MU and the messages on their way differs. -/
def OnlyMu (t u : State) : Prop := u = { t with mu := u.mu, wires := u.wires }

/-- Nothing but AE and the messages on their way differs. -/
def OnlyAe (t u : State) : Prop := u = { t with ae := u.ae, wires := u.wires }

/-- Nothing but DE and the messages on their way differs. -/
def OnlyDe (t u : State) : Prop := u = { t with de := u.de, wires := u.wires }

/-- Nothing but RU and the messages on their way differs. -/
def OnlyRu (t u : State) : Prop := u = { t with ru := u.ru, wires := u.wires }

/-- Nothing but NU and the messages on their way differs. -/
def OnlyNu (t u : State) : Prop := u = { t with nu := u.nu, wires := u.wires }

/-- Nothing but the Port Engine of one port and the messages on their way differs. -/
def OnlyPe (p : Port) (t u : State) : Prop := u = { t with pe := t.pe.set p u.pe[p], wires := u.wires }

/-- The APPEND in progress stands at the head of the append queue, in one state and for one stream (R69). -/
def HeadIs (t : State) (st : JobState) (i : StreamId) (j : Job) (rest : List Job) : Prop :=
  t.ae.queue = j :: rest ∧ j.state = st ∧ j.stream = i

/-- The append queue when its head has left: the next APPEND enters PLACING where it is admitted (R69). -/
def nextPlacing : List Job → List Job
  | [] => []
  | j :: rest => (if j.state = .waiting ∧ j.admitted = true then { j with state := .placing } else j) :: rest

/-- The place question of an APPEND that enters PLACING as the new head (R69, R71). -/
def nextQuestion : List Job → List Instr
  | [] => []
  | j :: _ => if j.state = .waiting ∧ j.admitted = true then [.placeQuestion j.stream] else []

/-- The APPEND in progress is answered and leaves (R69, R81): `first` goes out with the answer, then the seal answer that is owed,
then the append leave; the next APPEND in line asks for its place. -/
def AppendLeaves (t u : State) (i : StreamId) (rest : List Job) (first : List Instr) : Prop :=
  OnlyAe t u ∧ u.ae.queue = nextPlacing rest ∧ u.ae.sealOwed = t.ae.sealOwed.set i false ∧
    Sends (.core .ae) t u (first ++ (if t.ae.sealOwed[i] then [.sealAnswer i] else []) ++ [.appendLeave i] ++ nextQuestion rest)

/-! ### Cursors and delivery -/

/-- The in-flight entry is exhausted at its cursor (R124). -/
def Exhausted (c : Cursor) (e : InFlight) : Prop := c.retryLimit ≠ 0 ∧ e.due = true ∧ e.tries = c.retryLimit + 1

/-- The entry is the one that an expiry names, its deadline still running (R123). -/
def NamedBy (q : Seq) (tries : Nat) (e : InFlight) : Prop := e.seq = q ∧ e.tries = tries ∧ e.due = false

/-- An in-flight list after an expiry: the entry that it names is due (R123). -/
def markedDue (q : Seq) (tries : Nat) (l : List InFlight) : List InFlight :=
  l.map fun e => if e.seq = q ∧ e.tries = tries ∧ e.due = false then { e with due := true } else e

/-- A cursor stalled, or whose stall has been found at the return to ACTIVE (R124). -/
def stalledCursor (x : Cursor) : Cursor := { x with state := .stalled, list := [], nextSeq := x.ackSeq + 1, hint := none }

/-- An event of class CURSOR goes to the owner of a cursor whose session has not ended (R103). -/
def toOwner (x : Cursor) (e : SessId → Event) : List Instr :=
  match x.owner with
  | some o => if x.endDue then [] else [.noticeEvent (e o)]
  | none => []

/-- The record is FREE and nothing reserves it: no open, no search that MU has not answered, no read that has not completed
(R85). -/
def Unreserved (d : DE) (c : CursorId) : Prop :=
  d.cursors[c].state = .free ∧ d.cursors[c].work = .none ∧ d.cursors[c].searchOut = false ∧
    ∀ b : BufId, (d.buffer b).cursor = c →
      (d.buffer b).state ≠ .reading ∧ ((d.buffer b).state = .locating → (d.buffer b).locate ≠ .sequence)

/-- The cursor counts for the session: owned in one of five states, or with its open's bind or the session's rebind out (R86). -/
abbrev CountsFor (sess : SessId) (c : Cursor) : Prop :=
  (c.owner = some sess ∧ (c.state = .active ∨ c.state = .paused ∨ c.state = .seeking ∨ c.state = .stalled ∨
    c.state = .orphaned ∨ (c.state = .free ∧ c.work = .bind))) ∨
  (c.state = .detached ∧ c.work = .rebind ∧ c.req.map Req.sess = some sess)

/-- The cursor may be chosen for the port: eligible, of an owner there, served by no buffer and not deferred (R110, R111,
R112). A buffer that has been abandoned serves its cursor until it is IDLE (log entry 27: the model's reading, DEDUCED). -/
def MayBeChosen (d : DE) (p : Port) (c : CursorId) : Prop :=
  (∃ o, d.cursors[c].owner = some o ∧ o.port = p) ∧ d.cursors[c].state = .active ∧
    (d.cursors[c].list.length < d.cursors[c].window ∨ ∃ e ∈ d.cursors[c].list, e.due = true) ∧
    (∃ i, d.cursors[c].stream = some i ∧
      ((∃ e ∈ d.cursors[c].list, e.due = true) ∨ d.cursors[c].nextSeq ≤ d.views[i].committed)) ∧
    d.deferred[c] = false ∧ ∀ b : BufId, (d.buffer b).cursor = c → (d.buffer b).state = .idle

/-- The delivery `x` that a choice of cursor `c`, its record `k` on stream `i`, begins at buffer `b`, and the message that it sends.
A redelivery of the first due entry of the list has its page from the hint where the hint is on that page, else by a lookup of
the page. Without a due entry it is a first delivery of next_seq: at the hint, by a crossing where fewer than 16 bytes remain
behind the hint, or by a lookup by sequence (R112, R113). -/
def BeginsDelivery (b : BufId) (c : CursorId) (i : StreamId) (k : Cursor) (x : Buffer) (m : Instr) : Prop :=
  (∃ before e after, k.list = before ++ e :: after ∧ (∀ y ∈ before, y.due = false) ∧ e.due = true ∧
    ((∃ h, k.hint = some h ∧ h.lpn = e.lpn ∧ m = .holdRequest i h.ppn b ∧ x = { idleBuffer with
        state := .holding, cursor := c, owner := k.owner, redelivery := true, seq := e.seq, lpn := e.lpn, ppn := h.ppn
        offset := e.offset }) ∨
      ((∀ h, k.hint = some h → h.lpn ≠ e.lpn) ∧ m = .lookupByLpn i e.lpn (.delivery b) ∧ x = { idleBuffer with
        state := .locating, locate := .page, cursor := c, owner := k.owner, redelivery := true, seq := e.seq
        lpn := e.lpn, offset := e.offset }))) ∨
  ((∀ e ∈ k.list, e.due = false) ∧
    ((∃ h, k.hint = some h ∧ h.offset ≤ 2032 ∧ m = .holdRequest i h.ppn b ∧ x = { idleBuffer with
        state := .holding, cursor := c, owner := k.owner, seq := k.nextSeq, lpn := h.lpn, ppn := h.ppn
        offset := h.offset }) ∨
      (∃ h, k.hint = some h ∧ 2032 < h.offset ∧ m = .lookupByLpn i (h.lpn + 1) (.delivery b) ∧ x = { idleBuffer with
        state := .locating, locate := .crossing, cursor := c, owner := k.owner, seq := k.nextSeq }) ∨
      (k.hint = none ∧ m = .lookupBySequence i k.nextSeq (.delivery b) ∧ x = { idleBuffer with
        state := .locating, locate := .sequence, cursor := c, owner := k.owner, seq := k.nextSeq })))

/-- A cursor that leaves its stream: the unbind, and the floor trigger of a retaining one (R17, R100). -/
def leaveMessages (x : Cursor) : List Instr :=
  match x.stream with
  | some i => .unbind i :: if x.retaining then [.evaluationTrigger i] else []
  | none => []

/-- What the end of a session sends for one cursor: the messages of one that is owned, without work, not durable and in a bound
state (R101, R102). -/
def sessionEndMessages (sess : SessId) (x : Cursor) : List Instr :=
  if x.owner = some sess ∧ x.work = .none ∧ x.durable = false ∧
      (x.state = .active ∨ x.state = .paused ∨ x.state = .stalled ∨ x.state = .seeking) then leaveMessages x else []

/-- What a delete order sends for one cursor of its stream: GONE to the open, seek or attach in progress, and the unbind
(R105). -/
def deleteMessages (i : StreamId) (x : Cursor) : List Instr :=
  (match x.req with
    | some r =>
      if x.state = .seeking ∨ (x.state = .detached ∧ x.work = .rebind) then
        [Instr.answerArrival r.sess.port r.slot ⟨.gone, 0, .empty⟩]
      else []
    | none => []) ++ [.unbind i]

/-- A delivery buffer whose delivery has ended: IDLE, or already serving the next one that was chosen (R110, R112). -/
def AfterDelivery (x : Buffer) : Prop :=
  (x.state = .idle ∨ x.state = .locating ∨ x.state = .holding) ∧ x.hold = false ∧ x.abandoned = false

/-- A buffer drops the hold that it has (R114). -/
def droppedHold (x : Buffer) : List Instr := if x.hold then [.holdDrop x.ppn] else []

/-- The header is valid at the offset (R115). -/
def ValidAt (offset : Nat) (h : Header) : Prop :=
  h.kind = .pad ∨ (h.kind = .entry ∧ 1 ≤ h.length ∧ h.length ≤ 1536 ∧ offset + storedSize h.length ≤ 2048)

/-- The walk of a first delivery goes on to the next page: a PAD, or an entry below the target behind which fewer than 16 bytes
remain (R115). -/
def LeavesPage (x : Buffer) (h : Header) : Prop :=
  ValidAt x.offset h ∧ x.redelivery = false ∧
    (h.kind = .pad ∨ (h.seq < x.seq ∧ 2032 < x.offset + storedSize h.length))

/-- The header is not what the walk requires: the entry is unreachable (R115, R116). -/
def Unreachable (x : Buffer) (h : Header) : Prop :=
  ¬ ValidAt x.offset h ∨ (h.kind = .entry ∧ x.seq < h.seq) ∨
    (x.redelivery = true ∧ (h.kind = .pad ∨ (h.kind = .entry ∧ h.seq < x.seq)))

/-- A DELIVER that has been sent is recorded against its cursor (R120, R121). -/
def Recorded (c : Cursor) (x : Buffer) : Prop :=
  x.abandoned = false ∧ c.owner = x.owner ∧ (c.state = .active ∨ c.state = .paused ∨ c.state = .seeking) ∧
    if x.redelivery then ∃ e ∈ c.list, e.seq = x.seq else c.nextSeq = x.seq

/-- A first DELIVER that raced its cursor's stall (R120). -/
def RacedTheStall (c : Cursor) (x : Buffer) : Prop :=
  x.abandoned = false ∧ x.redelivery = false ∧ c.state = .stalled ∧ c.ackSeq < x.seq

/-- A cursor after a recorded DELIVER, the damaged count apart (R120, R121). -/
def afterSend (tick : Tick) (x : Buffer) (c : Cursor) : Cursor :=
  if x.redelivery then
    { c with
      list := c.list.map fun e => if e.seq = x.seq then
        { e with due := false, tries := min 16 (e.tries + 1), deadline := tick + BitVec.ofNat 32 c.ackTimeout } else e
      counters := { c.counters with redeliveries := min 4294967295 (c.counters.redeliveries + 1) } }
  else
    { c with
      list := c.list ++ [{ seq := x.seq, lpn := x.lpn, offset := x.offset, tries := 1, due := false,
                           deadline := tick + BitVec.ofNat 32 c.ackTimeout }]
      nextSeq := c.nextSeq + 1, deliveredTop := x.seq
      hint := x.size.map fun n => ⟨x.lpn, x.ppn, x.offset + n, c.nextSeq + 1⟩
      counters := { c.counters with delivered := min 4294967295 (c.counters.delivered + 1) } }

/-- The cursor counts one more damaged delivery (R121). -/
def oneDamaged (c : Cursor) : Cursor :=
  { c with counters := { c.counters with damaged := min 4294967295 (c.counters.damaged + 1) } }

/-- A cursor of the stream that an advance order with first kept sequence `m` moves (R127). -/
def MovedBy (i : StreamId) (m : Seq) (x : Cursor) : Prop := x.boundTo i = true ∧ x.ackSeq < m - 1

/-- A cursor that an advance order has moved; its gap is kept where there is no owner to report it to (R127, R128). -/
def movedCursor (m : Seq) (x : Cursor) : Cursor :=
  { x with
    ackSeq := m - 1, deliveredTop := max x.deliveredTop (m - 1), nextSeq := max x.nextSeq m
    hint := if x.nextSeq < m then none else x.hint, list := x.list.filter fun e => m ≤ e.seq
    counters := { x.counters with skipped := min 4294967295 (x.counters.skipped + (m - 1 - x.ackSeq)) }
    minStart := if x.state = .seeking then max x.minStart m else x.minStart
    pendingGap := if x.owner = none ∨ x.endDue = true then min 4294967295 (x.pendingGap + (m - 1 - x.ackSeq))
                  else x.pendingGap }

/-- What an advance order raises for one cursor of the stream: its gap, and, where that has brought it to the end of a settled
stream, that it is drained (R126, R128). -/
def advanceNotices (t : State) (i : StreamId) (m : Seq) (c : CursorId) : List Instr :=
  let x := t.de.cursors[c]
  if x.boundTo i && x.ackSeq < m - 1 then
    toOwner x (fun o => ⟨.cursorGap, some i, some c, some (m - 1 - x.ackSeq), some o⟩) ++
      if t.de.views[i].settled && t.de.views[i].committed = m - 1 then
        toOwner x (fun o => ⟨.cursorDrained, none, some c, none, some o⟩)
      else []
  else []

/-! ### Retention -/

/-- The head page is closed for release, holds entries, and leaves the pages that the stream keeps (R136, R137). -/
def MayBeReleased (v : ViewInfo) (p : HeadPage) : Prop :=
  (p.head < p.tail ∨ p.record.closed = true ∨ (v.state = .sealed ∧ v.settled = true)) ∧ p.record.firstSeq ≠ 0 ∧
    v.keep ≤ p.tail - p.head

/-- The stream has an age limit, and the head page's newest entry has passed it (R137). -/
def PastItsAge (clock : Clock) (v : ViewInfo) (p : HeadPage) : Prop :=
  v.ageLimit ≠ 0 ∧ (clock - p.record.newestStamp).toNat < 2 ^ 47 ∧
    v.ageLimit * 1000000 < (clock - p.record.newestStamp).toNat

/-- The bound that a NORMAL release stays below: the floor of the cursors, or all that is committed (R136). -/
def normalBound (v : ViewInfo) (floor : Option Seq) : Seq := floor.getD (v.committed + 1)

/-- What RU sends once a stream's work has ended: the teardown's head read, else a wanted recycle's, else, where it is to
evaluate again, the three questions (R133, R143). -/
def nextOfRelease (i : StreamId) (r : Release) (again : Bool) : List Instr :=
  if r.teardown then [.headRead i .teardown]
  else if r.recycleWanted then [.headRead i .recycle]
  else if again then [.viewQuestion i, .headRead i .evaluation, .floorQuestion i]
  else []

/-! ### Notices, frames and sessions -/

/-- A notice queue after a copy has come to it (R154). -/
def AfterCopy (n : Notice) (q q' : NuPort) : Prop :=
  (q.queue.length ≤ 15 → q' = { q with queue := q.queue ++ [{ n with lost := q.lost }], lost := 0 }) ∧
  (16 ≤ q.queue.length → q' = { q with lost := min 65535 (q.lost + 1) })

/-- A notice queue after an always-sent copy has come to it (R155). -/
def AfterAlwaysCopy (n : Notice) (q q' : NuPort) : Prop :=
  (q.queue.length ≤ 15 → q' = { q with queue := q.queue ++ [{ n with lost := q.lost }], lost := 0 }) ∧
  ∀ x before after, 16 ≤ q.queue.length → q.queue = before ++ x :: after → x.kind ≠ .roleChanged → x.kind ≠ .restart →
    (∀ y ∈ after, y.kind = .roleChanged ∨ y.kind = .restart) →
    q' = { q with queue := before ++ after ++ [{ n with lost := min 65535 (q.lost + (1 + x.lost)) }], lost := 0 }

/-- The gaps among queued notices, on their way back to DE (R158). -/
def returnedGaps (sess : SessId) (queue : List Notice) : List Instr :=
  queue.filterMap fun n =>
    if n.kind = .cursorGap then n.cursor.map fun c => .returnedCursorGap c (n.value.getD 0) sess else none

/-- The port has this session (R164). -/
def SessionOpen (t : State) (sess : SessId) : Prop :=
  t.pe[sess.port].sess.isOpen = true ∧ t.pe[sess.port].sess.number = sess.number

/-- The session is open at NU (R153). -/
def OpenAtNu (t : State) (sess : SessId) : Prop :=
  t.nu.ports[sess.port].isOpen = true ∧ t.nu.ports[sess.port].number = sess.number

/-- A Port Engine with a request's slot answered, its REPLY queued and the counter of refusals raised (R161, R188). -/
def answeredFrom (e : PE) (k : SlotId) (a : Answer) : PE :=
  { e with
    slots := e.slots.set k { e.slots[k] with state := .answered }
    replies := e.replies ++ [⟨.slot k, e.slots[k].tag, replyBody e.slots[k].kind a⟩]
    counters := { e.counters with requestsRefused :=
      if a.status = Status.ok then e.counters.requestsRefused else min 4294967295 (e.counters.requestsRefused + 1) } }

/-- A Port Engine after an answer for a slot (R188): a HELD slot is ANSWERED where its REPLY still has a partner, and freed where
it has none; an answer for another slot is counted alone. -/
def afterAnswer (p : Port) (k : SlotId) (a : Answer) (e : PE) : PE :=
  if e.slots[k].state ≠ .held then { e with counters := (answeredFrom e k a).counters }
  else if e.slots[k].isVoid = false ∧
      (e.slots[k].owner = none ∨ (e.slots[k].owner = some ⟨p, e.sess.number⟩ ∧ e.sess.isOpen = true)) then
    answeredFrom e k a
  else { e with slots := e.slots.set k ⟨.free, 0, 0, [], none, false⟩, counters := (answeredFrom e k a).counters }

/-- What a Port Engine's own rules answer a request with in RESTARTING: a HELLO by R166, another request NO_SESSION, an unknown
kind UNKNOWN_KIND (R165, R193). -/
def restartingAnswer (x : Slot) : Answer :=
  if x.kind = 0x01 then
    match helloBody x.body with
    | .error d => ⟨.malformed, d, .hello 0 .client .restarting 0⟩
    | .ok _ => ⟨.starting, 0, .hello 0 .client .restarting 0⟩
  else if x.kind.toNat ∈ [0x02, 0x03, 0x08, 0x09, 0x0A, 0x0B, 0x0C, 0x10, 0x11, 0x12, 0x13, 0x14, 0x15, 0x16, 0x17, 0x18, 0x20,
      0x28, 0x29, 0x2A, 0x2B, 0x2C, 0x2D, 0x2E, 0x30] then ⟨.noSession, 0, .empty⟩
  else ⟨.unknownKind, 0, .empty⟩

/-- A Port Engine that has taken its answers to itself, `own`, and has answered a claim's HELLO and every slot still HELD, in
RESTARTING (R193, log entry 46). -/
def restartAnswered (p : Port) (own : List (SlotId × Answer)) (e : PE) : PE :=
  let e := own.foldl (fun e a => afterAnswer p a.1 a.2 e) e
  let e := match e.sess.claim with
    | some c => afterAnswer p c.slot ⟨.starting, 0, .hello 0 .client .restarting 0⟩ e
    | none => e
  (List.finRange 8).foldl (fun e k =>
    if e.slots[k].state = .held then afterAnswer p k (restartingAnswer e.slots[k]) e else e) e

/-- A Port Engine after a good frame, ahead of slot allotment: the framer hunts, the frame is counted, and the keepalive
deadline of a session without an end pending is armed again (R170, R181). -/
def afterGoodFrame (tick : Tick) (e : PE) : PE :=
  { e with
    framer := ⟨.hunting, [], 0⟩
    counters := { e.counters with framesReceived := min 4294967295 (e.counters.framesReceived + 1) }
    sess := if e.sess.isOpen = true ∧ e.sess.endPending = .none then
      { e.sess with deadline := some (tick + BitVec.ofNat 32 (2 * e.sess.keepalive)) } else e.sess }

/-- The slot that a good frame has taken (R185). -/
def heldSlot (kind tag : Byte) (body : List Byte) : Slot := ⟨.held, tag, kind, body, none, false⟩

/-- What a REPLY, DELIVER or NOTICE on the line still has reported of it when its session or its link ends (R172, R178). -/
def droppedReport : Option Tx → List Instr
  | some ⟨.deliver b, _, false⟩ => [.deliverDropped b]
  | some ⟨.notice sess n, _, false⟩ => [.noticeSentReport sess n false]
  | _ => []

/-- The open session of a port ends (R172): `e` is the Port Engine just before, `first` what it sends ahead. The record keeps
its number alone; the holder, NU and DE are told; queued REPLYs of the session free their slots; grant, link, framer, counters
and the other slots stay. -/
def SessionEnds (p : Port) (t : State) (e : PE) (first : List Instr) (u : State) : Prop :=
  OnlyPe p t u ∧
  u.pe[p].sess = ⟨false, .none, .client, 0, none, ⟨false, false, false⟩, e.sess.number, none⟩ ∧
  u.pe[p].grant = e.grant ∧ u.pe[p].link = e.link ∧ u.pe[p].framer = e.framer ∧ u.pe[p].counters = e.counters ∧
  u.pe[p].reserve = e.reserve ∧ u.pe[p].dev = e.dev ∧
  (∀ k : SlotId, ((∃ r ∈ e.replies, r.source = .slot k) ∧ e.slots[k].owner = some ⟨p, e.sess.number⟩ →
      u.pe[p].slots[k].state = .free) ∧
    (e.slots[k].owner ≠ some ⟨p, e.sess.number⟩ ∨ (∀ r ∈ e.replies, r.source ≠ .slot k) →
      u.pe[p].slots[k] = e.slots[k])) ∧
  SendsFirst (.pe p) t u (first ++ (if e.sess.role = .admin then [.adminRelease p] else []) ++
    [.sessionEndReportAtNu ⟨p, e.sess.number⟩, .sessionEndAtDe ⟨p, e.sess.number⟩] ++ droppedReport e.tx)

/-! ### Invariants -/

/-- The DRAM's listed bytes stand in their canonical form. -/
def State.memoryOk (s : State) : Prop := s.mp.dram.wf = true

/-- Every pool page is FREE, or not FREE and recorded, exactly once; before the build there is neither (R25, R26, R27). -/
def State.pagesOk (s : State) : Prop :=
  (s.pp.free = [] ∧ s.pp.pages = []) ∨
    (freeList s.pp.free ++ s.pp.pages.map PageRec.ppn).Perm (List.range' Config.firstPool s.poolSize)

/-- The free list is long enough for all unused reservations: U is never above its length (R28). -/
def State.reservedOk (s : State) : Prop := s.pp.unused ≤ (freeList s.pp.free).length

/-- The pressure marks are in order and within the pool size (R38). -/
def State.marksOk (s : State) : Prop := s.pp.lowMark < s.pp.clearMark ∧ s.pp.clearMark ≤ s.poolSize

/-- The valid entries of the map cache stand in different physical entries and hold different keys (R50). -/
def State.cacheOk (s : State) : Prop :=
  (s.mu.cache.map CacheLine.num).Nodup ∧ (s.mu.cache.map fun l => (l.stream, l.lpn)).Nodup

/-- The append queue holds at most 16, the lookup queue at most 8 (R53, R68). -/
def State.queuesOk (s : State) : Prop := s.ae.queue.length ≤ 16 ∧ s.mu.queue.length ≤ 8

/-- The administrator's port always has its grant (R164, R174). -/
def State.grantOk (s : State) : Prop := s.pe[0].grant = true

/-- No lost count exceeds 65,535 (R154). -/
def State.lostOk (s : State) : Prop := ∀ p : Port, s.nu.ports[p].lost ≤ 65535

/-- Less than a millisecond has passed since the tick last rose (R176). -/
def State.tickOk (s : State) : Prop := s.tb.micros < 1000

end Sys2Proof.Machine
end

