-- ==== Sys2Proof/WellFormed.lean ====
section
/-! DEFINITION. Well-formed commands: the operands lie in the ranges the spec gives them. -/

namespace Sys2Proof

/-- A value of 32 bits: a sequence, an LPN, a count (R5, R210). -/
def fits32 (v : Nat) : Bool := v < 4294967296

/-- A value of 16 bits. -/
def fits16 (v : Nat) : Bool := v < 65536

/-- A physical page number (R24). -/
def ppnOk (p : Ppn) : Bool := p < 65536

/-- A map record's fields are in range (R44). -/
def MapRec.ok (r : MapRec) : Bool := ppnOk r.ppn && fits32 r.firstSeq && fits32 r.lastSeq

/-- A range answer: head and tail present together (R5), in range. -/
def RangeInfo.ok (i : RangeInfo) : Bool :=
  i.head.isSome == i.tail.isSome && i.head.all fits32 && i.tail.all fits32 && i.tailRec.all MapRec.ok

/-- A place answer is in range (R71). -/
def PlaceInfo.ok (i : PlaceInfo) : Bool := fits32 i.committed && i.tail.all fits32 && i.tailRec.all MapRec.ok

/-- A refusal answer: head and tail present together, in range (R74). -/
def RefusalInfo.ok (i : RefusalInfo) : Bool :=
  i.head.isSome == i.tail.isSome && i.head.all fits32 && i.tail.all fits32

/-- A head read's answer: head not above tail, record in range (R134). -/
def HeadAnswer.ok (h : HeadAnswer) : Bool :=
  h.page.all fun p => p.head ≤ p.tail && fits32 p.tail && p.record.ok

/-- A map answer is in range (R48). -/
def MapAnswer.ok : MapAnswer → Bool
  | .found lpn r => fits32 lpn && r.ok
  | _ => true

/-- An evaluation's answer is in range (R133). -/
def EvalPart.ok : EvalPart → Bool
  | .view v => v.keep ≤ 1024 && v.ageLimit ≤ 86400 && fits32 v.committed
  | .head h => h.ok
  | .floor f => f.all fits32

/-- The optional fields of an event are those its kind has (R150), and it is addressed where its class says so (R151). -/
def Event.ok (e : Event) : Bool :=
  e.value.all fits32 &&
  match e.kind with
  | .pressureOn | .pressureOff => e.stream.isNone && e.cursor.isNone && e.value.isSome && e.addressee.isNone
  | .streamFull | .streamDeleted => e.stream.isSome && e.cursor.isNone && e.value.isNone && e.addressee.isNone
  | .streamSealed => e.stream.isSome && e.cursor.isNone && e.value.any (· ≤ 1) && e.addressee.isNone
  | .cursorGap => e.stream.isSome && e.cursor.isSome && e.value.isSome && e.addressee.isSome
  | .cursorStalled | .entryDamaged => e.stream.isNone && e.cursor.isSome && e.value.isSome && e.addressee.isSome
  | .cursorDrained => e.stream.isNone && e.cursor.isSome && e.value.isNone && e.addressee.isSome
  | .roleChanged => e.stream.isNone && e.cursor.isNone && e.value == some 0 && e.addressee.isSome
  | .restart => e.stream.isNone && e.cursor.isNone && e.value.isNone && e.addressee.isSome

/-- A Memory Port operation lies inside one page; a write carries as many bytes as it is long, and a read none (R194, R195). -/
def MpOp.ok (o : MpOp) : Bool :=
  ppnOk o.page && o.offset + o.len ≤ 2048 &&
    match o.ref with
    | .entryWrite | .padWrite | .mapWrite _ _ _ | .slotClear _ _ => o.data.length == o.len
    | .headerRead _ | .payloadRead _ | .walkRead _ | .headRead _ _ _ _ _ => o.data.isEmpty

/-- A reservation and a ceiling as STREAM_CREATE and STREAM_TUNE let them pass (R11). -/
def quotaOk (reservation ceiling : Nat) : Bool := 1 ≤ ceiling && ceiling ≤ 1024 && reservation ≤ ceiling

/-- The ids rise strictly. -/
def rise : List StreamId → Bool
  | a :: b :: rest => a < b && rise (b :: rest)
  | _ => true

/-- The operands of a command are in range. -/
def wellFormed : Instr → Bool
  | .answerArrival _ _ a => a.detail < 256
  | .heldAnswerAtSd _ _ held | .teardownHeldAnswer _ held => held ≤ 1024
  | .pageOpen _ p | .holdRequest _ p _ | .holdDrop p | .handOver _ p _ | .allocationGrant _ p | .recycledPage _ p
  | .pageReturnedReport _ p => ppnOk p
  | .commit _ q _ => 1 ≤ q && q ≤ lastSeq
  | .releaseMarkSet _ m | .headRaise _ m | .advanceOrder _ m _ => 1 ≤ m && fits32 m
  | .createClaim _ r c | .tuneClaim _ r c => quotaOk r c
  | .deleteClaim _ c => quotaOk 0 c
  | .mapWrite _ lpn r | .mapWriteDone _ lpn r => fits32 lpn && r.ok && r.closed
  | .slotClear _ lpn | .slotClearDone _ lpn | .lookupByLpn _ lpn _ | .clearDoneReport _ lpn => fits32 lpn
  | .rangeAnswer _ _ i => i.ok
  | .walkDone _ bytes | .headReadDone _ _ _ _ _ bytes | .headerReadDone _ bytes => bytes.length == 16
  | .payloadReadDone _ bytes => 8 ≤ bytes.length && bytes.length ≤ 1536 && bytes.length % 8 == 0
  | .lookupBySequence _ q _ => 1 ≤ q && fits32 q
  | .placeAnswer _ i => i.ok
  | .refusalAnswer _ i => i.ok
  | .bindAnswer _ (.granted h c) | .rebindAnswer _ (.granted h c) | .positionAnswer _ h c => 1 ≤ h && fits32 h && fits32 c
  | .searchAnswer _ a | .lookupAnswer _ a => a.ok
  | .commitReport _ q => fits32 q
  | .ackDeadlineExpiry _ q tries => fits32 q && 1 ≤ tries && tries ≤ 16
  | .returnedCursorGap _ gap _ => fits32 gap
  | .evaluationAnswer _ part => part.ok
  | .recycleHeadAnswer _ h | .teardownHeadAnswer _ h => h.ok
  | .scanAnswer ids => rise ids
  | .noticeEvent e => e.ok
  | .noticeSentReport _ n _ => n.lost < 65536
  | .mpOperationIssue op => op.ok
  | _ => true

end Sys2Proof
end

