-- ==== Sys2Proof/Certificates/Slice0/Obligations.lean ====
section
/-! DEFINITION. The statements about the WJ-320 for the provers. -/

open Sys2Proof Sys2Proof.Machine

/-! ### The step and the arrival of commands -/

/-- A step with a command at the front of the queue is that command's effect on the state with the queue's rest. -/
def Obligations.StepRunsTheFrontCommand : Prop :=
  ∀ (c : Instr) (s : State), step { s with pending := c :: s.pending } = exec c s

/-- With no command waiting, the oldest message on its way arrives; with none on its way a microsecond passes, but not while
RESET_N is low (log entries 1 and 2: the model's choice). In a microsecond the clock rises by one modulo 2^48, and the tick,
modulo 2^32, with every thousandth (R176, log entry 30). The gap of a frame in progress is counted, and a frame whose gap has
reached 2 ms is aborted (R182). A new tick sends the keepalive, acknowledgement and age scan deadlines that name it (R123, R145,
R170), none once the Time Base has been abandoned (log entry 29). Nothing else changes. -/
def Obligations.StepWithoutACommand : Prop :=
  ∀ s : State, s.pending = [] →
    (∀ w ws, s.wires = w :: ws → step s = exec w.msg s) ∧
    (s.wires = [] → s.dev.low = true → step s = .next s) ∧
    (s.wires = [] → s.dev.low = false → ∃ (v : State) (due : List Instr),
      v = { s with pe := v.pe, tb := v.tb, wires := due.map fun m => ⟨.core .tb, m⟩ } ∧
      (s.tb.micros ≠ 999 → v.tb = ⟨s.tb.clock + 1, s.tb.tick, s.tb.micros + 1⟩ ∧ due = []) ∧
      (s.tb.micros = 999 → v.tb = ⟨s.tb.clock + 1, s.tb.tick + 1, 0⟩ ∧ (.tb ∈ s.abandoned → due = []) ∧
        (.tb ∉ s.abandoned → ∀ m, m ∈ due ↔
          (∃ p : Port, m = .keepaliveExpiry p v.tb.tick ∧ s.pe[p].sess.deadline = some v.tb.tick) ∨
          (∃ (c : CursorId) (e : InFlight), m = .ackDeadlineExpiry c e.seq e.tries ∧ e ∈ s.de.cursors[c].list ∧
            e.due = false ∧ e.deadline = v.tb.tick) ∨
          (m = .ageScanExpiry v.tb.tick ∧ s.ru.scan = some v.tb.tick))) ∧
      (∀ p : Port,
        (s.pe[p].framer.state ≠ .hunting ∧ s.pe[p].framer.gap < 2000 → v.pe[p] = { s.pe[p] with
          framer := { s.pe[p].framer with gap := s.pe[p].framer.gap + 1 } }) ∧
        (s.pe[p].framer.state = .hunting ∨ 2000 ≤ s.pe[p].framer.gap → v.pe[p] = s.pe[p])) ∧
      step s = .next (((List.finRange 4).filter fun p =>
          s.pe[p].framer.state ≠ .hunting && decide (2000 ≤ s.pe[p].framer.gap)).foldl
        (fun x p => x.onPe p (PE.byteGapAbort p x.tb.tick)) v))

/-- While RESET_N is low no command but the two of RESET_N changes anything (R200; that the part is held with nothing on its way
is the model's choice, log entry 42).

A core block that has taken its abandon order discards every message that arrives at it, but for the abandon order and a
CLOCK_SET at the Time Base: the message leaves the wires and nothing else changes (R206 for messages of core blocks; that those
of the Port Engines are discarded too is the model's choice, log entry 11). -/
def Obligations.HeldAndDiscardedCommands : Prop :=
  (∀ (c : Instr) (s : State), s.dev.low = true → c ≠ .resetNLow → (∀ m, c ≠ .resetNRelease m) → exec c s = .next s) ∧
  (∀ (c : Instr) (b : CoreBlock) (s t : State), dstOf c = .core b → (∀ x, c ≠ .abandonOrder x) → (∀ r, c ≠ .clockSet r) →
    b ∈ t.abandoned → s.receive c = some t → exec c s = .next t)

/-- A message that has an older one of its sender to its receiver ahead of it does not arrive (R187), nor does the OK of an APPEND
with a commit of its sender ahead of it, which SD has applied when the OK is taken (R78; log entry 64); the Time Base's keep no
such order. A message on its way that has none such ahead of it arrives, and leaves the wires (log entry 3: the model's
choice). -/
def Obligations.MessagesArriveInTheOrderSent : Prop :=
  ∀ (m : Instr) (s : State) (x : Wire) (before after : List Wire),
    s.dev.low = false → x.msg = m → s.wires = before ++ x :: after → (∀ y ∈ before ++ after, y.msg ≠ m) →
    ((∃ y ∈ before, HeldBackBy x y) → s.receive m = none) ∧
    ((∀ y ∈ before, ¬ HeldBackBy x y) → s.receive m = some { s with wires := before ++ after })

/-! ### Reset, start-up and restart -/

/-- The machine right after reset, block by block (R3, R27, R63, R83, R108, R131, R159, R164, R176, R184, R189, R196, R200).
MEMSIZE is sampled as 1 (log entry 4: the model's choice). -/
def Obligations.ResetLeavesTheResetValues : Prop :=
  (∀ i : StreamId, State.reset.sd.streams[i].state = .absent ∧ State.reset.sd.streams[i].name = [] ∧
    State.reset.sd.streams[i].headSeq = 1 ∧ State.reset.sd.streams[i].committed = 0 ∧
    State.reset.sd.streams[i].headLpn = none ∧ State.reset.sd.streams[i].tailLpn = none ∧
    State.reset.sd.works[i].create = none) ∧
  (State.reset.pp.free = [] ∧ State.reset.pp.pages = [] ∧ State.reset.pp.lowMark = 1024 ∧
    State.reset.pp.clearMark = 2048 ∧ State.reset.pp.pressure = false ∧
    ∀ i : StreamId, State.reset.pp.quotas[i] = ⟨false, 0, 0, 0⟩) ∧
  (State.reset.mu.cache = [] ∧ State.reset.mu.queue = [] ∧ ∀ k : TrackerId, State.reset.mu.trackers[k] = none) ∧
  (State.reset.ae.queue = [] ∧ ∀ i : StreamId, State.reset.ae.episode[i] = false) ∧
  (∀ c : CursorId, State.reset.de.cursors[c].state = .free ∧ State.reset.de.cursors[c].window = 4 ∧
    State.reset.de.cursors[c].ackTimeout = 500 ∧ State.reset.de.cursors[c].retryLimit = 4) ∧
  (∀ b : BufId, (State.reset.de.buffer b).state = .idle) ∧
  ((∀ i : StreamId, State.reset.ru.recs[i].phase = .idle) ∧ State.reset.ru.scan = none) ∧
  (∀ p : Port, State.reset.nu.ports[p].isOpen = false ∧ State.reset.nu.ports[p].queue = []) ∧
  (∀ p : Port, State.reset.pe[p].link = false ∧ State.reset.pe[p].framer.state = .hunting ∧
    State.reset.pe[p].replies = [] ∧ State.reset.pe[p].reserve = false ∧ State.reset.pe[p].tx = none ∧
    State.reset.pe[p].lastCursor = 63 ∧ State.reset.pe[p].sess.isOpen = false ∧ State.reset.pe[p].sess.number = 0 ∧
    State.reset.pe[p].grant = decide (p = 0) ∧ State.reset.pe[p].dev = .initializing ∧
    ∀ k : SlotId, State.reset.pe[p].slots[k].state = .free) ∧
  (State.reset.mp.calibrated = false ∧ State.reset.mp.appendWrites = [] ∧ State.reset.mp.deliveryReads = [] ∧
    State.reset.mp.maps = [] ∧ State.reset.mp.last = .map ∧ State.reset.mp.busy = none ∧
    State.reset.mp.dram.cells = []) ∧
  State.reset.tb.clock = 0 ∧ State.reset.tb.tick = 0 ∧ State.reset.holder = none ∧
  State.reset.dev.state = .calibrating ∧ State.reset.dev.memsize = true ∧ State.reset.dev.low = false ∧
  State.reset.wires = [] ∧ State.reset.pending = []

/-- RESET_N going low puts every block at its reset values and holds the part, with no message on its way (the model's choice, log
entry 42: R200 gives those values at the release), and changes no byte of DRAM outside the operation it cuts off, of which how
much was written is open (log entries 5 and 6); its rising edge gives the reset values too, samples MEMSIZE and begins calibration
with nothing defined in the DRAM (R200). At both edges MP is UNCALIBRATED with empty queues, no operation and MAP last served, no
block is abandoned and no message is on its way. -/
def Obligations.ResetPinResults : Prop :=
  (∀ s : State, ∃ u, exec .resetNLow s = .next u ∧ u.dev.low = true ∧ u.pending = s.pending ∧ u.wires = [] ∧
    u.sd = SD.init ∧ u.pp = PP.init ∧ u.mu = MU.init ∧ u.ae = AE.init ∧ u.de = DE.init ∧ u.ru = RU.init ∧
    u.nu = NU.init ∧ u.tb = TB.init ∧ u.holder = none ∧ (∀ p : Port, u.pe[p] = PE.init p) ∧
    u.mp = ⟨false, [], [], [], .map, none, u.mp.dram⟩ ∧ u.abandoned = [] ∧
    u.dev = ⟨.calibrating, true, s.dev.memsize, Vector.replicate 4 false, [], false⟩ ∧
    ∀ a, (∀ op, s.mp.busy = some op → writes op.ref = true → reaches s.dev.memsize op = true →
        a < addressOf op ∨ addressOf op + (writtenBytes op).length ≤ a) →
      u.mp.dram.byte a = s.mp.dram.byte a) ∧
  (∀ (memsize : Bool) (s : State), s.dev.low = true → ∃ u, exec (.resetNRelease memsize) s = .next u ∧
    u.dev = ⟨.calibrating, false, memsize, Vector.replicate 4 false, [], false⟩ ∧ u.pending = s.pending ∧
    u.sd = SD.init ∧ u.pp = PP.init ∧ u.mu = MU.init ∧ u.ae = AE.init ∧ u.de = DE.init ∧ u.ru = RU.init ∧
    u.nu = NU.init ∧ u.tb = TB.init ∧ u.holder = none ∧ (∀ p : Port, u.pe[p] = PE.init p) ∧
    u.mp = ⟨false, [], [], [], .map, none, u.mp.dram⟩ ∧ u.abandoned = [] ∧ u.wires = [] ∧ u.mp.dram.cells = [] ∧ u.mp.dram.epoch = s.mp.dram.epoch + 1)

/-- Calibration and the memory check (R201, R202): success leads on to CHECKING and to BUILDING, with pass 2's pattern in both
areas and no other byte changed by the check; failure leads to FAILED, which is reported to the four ports, and a check that
fails leaves the pattern of the pass it failed in. The command carries the outcome (log entry 9), and which comparison fails is
open (log entry 63: the model's choices).

BUILDING (R27, R203): the build lists every pool page in ascending order, with the pool at the values of R27 and no page
recorded; its completion makes the device READY, and the ports, RU and PP are told; RU then registers its age scan, and PP
evaluates pressure at that report and from then on (that it is evaluated at the report is log entry 52 and the R38 row of
spec/95: the model's reading). -/
def Obligations.StartUpResults : Prop :=
  ((∀ s t : State, Takes (.calibrationDone true) s t → t.dev.state = .calibrating →
    ∃ u, exec (.calibrationDone true) s = .next u ∧ u.dev = { t.dev with state := .checking } ∧
      u.mp.calibrated = true ∧ u.wires = t.wires ∧ ∀ a, 512 ≤ a → u.mp.dram.byte a = t.mp.dram.byte a) ∧
  (∀ s t : State, Takes (.calibrationDone false) s t → t.dev.state = .calibrating →
    ∃ u, exec (.calibrationDone false) s = .next u ∧ u.dev = { t.dev with state := .failed } ∧
      u.mp.calibrated = false ∧ Sends .dev t u ((List.finRange 4).map fun p => .stateReport p .failed)) ∧
  (∀ s t : State, Takes (.memoryCheckDone true) s t → t.dev.state = .checking →
    ∃ u, exec (.memoryCheckDone true) s = .next u ∧ u.dev = { t.dev with state := .building } ∧
      Sends .dev t u [.freeListBuild] ∧
      (∀ k < 512, u.mp.dram.byte k = BitVec.ofNat 8 (255 - k % 256) ∧
        u.mp.dram.byte ((Config.pages t.dev.memsize - 1) * 2048 + k) = BitVec.ofNat 8 (255 - k % 256)) ∧
      ∀ a, 512 ≤ a → (∀ k < 512, a ≠ (Config.pages t.dev.memsize - 1) * 2048 + k) →
        u.mp.dram.byte a = t.mp.dram.byte a) ∧
  (∀ s t : State, Takes (.memoryCheckDone false) s t → t.dev.state = .checking →
    ∃ u, exec (.memoryCheckDone false) s = .next u ∧ u.dev = { t.dev with state := .failed } ∧
      Sends .dev t u ((List.finRange 4).map fun p => .stateReport p .failed) ∧
      ((∀ k < 512, u.mp.dram.byte k = BitVec.ofNat 8 (k % 256) ∧
          u.mp.dram.byte ((Config.pages t.dev.memsize - 1) * 2048 + k) = BitVec.ofNat 8 (k % 256)) ∨
        (∀ k < 512, u.mp.dram.byte k = BitVec.ofNat 8 (255 - k % 256) ∧
          u.mp.dram.byte ((Config.pages t.dev.memsize - 1) * 2048 + k) = BitVec.ofNat 8 (255 - k % 256))) ∧
      ∀ a, 512 ≤ a → (∀ k < 512, a ≠ (Config.pages t.dev.memsize - 1) * 2048 + k) →
        u.mp.dram.byte a = t.mp.dram.byte a)) ∧
  ((∀ s t : State, Takes .freeListBuild s t → ∃ u, exec .freeListBuild s = .next u ∧ OnlyPp t u ∧
    Sends (.core .pp) t u [.buildComplete] ∧ freeList u.pp.free = List.range' 256 t.poolSize ∧ u.pp.pages = [] ∧
    u.pp.lowMark = 1024 ∧ u.pp.clearMark = 2048 ∧ u.pp.pressure = false ∧
    (∀ i : StreamId, u.pp.quotas[i] = ⟨false, 0, 0, 0⟩) ∧
    u.pp.counters = ⟨0, 0, 0, 0, 0, t.poolSize⟩) ∧
  (∀ s t : State, Takes .buildComplete s t → t.dev.state = .building →
    exec .buildComplete s = .next ({ t with dev := { t.dev with state := .ready } }.post .dev
      ((List.finRange 4).map (fun p => Instr.stateReport p .ready) ++
        [Instr.readyReportAtRu, Instr.readyReportAtPp]))) ∧
  (∀ s t : State, Takes .readyReportAtRu s t →
    exec .readyReportAtRu s = .next { t with ru := { t.ru with scan := some (t.tb.tick + 1000) } }) ∧
  (∀ s t : State, Takes .readyReportAtPp s t →
    exec .readyReportAtPp s = .next (
      if t.pp.pressure = false ∧ t.pp.sharedFree < t.pp.lowMark then
        { t with pp := { t.pp with ready := true, pressure := true } }.post (.core .pp)
          [poolEvent .pressureOn t.pp.sharedFree]
      else if t.pp.pressure = true ∧ (t.pp.clearMark ≤ t.pp.sharedFree ∨ t.pp.lowMark = 0) then
        { t with pp := { t.pp with ready := true, pressure := false } }.post (.core .pp)
          [poolEvent .pressureOff t.pp.sharedFree]
      else { t with pp := { t.pp with ready := true } })))

/-- DEVICE_RESTART in READY (R205): the state becomes RESTARTING and OK, the teardown orders and the abandon orders go out in
that order; a body that is not empty is answered MALFORMED. In RESTARTING the request is discarded without an answer (whatever
its body: the model's choice, log entry 61). One with an empty body that meets the state machine in INITIALIZING or FAILED
changes nothing: R204 says that none arrives in FAILED, and R205 gives neither state an effect (the model's reading, DEDUCED, log
entry 39).

An abandon order in RESTARTING (R206): the block takes its reset values, is marked abandoned and reports; MP empties its
queues, stops its operation and keeps every byte outside it; the clock and the tick stay. -/
def Obligations.RestartOrderResults : Prop :=
  (∀ (r : Req) (s t : State), Takes (.deviceRestart r) s t →
    (t.body r = [] → t.dev.state = .ready →
      exec (.deviceRestart r) s = .next ({ t with dev := { t.dev with state := .restarting } }.post .dev
        ([Instr.answerArrival r.sess.port r.slot okAnswer] ++ (List.finRange 4).map Instr.teardownOrder ++
          [CoreBlock.sd, .pp, .mu, .ae, .de, .ru, .tb, .mp].map Instr.abandonOrder))) ∧
    (t.dev.state = .restarting → exec (.deviceRestart r) s = .next t) ∧
    (t.body r = [] → t.dev.state ≠ .ready → exec (.deviceRestart r) s = .next t) ∧
    (t.body r ≠ [] → t.dev.state ≠ .restarting → exec (.deviceRestart r) s =
      .next (t.post .dev [.answerArrival r.sess.port r.slot ⟨.malformed, 0, .empty⟩]))) ∧
  (∀ (b : CoreBlock) (s t : State), Takes (.abandonOrder b) s t → t.dev.state = .restarting →
    ∃ u, exec (.abandonOrder b) s = .next u ∧ Sends (.core b) t u [.abandonDoneReport b] ∧
      u.abandoned = b :: t.abandoned ∧ u.tb = t.tb ∧ u.pe = t.pe ∧ u.nu = t.nu ∧ u.dev = t.dev ∧
      u.holder = t.holder ∧ u.pending = t.pending ∧
      u.sd = (if b = .sd then SD.init else t.sd) ∧ u.pp = (if b = .pp then PP.init else t.pp) ∧
      u.mu = (if b = .mu then MU.init else t.mu) ∧ u.ae = (if b = .ae then AE.init else t.ae) ∧
      u.de = (if b = .de then DE.init else t.de) ∧ u.ru = (if b = .ru then RU.init else t.ru) ∧
      (b ≠ .mp → u.mp = t.mp) ∧
      (b = .mp → u.mp.appendWrites = [] ∧ u.mp.deliveryReads = [] ∧ u.mp.maps = [] ∧ u.mp.busy = none ∧
        u.mp.last = .map ∧ u.mp.calibrated = t.mp.calibrated ∧
        ∀ a, (∀ op, t.mp.busy = some op → writes op.ref = true → reaches t.dev.memsize op = true →
            a < addressOf op ∨ addressOf op + (writtenBytes op).length ≤ a) →
          u.mp.dram.byte a = t.mp.dram.byte a))

/-- The reports that end a teardown (R207, R208): each is noted while others are missing; the last of them returns the session
records, grants and admin holder to their reset values, leaves the links, slots, reply queues, port counters, clock, tick and
DRAM as they are, and orders the build. The teardown is done when each port has settled, each core block is done, and NU is back
at its reset values: none of its sessions is open or on its way, and no report of its return is still to arrive (log entry 36:
the model's reading). -/
def Obligations.TeardownReportResults : Prop :=
  (∀ (c : Instr) (d : Device) (s t : State), Takes c s t → t.dev.state = .restarting →
    ((∃ b, c = .abandonDoneReport b ∧ d = { t.dev with abandonDone := b :: t.dev.abandonDone.erase b }) ∨
      (∃ p : Port, c = .portSettledReport p ∧ d = { t.dev with settled := t.dev.settled.set p true }) ∨
      (c = .nuResetReport ∧ d = { t.dev with nuReset := true })) →
    ({ t with dev := d }.teardownDone = false → exec c s = .next { t with dev := d }) ∧
    ({ t with dev := d }.teardownDone = true → ∃ u, exec c s = .next u ∧ u.dev.state = .building ∧
      u.dev.memsize = t.dev.memsize ∧ u.holder = none ∧ u.abandoned = [] ∧ u.nu = NU.init ∧ u.mp = t.mp ∧
      u.tb = t.tb ∧ (∃ kept, kept.Sublist t.wires ∧ u.wires = kept ++
        ((List.finRange 4).map (fun p => Instr.stateReport p .initializing) ++ [Instr.freeListBuild]).map fun m => ⟨.dev, m⟩) ∧
      ∀ p : Port, u.pe[p] =
        { t.pe[p] with sess := ⟨false, .none, .client, 0, none, ⟨false, false, false⟩, 0, none⟩, grant := decide (p = 0) })) ∧
  (∀ t : State, t.teardownDone = true ↔ t.dev.state = .restarting ∧ (∀ p : Port, t.dev.settled[p] = true) ∧
    (∀ b : CoreBlock, b ∈ t.dev.abandonDone) ∧ (∀ p : Port, t.nu.ports[p].isOpen = false) ∧
    (∀ w ∈ t.wires, ∀ sess mask, w.msg ≠ .sessionOpenReport sess mask) ∧
    (t.dev.nuReset = true ∨ ∀ w ∈ t.wires, w.msg ≠ .nuResetReport))

/-! ### The Stream Directory -/

/-- STREAM_CREATE and STREAM_TUNE, check by check (R1, R4, R11, R13). The resulting values are checked in the order policy, ceiling,
reservation, keep, age_limit, and the first failing field is named. A create with a name that is not 1 to 24 bytes without 00h is
answered OUT_OF_RANGE, with a name in use or set aside STREAM_EXISTS, and with no descriptor left NO_ROOM; one that passes sets
name and values aside with the lowest free id and claims the quota of PP. A tune is answered OUT_OF_RANGE for its id, NO_STREAM or
WRONG_STATE by the state, or OUT_OF_RANGE by field; one that passes claims the quota; one that meets a claim outstanding waits
in its slot for each that is (for an outstanding create claim too, where R11 read alone would answer NO_STREAM, and for both of
two: the model's reading, log entries 13 and 65). -/
def Obligations.StreamCreateAndTuneResults : Prop :=
  (∀ (n pol res ceil keep age : Nat) (cur : QuotaValues) (f : QuotaFields), pol = f.policy.getD (policyCode cur.policy) →
    res = f.reservation.getD cur.reservation → ceil = f.ceiling.getD cur.ceiling → keep = f.keep.getD cur.keep →
    age = f.ageLimit.getD cur.ageLimit →
    (2 ≤ pol → checkQuota n cur f = .error n) ∧
    (pol < 2 → ceil < 1 ∨ 1024 < ceil → checkQuota n cur f = .error (n + 2)) ∧
    (pol < 2 → 1 ≤ ceil → ceil ≤ 1024 → ceil < res → checkQuota n cur f = .error (n + 1)) ∧
    (pol < 2 → 1 ≤ ceil → ceil ≤ 1024 → res ≤ ceil → ceil < keep → checkQuota n cur f = .error (n + 3)) ∧
    (pol < 2 → 1 ≤ ceil → ceil ≤ 1024 → res ≤ ceil → keep ≤ ceil → 86400 < age → checkQuota n cur f = .error (n + 4)) ∧
    (pol < 2 → 1 ≤ ceil → ceil ≤ 1024 → res ≤ ceil → keep ≤ ceil → age ≤ 86400 →
      checkQuota n cur f = .ok ⟨if pol = 0 then .hold else .dropOldest, res, ceil, keep, age⟩)) ∧
  (∀ (r : Req) (b : CreateBody) (s t : State) (refuse : Status → Nat → Instr), Takes (.streamCreate r) s t →
    createBody (t.body r) = .ok b →
    (∀ st n, refuse st n = .answerArrival r.sess.port r.slot ⟨st, n, .empty⟩) →
    ((b.name = [] ∨ 24 < b.name.length ∨ 0 ∈ b.name) →
      exec (.streamCreate r) s = .next (t.post (.core .sd) [refuse .outOfRange 8])) ∧
    (b.name ≠ [] → b.name.length ≤ 24 → 0 ∉ b.name →
      (∀ n, checkQuota 2 ⟨.hold, 0, 256, 0, 0⟩ b.fields = .error n →
        exec (.streamCreate r) s = .next (t.post (.core .sd) [refuse .outOfRange n])) ∧
      ∀ v, checkQuota 2 ⟨.hold, 0, 256, 0, 0⟩ b.fields = .ok v →
        ((∃ i : StreamId, t.sd.streams[i].state ≠ .absent ∧ t.sd.streams[i].name = b.name) ∨
            (∃ (i : StreamId) (c : Create), t.sd.works[i].create = some c ∧ c.name = b.name) →
          exec (.streamCreate r) s = .next (t.post (.core .sd) [refuse .streamExists 0])) ∧
        ((∀ i : StreamId, t.sd.streams[i].state = .absent ∨ t.sd.streams[i].name ≠ b.name) →
          (∀ (i : StreamId) (c : Create), t.sd.works[i].create = some c → c.name ≠ b.name) →
          ((∀ i : StreamId, t.sd.streams[i].state ≠ .absent ∨ t.sd.works[i].create ≠ none) →
            exec (.streamCreate r) s = .next (t.post (.core .sd) [refuse .noRoom 0])) ∧
          ∀ i : StreamId, t.sd.streams[i].state = .absent → t.sd.works[i].create = none →
            (∀ j < i, t.sd.streams[j].state ≠ .absent ∨ t.sd.works[j].create ≠ none) →
            exec (.streamCreate r) s =
              .next ({ t with sd := t.sd.onWork i fun k => { k with create := some ⟨r, b.name, v⟩ } }.post (.core .sd)
                [.createClaim i v.reservation v.ceiling])))) ∧
  (∀ (r : Req) (f : QuotaFields) (s t : State) (refuse : Status → Nat → Instr), Takes (.streamTune r) s t →
    (∀ st n, refuse st n = .answerArrival r.sess.port r.slot ⟨st, n, .empty⟩) →
    (∀ v, tuneBody (t.body r) = .ok (v, f) → 32 ≤ v →
      exec (.streamTune r) s = .next (t.post (.core .sd) [refuse .outOfRange 1])) ∧
    ∀ i : StreamId, tuneBody (t.body r) = .ok (i.val, f) →
      ((t.sd.works[i].create ≠ none ∨ t.sd.works[i].tune ≠ none ∨ t.sd.works[i].deleteClaim = true) →
        ∃ claims, exec (.streamTune r) s =
            .next { t with sd := t.sd.onWork i fun k => { k with waiting := k.waiting ++ [⟨r, f, claims⟩] } } ∧
          (.create ∈ claims ↔ t.sd.works[i].create ≠ none) ∧ (.tune ∈ claims ↔ t.sd.works[i].tune ≠ none) ∧
          (.delete ∈ claims ↔ t.sd.works[i].deleteClaim = true)) ∧
      (t.sd.works[i].create = none → t.sd.works[i].tune = none → t.sd.works[i].deleteClaim = false →
        (t.sd.streams[i].state = .absent →
          exec (.streamTune r) s = .next (t.post (.core .sd) [refuse .noStream 0])) ∧
        (t.sd.streams[i].state = .deleting →
          exec (.streamTune r) s = .next (t.post (.core .sd) [refuse .wrongState 0])) ∧
        (t.sd.streams[i].state = .opened ∨ t.sd.streams[i].state = .sealed →
          (∀ n, checkQuota 3 t.sd.streams[i].values f = .error n →
            exec (.streamTune r) s = .next (t.post (.core .sd) [refuse .outOfRange n])) ∧
          ∀ v, checkQuota 3 t.sd.streams[i].values f = .ok v →
            exec (.streamTune r) s =
              .next ({ t with sd := t.sd.onWork i fun k => { k with tune := some ⟨r, v⟩ } }.post (.core .sd)
                [.tuneClaim i v.reservation v.ceiling]))))

/-- PP's answers to the claims (R12, R13, R14): a granted create becomes OPEN with the values asked for and no page, entry,
cursor or append, and is answered OK with its id; a refused one is answered NO_ROOM; a granted tune writes the five values
together, is answered OK and triggers an evaluation; a refused tune is answered OUT_OF_RANGE for the ceiling and NO_ROOM for the
reservation, and one whose stream is no longer OPEN or SEALED GONE, whatever PP's answer, and both leave the stream as it was;
a delete claim's answer leaves the descriptor as it is.

The tunes that wait (R13): at PP's answer to a claim, each that waits for this claim alone is taken, whatever claim of the stream
has gone out since it arrived, and the others wait on. On a stream that is DELETING they are answered WRONG_STATE, on one that is
ABSENT NO_STREAM, behind the answer to the claim's own request. On one that is OPEN or SEALED the first of them, where its values
pass against the values now in force, has its claim sent, and those behind it wait for that (their order of arrival, and this
further wait: the model's choice, log entry 65). -/
def Obligations.QuotaClaimAnswerResults : Prop :=
  (∀ (i : StreamId) (c : Create) (s t : State), Takes (.createClaimAnswer i .granted) s t →
    t.sd.works[i].create = some c →
    ∃ u, exec (.createClaimAnswer i .granted) s = .next u ∧ OnlySd t u ∧
      SendsFirst (.core .sd) t u [.answerArrival c.req.sess.port c.req.slot ⟨.ok, 0, .streamId i⟩] ∧
      u.sd.streams = t.sd.streams.set i
        { name := c.name, state := .opened, sealCause := .none, settled := false, policy := c.values.policy
          reservation := c.values.reservation, ceiling := c.values.ceiling, keep := c.values.keep
          ageLimit := c.values.ageLimit, nextLpn := 0, headLpn := none, tailLpn := none, headSeq := 1, committed := 0
          releaseMark := none, tailRec := none, cursorCount := 0, pendingAppends := 0, counters := ⟨0, 0, 0, 0⟩ } ∧
      u.sd.works[i].create = none) ∧
  (∀ (i : StreamId) (c : Create) (cause : Cause) (s t : State), Takes (.createClaimAnswer i (.refused cause)) s t →
    t.sd.works[i].create = some c →
    ∃ u, exec (.createClaimAnswer i (.refused cause)) s = .next u ∧ OnlySd t u ∧
      SendsFirst (.core .sd) t u [.answerArrival c.req.sess.port c.req.slot ⟨.noRoom, 3, .empty⟩] ∧
      u.sd.streams = t.sd.streams) ∧
  (∀ (i : StreamId) (k : Tune) (s t : State), Takes (.tuneClaimAnswer i .granted) s t →
    t.sd.works[i].tune = some k → t.sd.streams[i].live = true →
    ∃ u, exec (.tuneClaimAnswer i .granted) s = .next u ∧ OnlySd t u ∧
      SendsFirst (.core .sd) t u [.answerArrival k.req.sess.port k.req.slot ⟨.ok, 0, .empty⟩, .evaluationTrigger i] ∧
      u.sd.streams = (upd t.sd.streams i fun d =>
        { d with policy := k.values.policy, reservation := k.values.reservation, ceiling := k.values.ceiling
                 keep := k.values.keep, ageLimit := k.values.ageLimit }) ∧
      (t.sd.works[i].waiting = [] → u.sd.works[i].tune = none)) ∧
  (∀ (i : StreamId) (k : Tune) (a : ClaimAnswer) (st : Status) (detail : Nat) (s t : State),
    Takes (.tuneClaimAnswer i a) s t → t.sd.works[i].tune = some k →
    ((t.sd.streams[i].live = true ∧ a = .refused .ceiling ∧ st = .outOfRange ∧ detail = 5) ∨
      (t.sd.streams[i].live = true ∧ a = .refused .shared ∧ st = .noRoom ∧ detail = 4) ∨
      (t.sd.streams[i].live = false ∧ st = .gone ∧ detail = 0)) →
    ∃ u, exec (.tuneClaimAnswer i a) s = .next u ∧ OnlySd t u ∧
      SendsFirst (.core .sd) t u [.answerArrival k.req.sess.port k.req.slot ⟨st, detail, .empty⟩] ∧
      u.sd.streams = t.sd.streams ∧ (t.sd.works[i].waiting = [] → u.sd.works[i].tune = none)) ∧
  (∀ (i : StreamId) (s t : State), Takes (.deleteClaimAnswer i) s t →
    ∃ u, exec (.deleteClaimAnswer i) s = .next u ∧ OnlySd t u ∧ u.sd.streams = t.sd.streams ∧
      u.sd.works[i].deleteClaim = false ∧ (t.sd.works[i].waiting = [] → u.wires = t.wires)) ∧
  (∀ (m : Instr) (c : ClaimKind) (i : StreamId) (st : Status) (first : List Instr) (s t : State), Takes m s t →
    ((m = .deleteClaimAnswer i ∧ c = .delete ∧ t.sd.works[i].tune = none ∧ first = []) ∨
      (∃ (cause : Cause) (k : Create), m = .createClaimAnswer i (.refused cause) ∧ c = .create ∧ t.sd.works[i].create = some k ∧
        t.sd.works[i].tune = none ∧ first = [.answerArrival k.req.sess.port k.req.slot ⟨.noRoom, 3, .empty⟩]) ∨
      (∃ (a : ClaimAnswer) (k : Tune), m = .tuneClaimAnswer i a ∧ c = .tune ∧ t.sd.works[i].tune = some k ∧
        first = [.answerArrival k.req.sess.port k.req.slot ⟨.gone, 0, .empty⟩])) →
    ((t.sd.streams[i].state = .absent ∧ st = .noStream) ∨ (t.sd.streams[i].state = .deleting ∧ st = .wrongState)) →
    exec m s = .next ({ t with sd := t.sd.onWork i fun k =>
        { k with
          create := if c = ClaimKind.create then none else k.create
          tune := none
          deleteClaim := if c = ClaimKind.delete then false else k.deleteClaim
          waiting := heldTunes c k.waiting } }.post (.core .sd)
      (first ++ (freedTunes c t.sd.works[i].waiting).map fun x : WaitingTune =>
        Instr.answerArrival x.req.sess.port x.req.slot ⟨st, 0, .empty⟩))) ∧
  (∀ (m : Instr) (c : ClaimKind) (i : StreamId) (values v : QuotaValues) (first : List Instr) (x : WaitingTune)
      (rest : List WaitingTune) (s t : State), Takes m s t →
    ((∃ k : Create, m = .createClaimAnswer i .granted ∧ c = .create ∧ t.sd.works[i].create = some k ∧ t.sd.works[i].tune = none ∧
        values = k.values ∧ first = [.answerArrival k.req.sess.port k.req.slot ⟨.ok, 0, .streamId i⟩]) ∨
      (t.sd.streams[i].live = true ∧
        ((m = .deleteClaimAnswer i ∧ c = .delete ∧ t.sd.works[i].tune = none ∧ values = t.sd.streams[i].values ∧
            first = []) ∨
          (∃ k : Tune, m = .tuneClaimAnswer i .granted ∧ c = .tune ∧ t.sd.works[i].tune = some k ∧ values = k.values ∧
            first = [.answerArrival k.req.sess.port k.req.slot ⟨.ok, 0, .empty⟩, .evaluationTrigger i]) ∨
          (∃ (k : Tune) (cause : Cause), m = .tuneClaimAnswer i (.refused cause) ∧ c = .tune ∧ t.sd.works[i].tune = some k ∧
            values = t.sd.streams[i].values ∧ first = [.answerArrival k.req.sess.port k.req.slot
              (if cause = .ceiling then ⟨.outOfRange, 5, .empty⟩ else ⟨.noRoom, 4, .empty⟩)])))) →
    t.sd.works[i].waiting = x :: rest → (∀ a ∈ x.awaits, a = c) → checkQuota 3 values x.fields = .ok v →
    ∃ u, exec m s = .next u ∧ OnlySd t u ∧ u.sd.works[i].tune = some ⟨x.req, v⟩ ∧
      u.sd.works[i].waiting = (rest.map fun y => { y with awaits := y.awaits.filter (· ≠ c) }) ∧
      Sends (.core .sd) t u (first ++ [.tuneClaim i v.reservation v.ceiling]))

/-- STREAM_SEAL on an OPEN stream, and AE's answer to the seal order (R15, R16).

STREAM_DELETE of an OPEN or SEALED stream (R19): refused IN_USE without force while cursors or appends count; otherwise
the stream is DELETING with reservation 0, and PP, DE, AE and MU are told. -/
def Obligations.StreamSealAndDeleteResults : Prop :=
  ((∀ (r : Req) (i : StreamId) (s t : State), Takes (.streamSeal r) s t → oneField 1 (t.body r) = .ok i.val →
    (t.sd.streams[i].state = .opened → exec (.streamSeal r) s =
      .next ({ t with sd := t.sd.onStream i fun d =>
          { d with state := .sealed, sealCause := .request, settled := false } }.post (.core .sd)
        [.answerArrival r.sess.port r.slot okAnswer, .noticeEvent ⟨.streamSealed, some i, none, some 0, none⟩,
         .sealOrder i])) ∧
    (t.sd.streams[i].state = .absent → exec (.streamSeal r) s =
      .next (t.post (.core .sd) [.answerArrival r.sess.port r.slot ⟨.noStream, 0, .empty⟩])) ∧
    (t.sd.streams[i].state = .sealed ∨ t.sd.streams[i].state = .deleting → exec (.streamSeal r) s =
      .next (t.post (.core .sd) [.answerArrival r.sess.port r.slot ⟨.wrongState, 0, .empty⟩]))) ∧
  (∀ (i : StreamId) (s t : State), Takes (.sealAnswer i) s t → t.sd.streams[i].state = .sealed →
    exec (.sealAnswer i) s =
      .next ({ t with sd := t.sd.onStream i fun d => { d with settled := true } }.post (.core .sd)
        [.evaluationTrigger i, .sealedSettledReport i]))) ∧
  (∀ (r : Req) (i : StreamId) (force : Bool) (s t : State), Takes (.streamDelete r) s t →
    idFlagBody (t.body r) = .ok (i.val, force) → t.sd.streams[i].live = true →
    (force = false → (0 < t.sd.streams[i].cursorCount ∨ 0 < t.sd.streams[i].pendingAppends) →
      exec (.streamDelete r) s =
        .next (t.post (.core .sd) [.answerArrival r.sess.port r.slot ⟨.inUse, 0, .empty⟩])) ∧
    (force = true ∨ (t.sd.streams[i].cursorCount = 0 ∧ t.sd.streams[i].pendingAppends = 0) →
      ∃ u, exec (.streamDelete r) s = .next u ∧ OnlySd t u ∧
        u.sd.streams = (upd t.sd.streams i fun d => { d with state := .deleting, reservation := 0 }) ∧
        u.sd.works[i].delete = some r ∧ u.sd.works[i].deleteClaim = true ∧
        Sends (.core .sd) t u
          ([.deleteClaim i t.sd.streams[i].ceiling, .deleteOrderAtDe i, .deleteOrderAtAe i, .deleteOrderAtMu i] ++
            if t.sd.streams[i].cursorCount = 0 ∧ t.sd.streams[i].pendingAppends = 0 then [.teardownHandover i] else [])))

/-- A DELETING stream that RU has emptied, MU has cleared and no cursor or append counts for becomes ABSENT: its descriptor
returns to the ABSENT values, the delete is answered OK, the event is raised and PP is told (R3, R20).

The reports of a teardown that is not yet at its end are kept, and the last cursor or append to leave hands the stream
over to RU (R20). -/
def Obligations.StreamTeardownResults : Prop :=
  (∀ (c : Instr) (i : StreamId) (k : StreamWork) (s t : State), Takes c s t → t.sd.streams[i].state = .deleting →
    k = t.sd.works[i] → k.handedOver = true →
    ((c = .emptiedReport i ∧ k.clear = true ∧ t.sd.streams[i].cursorCount = 0 ∧ t.sd.streams[i].pendingAppends = 0) ∨
     (c = .streamClearReport i ∧ k.emptied = true ∧ t.sd.streams[i].cursorCount = 0 ∧
        t.sd.streams[i].pendingAppends = 0) ∨
     (c = .unbind i ∧ k.clear = true ∧ k.emptied = true ∧ t.sd.streams[i].cursorCount = 1 ∧
        t.sd.streams[i].pendingAppends = 0) ∨
     (c = .appendLeave i ∧ k.clear = true ∧ k.emptied = true ∧ t.sd.streams[i].cursorCount = 0 ∧
        t.sd.streams[i].pendingAppends = 1)) →
    exec c s = .next ({ t with sd := (t.sd.onStream i fun _ =>
        { name := [], state := .absent, sealCause := .none, settled := false, policy := .hold, reservation := 0
          ceiling := 256, keep := 0, ageLimit := 0, nextLpn := 0, headLpn := none, tailLpn := none, headSeq := 1
          committed := 0, releaseMark := none, tailRec := none, cursorCount := 0, pendingAppends := 0
          counters := ⟨0, 0, 0, 0⟩ }).onWork i fun k =>
            { k with delete := none, handedOver := false, emptied := false, clear := false } }.post (.core .sd)
      ((match k.delete with
        | some r => [Instr.answerArrival r.sess.port r.slot okAnswer]
        | none => []) ++ [Instr.noticeEvent ⟨.streamDeleted, some i, none, none, none⟩, Instr.streamAbsentReport i]))) ∧
  (∀ (i : StreamId) (s t : State), t.sd.streams[i].state = .deleting →
    (t.sd.works[i].handedOver = true →
      (Takes (.emptiedReport i) s t → (t.sd.works[i].clear = false ∨ t.sd.streams[i].unused = false) →
        exec (.emptiedReport i) s = .next { t with sd := t.sd.onWork i fun k => { k with emptied := true } }) ∧
      (Takes (.streamClearReport i) s t → (t.sd.works[i].emptied = false ∨ t.sd.streams[i].unused = false) →
        exec (.streamClearReport i) s = .next { t with sd := t.sd.onWork i fun k => { k with clear := true } })) ∧
    (t.sd.works[i].handedOver = false → t.sd.works[i].emptied = false →
      (Takes (.unbind i) s t → t.sd.streams[i].cursorCount = 1 → t.sd.streams[i].pendingAppends = 0 →
        exec (.unbind i) s = .next ({ t with sd := (t.sd.onStream i fun d => { d with cursorCount := 0 }).onWork i fun k =>
            { k with handedOver := true } }.post (.core .sd) [.teardownHandover i])) ∧
      (Takes (.appendLeave i) s t → t.sd.streams[i].cursorCount = 0 → t.sd.streams[i].pendingAppends = 1 →
        exec (.appendLeave i) s = .next ({ t with sd := (t.sd.onStream i fun d => { d with pendingAppends := 0 }).onWork i fun k =>
            { k with handedOver := true } }.post (.core .sd) [.teardownHandover i]))))

/-- STREAM_INFO asks PP for the held count of the stream it names, by id or by name, and the answer reports the descriptor with
that count as they stand when PP has answered (R1, R22), for a stream that has become ABSENT meanwhile too, answered OK with
state ABSENT (the model's reading, log entry 14).

What SD answers to the questions of MU, AE, DE and RU, from the descriptor as it stands and without changing it
(R5, R48, R71, R74, R91, R133, R145; that the scan's ids come in rising order is the model's choice, log entry 58), and how a
counter update raises the stream's counters (R23). -/
def Obligations.DirectoryReportResults : Prop :=
  ((∀ (r : Req) (i : StreamId) (s t : State), Takes (.streamInfo r) s t → t.sd.streams[i].state ≠ .absent →
    (infoBody (t.body r) = .ok (.id i.val) ∨ ∃ n, infoBody (t.body r) = .ok (.name n) ∧ nameValid n = true ∧
      t.sd.streams[i].name = n ∧ ∀ j < i, t.sd.streams[j].state = .absent ∨ t.sd.streams[j].name ≠ n) →
    exec (.streamInfo r) s = .next (t.post (.core .sd) [.heldQuestion i (.sd r)])) ∧
  (∀ (r : Req) (i : StreamId) (held : Nat) (s t : State), Takes (.heldAnswerAtSd r i held) s t →
    exec (.heldAnswerAtSd r i held) s = .next (t.post (.core .sd) [.answerArrival r.sess.port r.slot ⟨.ok, 0, .stream
      { id := i, state := t.sd.streams[i].state, sealCause := t.sd.streams[i].sealCause
        settled := t.sd.streams[i].settled, policy := t.sd.streams[i].policy
        reservation := t.sd.streams[i].reservation, ceiling := t.sd.streams[i].ceiling, keep := t.sd.streams[i].keep
        ageLimit := t.sd.streams[i].ageLimit, head := t.sd.streams[i].headLpn, tail := t.sd.streams[i].tailLpn
        headSeq := t.sd.streams[i].headSeq, committed := t.sd.streams[i].committed
        releaseMark := t.sd.streams[i].releaseMark, held := held, cursorCount := t.sd.streams[i].cursorCount
        pendingAppends := t.sd.streams[i].pendingAppends, counters := t.sd.streams[i].counters
        name := t.sd.streams[i].name }⟩]))) ∧
  ((∀ (i : StreamId) (ref : RangeRef) (s t : State), Takes (.rangeQuestion i ref) s t →
    exec (.rangeQuestion i ref) s = .next (t.post (.core .sd) [.rangeAnswer i ref
      ⟨t.sd.streams[i].state, t.sd.streams[i].headLpn, t.sd.streams[i].tailLpn, t.sd.streams[i].tailRec⟩])) ∧
  (∀ (i : StreamId) (s t : State), Takes (.placeQuestion i) s t →
    exec (.placeQuestion i) s = .next (t.post (.core .sd) [.placeAnswer i ⟨t.sd.streams[i].state,
      t.sd.streams[i].sealCause, t.sd.streams[i].committed, t.sd.streams[i].tailLpn, t.sd.streams[i].tailRec⟩])) ∧
  (∀ (i : StreamId) (s t : State), Takes (.refusalQuestion i) s t →
    exec (.refusalQuestion i) s = .next (t.post (.core .sd) [.refusalAnswer i ⟨t.sd.streams[i].state,
      t.sd.streams[i].policy, t.sd.streams[i].headLpn, t.sd.streams[i].tailLpn⟩])) ∧
  (∀ (i : StreamId) (c : CursorId) (s t : State), Takes (.positionQuestion i c) s t →
    exec (.positionQuestion i c) s = .next (t.post (.core .sd)
      [.positionAnswer c t.sd.streams[i].effectiveHead t.sd.streams[i].committed])) ∧
  (∀ (i : StreamId) (s t : State), Takes (.viewQuestion i) s t →
    exec (.viewQuestion i) s = .next (t.post (.core .sd) [.evaluationAnswer i (.view ⟨t.sd.streams[i].state,
      t.sd.streams[i].settled, t.sd.streams[i].keep, t.sd.streams[i].ageLimit, t.sd.streams[i].committed⟩)])) ∧
  (∀ s t : State, Takes .scanQuestion s t → ∃ ids : List StreamId,
    exec .scanQuestion s = .next (t.post (.core .sd) [.scanAnswer ids]) ∧ ids.Pairwise (· < ·) ∧
    ∀ i : StreamId, i ∈ ids ↔ (t.sd.streams[i].live = true ∧ t.sd.streams[i].ageLimit ≠ 0)) ∧
  (∀ (i : StreamId) (s t : State), t.sd.streams[i].state ≠ .absent →
    (Takes (.counterUpdate i .refused) s t → exec (.counterUpdate i .refused) s =
      .next { t with sd := t.sd.onStream i fun d =>
        { d with counters := { d.counters with refused := min 4294967295 (d.counters.refused + 1) } } }) ∧
    (∀ n, Takes (.counterUpdate i (.dropped n)) s t → exec (.counterUpdate i (.dropped n)) s =
      .next { t with sd := t.sd.onStream i fun d =>
        { d with counters := { d.counters with dropped := min 4294967295 (d.counters.dropped + n) } } }) ∧
    (Takes (.counterUpdate i .damaged) s t → exec (.counterUpdate i .damaged) s =
      .next { t with sd := t.sd.onStream i fun d =>
        { d with counters := { d.counters with damaged := min 4294967295 (d.counters.damaged + 1) } } })))

/-- A page open (R6): tail_lpn becomes next_lpn, which rises by one; an absent head_lpn becomes the same LPN; the tail record is
a new one for the page. It is accepted in OPEN, SEALED and DELETING. A live stream's evaluation is triggered (R132). -/
def Obligations.PageOpenResult : Prop :=
  ∀ (i : StreamId) (ppn : Ppn) (s t : State), Takes (.pageOpen i ppn) s t →
    (t.sd.streams[i].state = .opened ∨ t.sd.streams[i].state = .sealed ∨ t.sd.streams[i].state = .deleting) →
    exec (.pageOpen i ppn) s = .next ({ t with sd := t.sd.onStream i fun d =>
        { d with
          tailLpn := some d.nextLpn
          nextLpn := d.nextLpn + 1
          headLpn := if d.headLpn = none then some d.nextLpn else d.headLpn
          tailRec := some { ppn := ppn, firstSeq := 0, lastSeq := 0, newestStamp := 0, closed := false } } }.post
      (.core .sd) (if t.sd.streams[i].state = StreamState.deleting then [] else [.evaluationTrigger i]))

/-- A page close marks the tail record closed and passes a copy of it to MU (R7); a commit in OPEN, in DELETING, or in SEALED
while it is not settled moves committed_seq, fills the tail record, raises appends and tells DE, and is not applied in ABSENT or
in SEALED once settled (R8). -/
def Obligations.PageCloseAndCommitResults : Prop :=
  (∀ (i : StreamId) (k : Lpn) (r : MapRec) (s t : State), Takes (.pageClose i) s t →
    t.sd.streams[i].tailLpn = some k → t.sd.streams[i].tailRec = some r → exec (.pageClose i) s =
    .next ({ t with sd := t.sd.onStream i fun d => { d with tailRec := some { r with closed := true } } }.post (.core .sd)
      ([Instr.mapWrite i k { r with closed := true }] ++
        if t.sd.streams[i].live then [Instr.evaluationTrigger i] else []))) ∧
  (∀ (i : StreamId) (q : Seq) (stamp : Clock) (r : MapRec) (s t : State), Takes (.commit i q stamp) s t →
    (t.sd.streams[i].state = .opened ∨ t.sd.streams[i].state = .deleting ∨
      (t.sd.streams[i].state = .sealed ∧ t.sd.streams[i].settled = false)) →
    t.sd.streams[i].tailRec = some r → q ≠ 4294967294 → exec (.commit i q stamp) s =
    .next ({ t with sd := t.sd.onStream i fun d =>
        { d with
          committed := q
          tailRec := some { r with firstSeq := if r.firstSeq = 0 then q else r.firstSeq, lastSeq := q,
                                   newestStamp := stamp }
          counters := { d.counters with appended := min 4294967295 (d.counters.appended + 1) } } }.post (.core .sd)
      (if t.sd.streams[i].live then [.commitReport i q] else []))) ∧
  (∀ (i : StreamId) (q : Seq) (stamp : Clock) (s t : State), Takes (.commit i q stamp) s t →
    (t.sd.streams[i].state = .absent ∨ (t.sd.streams[i].state = .sealed ∧ t.sd.streams[i].settled = true)) →
    exec (.commit i q stamp) s = .next t)

/-- A commit of sequence 4,294,967,294 (R10): in OPEN it seals the stream, EXHAUSTED and settled at once, raises STREAM_SEALED
with value 1, and tells RU and DE; an APPEND that finds the stream so sealed is answered SEQ_EXHAUSTED and leaves the queue; in
SEALED seal_cause stays, nothing is raised, and settling is left to AE's seal answer (R16). -/
def Obligations.ExhaustingCommitSealsTheStream : Prop :=
  (∀ (i : StreamId) (stamp : Clock) (s t : State), Takes (.commit i 4294967294 stamp) s t →
    t.sd.streams[i].state = .opened → ∃ u, exec (.commit i 4294967294 stamp) s = .next u ∧ OnlySd t u ∧
      u.sd.streams[i].state = .sealed ∧ u.sd.streams[i].sealCause = .exhausted ∧ u.sd.streams[i].settled = true ∧
      u.sd.streams[i].committed = 4294967294 ∧
      Sends (.core .sd) t u [.commitReport i 4294967294, .noticeEvent ⟨.streamSealed, some i, none, some 1, none⟩,
        .evaluationTrigger i, .sealedSettledReport i]) ∧
  (∀ (i : StreamId) (info : PlaceInfo) (j : Job) (rest : List Job) (s t : State), Takes (.placeAnswer i info) s t →
    info.state = .sealed → info.sealCause = .exhausted → t.ae.queue = j :: rest → j.state = .placing → j.stream = i →
    j.marked = false → ∃ u, exec (.placeAnswer i info) s = .next u ∧ OnlyAe t u ∧ u.ae.queue.length = rest.length ∧
      ∃ ms, Sends (.core .ae) t u ms ∧ .counterUpdate i .refused ∈ ms ∧
        .answerArrival j.req.sess.port j.req.slot ⟨.seqExhausted, 0, .empty⟩ ∈ ms) ∧
  (∀ (i : StreamId) (stamp : Clock) (s t : State), Takes (.commit i 4294967294 stamp) s t →
    t.sd.streams[i].state = .sealed → t.sd.streams[i].settled = false →
    ∃ u, exec (.commit i 4294967294 stamp) s = .next u ∧ OnlySd t u ∧
      u.sd.streams[i].state = .sealed ∧ u.sd.streams[i].sealCause = t.sd.streams[i].sealCause ∧
      u.sd.streams[i].settled = false ∧ u.sd.streams[i].committed = 4294967294 ∧
      Sends (.core .sd) t u [.commitReport i 4294967294]) ∧
  (∀ (i : StreamId) (s t : State), Takes (.sealAnswer i) s t → t.sd.streams[i].state = .sealed →
    ∃ u, exec (.sealAnswer i) s = .next u ∧ u.sd.streams[i].settled = true ∧
      Sends (.core .sd) t u [.evaluationTrigger i, .sealedSettledReport i])

/-- RU's three updates of a release (R9), in OPEN, SEALED and DELETING: a release-mark set; a head raise, which moves head_lpn
up or, where the released page was the tail page, takes head_lpn, tail_lpn and the tail record away and keeps next_lpn; a
release-mark clear. While the mark is set, DE is told the effective head. -/
def Obligations.ReleaseUpdateResults : Prop :=
  (∀ (i : StreamId) (m : Seq) (s t : State), t.sd.streams[i].state ≠ .absent →
    (Takes (.releaseMarkSet i m) s t → exec (.releaseMarkSet i m) s =
      .next ({ t with sd := t.sd.onStream i fun d => { d with releaseMark := some m } }.post (.core .sd)
        [.releaseMarkSetAnswer i])) ∧
    (Takes (.releaseMarkClear i) s t → exec (.releaseMarkClear i) s =
      .next { t with sd := t.sd.onStream i fun d => { d with releaseMark := none } }) ∧
    ∀ h k : Lpn, Takes (.headRaise i m) s t → t.sd.streams[i].headLpn = some h → t.sd.streams[i].tailLpn = some k →
      (h < k → exec (.headRaise i m) s =
        .next ({ t with sd := t.sd.onStream i fun d => { d with headSeq := m, headLpn := some (h + 1) } }.post (.core .sd)
          [.headRaiseAnswer i])) ∧
      (h = k → exec (.headRaise i m) s =
        .next ({ t with sd := t.sd.onStream i fun d =>
            { d with headSeq := m, headLpn := none, tailLpn := none, tailRec := none } }.post (.core .sd)
          [.headRaiseAnswer i]))) ∧
  (∀ (i : StreamId) (c : CursorId) (m : Seq) (s t : State), t.sd.streams[i].releaseMark = some m →
    (Takes (.positionQuestion i c) s t → exec (.positionQuestion i c) s = .next (t.post (.core .sd)
      [.positionAnswer c (max t.sd.streams[i].headSeq m) t.sd.streams[i].committed])) ∧
    (Takes (.bind i c) s t → t.sd.streams[i].live = true → t.sd.streams[i].cursorCount < 8 →
      ∃ u, exec (.bind i c) s = .next u ∧ Sends (.core .sd) t u
        [.bindAnswer c (.granted (max t.sd.streams[i].headSeq m) t.sd.streams[i].committed)]) ∧
    (Takes (.rebind i c) s t → t.sd.streams[i].live = true → exec (.rebind i c) s = .next (t.post (.core .sd)
      [.rebindAnswer c (.granted (max t.sd.streams[i].headSeq m) t.sd.streams[i].committed)])))

/-- Binds, unbinds, admissions and append leaves (R17, R18, R68): the table of R17, and the two counts of a stream. -/
def Obligations.BindAndAdmissionResults : Prop :=
  (∀ (i : StreamId) (c : CursorId) (s t : State), Takes (.bind i c) s t →
    (t.sd.streams[i].state = .absent →
      exec (.bind i c) s = .next (t.post (.core .sd) [.bindAnswer c (.refused .noStream)])) ∧
    (t.sd.streams[i].state = .deleting →
      exec (.bind i c) s = .next (t.post (.core .sd) [.bindAnswer c (.refused .gone)])) ∧
    (t.sd.streams[i].live = true → t.sd.streams[i].cursorCount = 8 →
      exec (.bind i c) s = .next (t.post (.core .sd) [.bindAnswer c (.refused .noRoom)])) ∧
    (t.sd.streams[i].live = true → t.sd.streams[i].cursorCount ≤ 7 →
      exec (.bind i c) s = .next ({ t with sd := t.sd.onStream i fun d =>
          { d with cursorCount := d.cursorCount + 1 } }.post (.core .sd)
        [.bindAnswer c (.granted t.sd.streams[i].effectiveHead t.sd.streams[i].committed)]))) ∧
  (∀ (i : StreamId) (c : CursorId) (s t : State), Takes (.rebind i c) s t → t.sd.streams[i].live = true →
    exec (.rebind i c) s = .next (t.post (.core .sd)
      [.rebindAnswer c (.granted t.sd.streams[i].effectiveHead t.sd.streams[i].committed)])) ∧
  (∀ (i : StreamId) (s t : State), t.sd.streams[i].state ≠ .deleting →
    (Takes (.unbind i) s t → exec (.unbind i) s =
      .next { t with sd := t.sd.onStream i fun d => { d with cursorCount := d.cursorCount - 1 } }) ∧
    (Takes (.appendLeave i) s t → exec (.appendLeave i) s =
      .next { t with sd := t.sd.onStream i fun d => { d with pendingAppends := d.pendingAppends - 1 } })) ∧
  (∀ (i : StreamId) (r : Req) (s t : State), Takes (.admission i r) s t →
    (t.sd.streams[i].state ≠ .absent → exec (.admission i r) s =
      .next ({ t with sd := t.sd.onStream i fun d => { d with pendingAppends := d.pendingAppends + 1 } }.post (.core .sd)
        [.admissionAnswer r true])) ∧
    (t.sd.streams[i].state = .absent → exec (.admission i r) s =
      .next (t.post (.core .sd) [.admissionAnswer r false])))

/-! ### The Page Pool -/

/-- The claims (R29, R30, R31), decided on shared_free and held at their arrival; where the claim changes shared_free, its lowest
value and the pressure follow, an event of it ahead of the answer (R28, R38). A delete claim sets the reservation 0 and the
ceiling to the one it carries, in place of one that a granted tune claim has set (R14; the reading of R31 beside it is log entry
16's). -/
def Obligations.QuotaClaimResults : Prop :=
  (∀ (i : StreamId) (res ceil : Nat) (s t : State), Takes (.createClaim i res ceil) s t →
    (res ≤ t.pp.sharedFree → exec (.createClaim i res ceil) s = .next (t.accounted
      { t.pp with quotas := t.pp.quotas.set i ⟨true, res, ceil, 0⟩ } [.createClaimAnswer i .granted])) ∧
    (t.pp.sharedFree < res → exec (.createClaim i res ceil) s =
      .next (t.post (.core .pp) [.createClaimAnswer i (.refused .shared)]))) ∧
  (∀ (i : StreamId) (res ceil : Nat) (s t : State), Takes (.tuneClaim i res ceil) s t →
    (ceil < t.pp.quotas[i].held → exec (.tuneClaim i res ceil) s =
      .next (t.post (.core .pp) [.tuneClaimAnswer i (.refused .ceiling)])) ∧
    (t.pp.quotas[i].held ≤ ceil →
      t.pp.sharedFree + (t.pp.quotas[i].reservation - t.pp.quotas[i].held) < res - t.pp.quotas[i].held →
      exec (.tuneClaim i res ceil) s = .next (t.post (.core .pp) [.tuneClaimAnswer i (.refused .shared)])) ∧
    (t.pp.quotas[i].held ≤ ceil →
      res - t.pp.quotas[i].held ≤ t.pp.sharedFree + (t.pp.quotas[i].reservation - t.pp.quotas[i].held) →
      exec (.tuneClaim i res ceil) s = .next (t.accounted
        { t.pp with quotas := upd t.pp.quotas i fun q => { q with reservation := res, ceiling := ceil } }
        [.tuneClaimAnswer i .granted]))) ∧
  (∀ (i : StreamId) (ceil : Nat) (s t : State), Takes (.deleteClaim i ceil) s t →
    exec (.deleteClaim i ceil) s = .next (t.accounted
      { t.pp with quotas := upd t.pp.quotas i fun q => { q with reservation := 0, ceiling := ceil } }
      [.deleteClaimAnswer i])) ∧
  (∀ (i : StreamId) (s t : State), Takes (.streamAbsentReport i) s t →
    exec (.streamAbsentReport i) s = .next (t.accounted
      { t.pp with quotas := t.pp.quotas.set i ⟨false, 0, 0, 0⟩ } [])) ∧
  (∀ (i : StreamId) (s t : State),
    (∀ r, Takes (.heldQuestion i (.sd r)) s t → exec (.heldQuestion i (.sd r)) s =
      .next (t.post (.core .pp) [.heldAnswerAtSd r i t.pp.quotas[i].held])) ∧
    (Takes (.heldQuestion i .ru) s t → exec (.heldQuestion i .ru) s =
      .next (t.post (.core .pp) [.teardownHeldAnswer i t.pp.quotas[i].held])))

/-- An allocation request (R32): refused CEILING at the ceiling (and above it, where R32 names equality: the model's reading, log
entry 16), refused SHARED when it would need a shared page and none is free;
otherwise the page at the head of the free list is ALLOCATED to the stream and granted, held and allocations rise, and where
shared_free changes its lowest value and the pressure follow (R28, R38).

The accounting of the pool (R28). unused(s) is reservation - held where that is positive, U its sum over the active records,
shared_free the free-list length less U. A grant takes one page off the list: from the reservation U falls with it and
shared_free stays, else shared_free falls by one. A page that becomes FREE raises the length by one, and U with it while
held - 1 is below the reservation, else shared_free. A hand-over of a page that is held, and a recycle, change none of the
three. -/
def Obligations.AllocationResult : Prop :=
  (∀ (i : StreamId) (s t : State), Takes (.allocationRequest i) s t →
    (t.pp.quotas[i].ceiling ≤ t.pp.quotas[i].held → exec (.allocationRequest i) s =
      .next ({ t with pp := t.pp.onCounters fun k => { k with refusals := min 4294967295 (k.refusals + 1) } }.post
        (.core .pp) [.allocationRefusal i .ceiling])) ∧
    (t.pp.quotas[i].held < t.pp.quotas[i].ceiling → t.pp.quotas[i].reservation ≤ t.pp.quotas[i].held →
      t.pp.sharedFree = 0 → exec (.allocationRequest i) s =
      .next ({ t with pp := t.pp.onCounters fun k => { k with refusals := min 4294967295 (k.refusals + 1) } }.post
        (.core .pp) [.allocationRefusal i .shared])) ∧
    (∀ ppn rest, t.pp.quotas[i].held < t.pp.quotas[i].ceiling →
      (t.pp.quotas[i].held < t.pp.quotas[i].reservation ∨ t.pp.sharedFree ≠ 0) →
      freeList t.pp.free = ppn :: rest → ∃ runs, freeList runs = rest ∧
        exec (.allocationRequest i) s = .next (t.accounted { t.pp with
          free := runs
          pages := { ppn := ppn, releasing := false, owner := i, holds := 0, recycle := false } :: t.pp.pages
          quotas := upd t.pp.quotas i fun q => { q with held := q.held + 1 }
          counters := { t.pp.counters with allocations := min 4294967295 (t.pp.counters.allocations + 1) } }
        [.allocationGrant i ppn]))) ∧
  ((∀ p : PP, p.sharedFree = (freeList p.free).length - p.unused ∧
    ((∀ i : StreamId, p.quotas[i].active = false → p.quotas[i].reservation = 0) → p.unused =
      (((List.finRange 32).filter fun i => p.quotas[i].active).map fun i =>
        if p.quotas[i].held < p.quotas[i].reservation then p.quotas[i].reservation - p.quotas[i].held else 0).sum)) ∧
  (∀ (i : StreamId) (s t u : State), Takes (.allocationRequest i) s t → exec (.allocationRequest i) s = .next u →
    u.pp.quotas[i].held = t.pp.quotas[i].held + 1 →
    (freeList u.pp.free).length + 1 = (freeList t.pp.free).length ∧
    (t.pp.quotas[i].held < t.pp.quotas[i].reservation →
      u.pp.unused + 1 = t.pp.unused ∧ u.pp.sharedFree = t.pp.sharedFree) ∧
    (t.pp.quotas[i].reservation ≤ t.pp.quotas[i].held →
      u.pp.unused = t.pp.unused ∧ u.pp.sharedFree + 1 = t.pp.sharedFree)) ∧
  (∀ (c : Instr) (ppn : Ppn) (r : PageRec) (s t u : State), Takes c s t → exec c s = .next u →
    t.pp.page ppn = some r →
    (((c = .holdDrop ppn ∧ r.holds = 1 ∧ r.releasing = true ∧ r.recycle = false) ∨
        (∃ kind, kind ≠ .recycle ∧ c = .handOver r.owner ppn kind ∧ r.holds = 0 ∧ r.releasing = false)) →
      1 ≤ t.pp.quotas[r.owner].held →
      (freeList u.pp.free).length = (freeList t.pp.free).length + 1 ∧
      (t.pp.quotas[r.owner].held - 1 < t.pp.quotas[r.owner].reservation →
        u.pp.unused = t.pp.unused + 1 ∧ u.pp.sharedFree = t.pp.sharedFree) ∧
      (t.pp.quotas[r.owner].reservation ≤ t.pp.quotas[r.owner].held - 1 →
        u.pp.unused = t.pp.unused ∧ (t.reservedOk → u.pp.sharedFree = t.pp.sharedFree + 1))) ∧
    (((c = .holdDrop ppn ∧ r.holds = 1 ∧ r.releasing = true ∧ r.recycle = true) ∨
        (∃ kind, c = .handOver r.owner ppn kind ∧ r.releasing = false ∧ (1 ≤ r.holds ∨ kind = .recycle))) →
      u.pp.free = t.pp.free ∧ u.pp.unused = t.pp.unused ∧ u.pp.sharedFree = t.pp.sharedFree)))

/-- A hold request (R33): granted on an ALLOCATED page of the stream, whose hold count rises; otherwise answered from the page
record without change.

A hand-over of an ALLOCATED page of the stream (R35): the page is RELEASING, recycling for kind RECYCLE alone, and the
counter of its kind rises; without a hold it is completed at once (R36, with the pressure as R28 and R38 say; R37). -/
def Obligations.HoldRequestAndHandOverResults : Prop :=
  (∀ (i : StreamId) (ppn : Ppn) (b : BufId) (s t : State), Takes (.holdRequest i ppn b) s t →
    (t.pp.page ppn = none → exec (.holdRequest i ppn b) s = .next (t.post (.core .pp) [.holdAnswer b .notOwned])) ∧
    ∀ r, t.pp.page ppn = some r →
      (r.releasing = true → exec (.holdRequest i ppn b) s = .next (t.post (.core .pp) [.holdAnswer b .releasing])) ∧
      (r.releasing = false → r.owner ≠ i →
        exec (.holdRequest i ppn b) s = .next (t.post (.core .pp) [.holdAnswer b .notOwned])) ∧
      (r.releasing = false → r.owner = i → ∃ u, exec (.holdRequest i ppn b) s = .next u ∧ OnlyPp t u ∧
        u.pp.page ppn = some { r with holds := r.holds + 1 } ∧ (∀ q, q ≠ ppn → u.pp.page q = t.pp.page q) ∧
        u.pp.free = t.pp.free ∧ u.pp.quotas = t.pp.quotas ∧ Sends (.core .pp) t u [.holdAnswer b .granted])) ∧
  (∀ (i : StreamId) (ppn : Ppn) (kind : RelKind) (r : PageRec) (k : PoolCounters) (s t : State),
    Takes (.handOver i ppn kind) s t → t.pp.page ppn = some r → r.releasing = false → r.owner = i →
    k = { t.pp.counters with
      normalReleases := if kind = .normal then min 4294967295 (t.pp.counters.normalReleases + 1)
        else t.pp.counters.normalReleases
      forcedReleases := if kind = .normal then t.pp.counters.forcedReleases
        else min 4294967295 (t.pp.counters.forcedReleases + 1) } →
    ∃ u, exec (.handOver i ppn kind) s = .next u ∧ OnlyPp t u ∧ (∀ q, q ≠ ppn → u.pp.page q = t.pp.page q) ∧
      (1 ≤ r.holds → u.pp.page ppn = some { r with releasing := true, recycle := decide (kind = .recycle) } ∧
        u.pp.free = t.pp.free ∧ u.pp.quotas = t.pp.quotas ∧ u.pp.counters = k ∧ u.wires = t.wires) ∧
      (r.holds = 0 → kind ≠ .recycle → u.pp.page ppn = none ∧ ∃ runs,
        freeList runs = freeList t.pp.free ++ [ppn] ∧ u = t.accounted { t.pp with
            free := runs, pages := u.pp.pages, counters := k
            quotas := upd t.pp.quotas i fun q => { q with held := q.held - 1 } }
          [.pageReturnedReport i ppn]) ∧
      (r.holds = 0 → kind = .recycle → u.pp.page ppn = some { r with releasing := false, recycle := false } ∧
        u.pp.free = t.pp.free ∧ u.pp.quotas = t.pp.quotas ∧
        u.pp.counters = { k with recycles := min 4294967295 (k.recycles + 1) } ∧
        Sends (.core .pp) t u [.recycledPage i ppn, .pageReturnedReport i ppn]))

/-- A hold drop (R34): the page's hold count falls by one; an ALLOCATED page sees nothing further; a RELEASING page whose last
hold is dropped is completed at once, by R36 (FREE, at the tail of the free list, held one lower, RU told, pressure as R28 and
R38 say) or, with recycle, by R37 (ALLOCATED to the same owner again, AE and RU told); a drop for a page with no hold is not
applied. -/
def Obligations.HoldDropResult : Prop :=
  ∀ (ppn : Ppn) (r : PageRec) (s t : State), Takes (.holdDrop ppn) s t → t.pp.page ppn = some r →
    (r.holds = 0 → exec (.holdDrop ppn) s = .next t) ∧
    (1 ≤ r.holds → (r.releasing = false ∨ 2 ≤ r.holds) → ∃ u, exec (.holdDrop ppn) s = .next u ∧ OnlyPp t u ∧
      u.pp.page ppn = some { r with holds := r.holds - 1 } ∧ (∀ q, q ≠ ppn → u.pp.page q = t.pp.page q) ∧
      u.pp.free = t.pp.free ∧ u.pp.quotas = t.pp.quotas ∧ u.pp.counters = t.pp.counters ∧ u.wires = t.wires) ∧
    (r.holds = 1 → r.releasing = true → r.recycle = false → ∃ u runs, exec (.holdDrop ppn) s = .next u ∧
      u.pp.page ppn = none ∧ (∀ q, q ≠ ppn → u.pp.page q = t.pp.page q) ∧
      freeList runs = freeList t.pp.free ++ [ppn] ∧
      u = t.accounted { t.pp with
          free := runs, pages := u.pp.pages
          quotas := upd t.pp.quotas r.owner fun q => { q with held := q.held - 1 } }
        [.pageReturnedReport r.owner ppn]) ∧
    (r.holds = 1 → r.releasing = true → r.recycle = true → ∃ u, exec (.holdDrop ppn) s = .next u ∧ OnlyPp t u ∧
      u.pp.page ppn = some { r with holds := 0, releasing := false, recycle := false } ∧
      (∀ q, q ≠ ppn → u.pp.page q = t.pp.page q) ∧ u.pp.free = t.pp.free ∧ u.pp.quotas = t.pp.quotas ∧
      u.pp.counters.recycles = min 4294967295 (t.pp.counters.recycles + 1) ∧
      Sends (.core .pp) t u [.recycledPage r.owner ppn, .pageReturnedReport r.owner ppn])

/-- The pressure state (R38), evaluated in READY: below low_mark it goes ON, at clear_mark or above, or with low_mark 0, it goes
OFF, each change raised with shared_free; otherwise nothing changes.

POOL_TUNE and POOL_STATUS (R39, R40): marks in range are set and the pressure is evaluated under them, its event ahead of the
OK; marks out of range are refused by field; the status carries the values of the moment, and with the clear flag the counters
restart afterwards. -/
def Obligations.PressureAndPoolRequestResults : Prop :=
  (∀ w : Work PP,
    (w.st.ready = true → w.st.pressure = false → w.st.sharedFree < w.st.lowMark →
      PP.evaluate w = ⟨{ w.st with pressure := true }, w.out ++ [poolEvent .pressureOn w.st.sharedFree]⟩) ∧
    (w.st.ready = true → w.st.pressure = true → (w.st.clearMark ≤ w.st.sharedFree ∨ w.st.lowMark = 0) →
      PP.evaluate w = ⟨{ w.st with pressure := false }, w.out ++ [poolEvent .pressureOff w.st.sharedFree]⟩) ∧
    ((w.st.ready = false ∨ (w.st.pressure = false ∧ w.st.lowMark ≤ w.st.sharedFree) ∨
        (w.st.pressure = true ∧ w.st.sharedFree < w.st.clearMark ∧ w.st.lowMark ≠ 0)) → PP.evaluate w = w)) ∧
  ((∀ (r : Req) (low clear : Nat) (w : Work PP) (s t : State), Takes (.poolTune r) s t →
    poolTuneBody (t.body r) = .ok (low, clear) →
    (1 ≤ clear → clear ≤ t.poolSize → low < clear →
      w = PP.evaluate ⟨{ t.pp with lowMark := low, clearMark := clear }, []⟩ → exec (.poolTune r) s =
        .next ({ t with pp := w.st }.post (.core .pp) (w.out ++ [Instr.answerArrival r.sess.port r.slot okAnswer]))) ∧
    ((clear = 0 ∨ t.poolSize < clear) → exec (.poolTune r) s =
      .next (t.post (.core .pp) [.answerArrival r.sess.port r.slot ⟨.outOfRange, 2, .empty⟩])) ∧
    (1 ≤ clear → clear ≤ t.poolSize → clear ≤ low → exec (.poolTune r) s =
      .next (t.post (.core .pp) [.answerArrival r.sess.port r.slot ⟨.outOfRange, 1, .empty⟩]))) ∧
  (∀ (r : Req) (clear : Bool) (s t : State), Takes (.poolStatus r) s t → clearBody (t.body r) = .ok clear →
    exec (.poolStatus r) s =
      .next ({ t with pp := if clear then t.pp.onCounters fun _ => ⟨0, 0, 0, 0, 0, t.pp.sharedFree⟩ else t.pp }.post
        (.core .pp) [.answerArrival r.sess.port r.slot ⟨.ok, 0, .pool
          { size := t.poolSize, free := (freeList t.pp.free).length
            allocated := (t.pp.pages.filter fun x : PageRec => !x.releasing).length
            releasing := (t.pp.pages.filter fun x : PageRec => x.releasing).length, unused := t.pp.unused
            sharedFree := t.pp.sharedFree, pressure := t.pp.pressure, lowMark := t.pp.lowMark
            clearMark := t.pp.clearMark, counters := t.pp.counters }⟩])))

/-! ### The Map Unit -/

/-- Map writes and slot clears (R43, R44, R46, R47, R60): the 16 bytes go to the ring slot of the LPN, and a map write counts as in
flight until its completion, which replaces a valid entry's copy in place and, where it is the last of a deleted stream with no
walk of it in flight, sends the stream-clear report; the completion of a clear invalidates the entry and tells RU. -/
def Obligations.MapWriteAndClearResults : Prop :=
  (∀ (i : StreamId) (lpn : Lpn) (rec : MapRec) (s t : State), Takes (.mapWrite i lpn rec) s t →
    ∃ u, exec (.mapWrite i lpn rec) s = .next u ∧ OnlyMu t u ∧ u.mu.cache = t.mu.cache ∧
      u.mu.writes = (upd t.mu.writes i fun n => n + 1) ∧
      u.mu.counters.mapWrites = min 4294967295 (t.mu.counters.mapWrites + 1) ∧
      ∃ op, Sends (.core .mu) t u [.mpOperationIssue op] ∧ op.ref = .mapWrite i lpn rec ∧ op.len = 16 ∧
        op.data = slotBytes rec ∧ addressOf op = i.val * 16384 + lpn % 1024 * 16) ∧
  (∀ (i : StreamId) (lpn : Lpn) (rec : MapRec) (s t : State), Takes (.mapWriteDone i lpn rec) s t →
    ∃ u, exec (.mapWriteDone i lpn rec) s = .next u ∧ OnlyMu t u ∧
      u.mu.cache = (t.mu.cache.map fun l => if l.stream = i ∧ l.lpn = lpn then { l with record := rec } else l) ∧
      u.mu.counters = t.mu.counters ∧ u.mu.trackers = t.mu.trackers ∧ u.mu.queue = t.mu.queue ∧
      u.mu.writes = (upd t.mu.writes i fun n => n - 1) ∧
      (t.mu.clearDue[i] = true → t.mu.writes[i] = 1 →
        (∀ (w : TrackerId) (k : Tracker), t.mu.trackers[w] = some k → k.stream ≠ i) →
        u.mu.clearDue = t.mu.clearDue.set i false ∧ Sends (.core .mu) t u [.streamClearReport i]) ∧
      ((t.mu.clearDue[i] = false ∨ 2 ≤ t.mu.writes[i] ∨
          ∃ (w : TrackerId) (k : Tracker), t.mu.trackers[w] = some k ∧ k.stream = i) →
        u.mu.clearDue = t.mu.clearDue ∧ u.wires = t.wires)) ∧
  (∀ (i : StreamId) (lpn : Lpn) (s t : State), Takes (.slotClear i lpn) s t →
    ∃ u, exec (.slotClear i lpn) s = .next u ∧ OnlyMu t u ∧ u.mu.cache = t.mu.cache ∧
      u.mu.counters.slotClears = min 4294967295 (t.mu.counters.slotClears + 1) ∧
      ∃ op, Sends (.core .mu) t u [.mpOperationIssue op] ∧ op.ref = .slotClear i lpn ∧ op.len = 16 ∧
        op.data = List.replicate 16 0 ∧ addressOf op = i.val * 16384 + lpn % 1024 * 16) ∧
  (∀ (i : StreamId) (lpn : Lpn) (s t : State), Takes (.slotClearDone i lpn) s t →
    ∃ u, exec (.slotClearDone i lpn) s = .next u ∧ OnlyMu t u ∧
      u.mu.cache = (t.mu.cache.filter fun l => !decide (l.stream = i ∧ l.lpn = lpn)) ∧ u.mu.trackers = t.mu.trackers ∧
      u.mu.queue = t.mu.queue ∧ Sends (.core .mu) t u [.clearDoneReport i lpn])

/-- A lookup by LPN, of a delivery buffer or a search's probe (R48, R49): it is counted and SD is asked for the range. The range
answer of one still waited for gives GONE, NOT_HELD, the tail record or a hit of the cache; else the lookup joins the walk or the
queue entry of its key, begins a read of the ring slot on an idle tracker (the lowest, log entry 53: the model's choice), joins
the queue of eight, or is answered RETRY, a probe waiting instead (R59). A probe whose search has ended is withdrawn. A queue entry
resolves in its turn (R55), ahead of its turn its answer is kept (R56; log entry 62: the model's reading), and
answered from the cache it counts one hit for each of its waiters (log entry 19: the model's reading). Where it leaves without a
walk no further entry is taken then (log entry 20: the model's reading).

A walk's completion (R51, R55): its waiters are answered in their order, with the record or, for an empty slot, NOT_HELD; the
record is the most recently used entry of the cache unless the tracker had the no-fill mark; the tracker is IDLE; an owed
tracker-free report follows, then the range question of the first queue entry not yet taken, then the probes that wait for a
place, in their order (resumed at every walk's completion: the model's reading, log entry 21), and last the stream-clear report
that was due (last: the model's choice, log entry 66).

A fill of the cache (R51): the copy of a valid entry of the key is replaced and becomes the most recently used; otherwise
the lowest-numbered invalid entry, or the least recently used one with an eviction, is taken and becomes the most recently
used, and fills rises. -/
def Obligations.LookupResults : Prop :=
  ((∀ (i : StreamId) (lpn : Lpn) (r : Looker) (s t : State), Takes (.lookupByLpn i lpn r) s t →
    exec (.lookupByLpn i lpn r) s = .next ({ t with mu := t.mu.onCounters fun c =>
        { c with lookups := min 4294967295 (c.lookups + 1) } }.post (.core .mu) [.rangeQuestion i (.lookup lpn r)])) ∧
  (∀ (i : StreamId) (lpn : Lpn) (a : MapAnswer) (w : Work MU),
    (∀ b, MU.tell i lpn a (.delivery b) w = ⟨w.st, w.out ++ [.lookupAnswer b a]⟩) ∧
    (∀ q, MU.tell i lpn a (.probe q) w = MU.probed q i lpn a w) ∧
    ∀ rs, MU.tellAll i lpn a rs w = rs.foldl (fun v r => MU.tell i lpn a r v) w) ∧
  (∀ (i : StreamId) (lpn : Lpn) (q : Searcher) (info : RangeInfo) (s t : State),
    Takes (.rangeAnswer i (.lookup lpn (.probe q)) info) s t →
    (∀ x, t.mu.search q = some x → x.stream ≠ i ∨ x.probe ≠ some lpn) →
    exec (.rangeAnswer i (.lookup lpn (.probe q)) info) s = .next t) ∧
  (∀ (i : StreamId) (lpn : Lpn) (r : Looker) (info : RangeInfo) (s t : State),
    Takes (.rangeAnswer i (.lookup lpn r) info) s t →
    ((∃ b, r = .delivery b) ∨ ∃ q x, r = .probe q ∧ t.mu.search q = some x ∧ x.stream = i ∧ x.probe = some lpn) →
    ((info.state = .absent ∨ info.state = .deleting) → exec (.rangeAnswer i (.lookup lpn r) info) s =
      .next (t.onMu (MU.tell i lpn .gone r))) ∧
    ((info.state = .opened ∨ info.state = .sealed) → (info.head = none ∨ info.tail = none ∨ info.tailRec = none) →
      exec (.rangeAnswer i (.lookup lpn r) info) s = .next (t.onMu (MU.tell i lpn .notHeld r))) ∧
    ∀ h k rec, info.state = .opened ∨ info.state = .sealed → info.head = some h → info.tail = some k →
      info.tailRec = some rec →
      ((lpn < h ∨ k < lpn) →
        exec (.rangeAnswer i (.lookup lpn r) info) s = .next (t.onMu (MU.tell i lpn .notHeld r))) ∧
      (h ≤ lpn → lpn = k → exec (.rangeAnswer i (.lookup lpn r) info) s = .next (t.onMu fun w =>
        MU.tell i lpn (.found lpn rec) r (w.mod fun m => m.onCounters fun c =>
          { c with tailAnswers := min 4294967295 (c.tailAnswers + 1) }))) ∧
      (∀ l, h ≤ lpn → lpn < k → t.mu.cached i lpn = some l →
        exec (.rangeAnswer i (.lookup lpn r) info) s = .next (t.onMu fun w =>
          MU.tell i lpn (.found lpn l.record) r (w.mod fun m => { m with
            cache := l :: m.cache.filter fun x => !decide (x.stream = i ∧ x.lpn = lpn)
            counters := { m.counters with hits := min 4294967295 (m.counters.hits + 1) } }))) ∧
      (h ≤ lpn → lpn < k → t.mu.cached i lpn = none → ∀ c, c = { t.mu.counters with
          misses := min 4294967295 (t.mu.counters.misses + 1) } →
        (∀ w, t.mu.walking i lpn = some w → exec (.rangeAnswer i (.lookup lpn r) info) s = .next { t with mu := { t.mu with
          counters := { c with merges := min 4294967295 (c.merges + 1) }
          trackers := upd t.mu.trackers w fun x => x.map fun x => { x with waiters := x.waiters ++ [r] } } }) ∧
        (t.mu.walking i lpn = none → (∃ e ∈ t.mu.queue, e.stream = i ∧ e.lpn = lpn) →
          exec (.rangeAnswer i (.lookup lpn r) info) s = .next { t with mu := { t.mu with
            counters := { c with merges := min 4294967295 (c.merges + 1) }
            queue := t.mu.queue.map fun e =>
              if e.stream = i ∧ e.lpn = lpn then { e with waiters := e.waiters ++ [r] } else e } }) ∧
        (t.mu.walking i lpn = none → (∀ e ∈ t.mu.queue, e.stream ≠ i ∨ e.lpn ≠ lpn) →
          (∀ w : TrackerId, t.mu.trackers[w] = none → (∀ j < w, t.mu.trackers[j] ≠ none) →
            ∃ op, exec (.rangeAnswer i (.lookup lpn r) info) s = .next ({ t with mu := { t.mu with
                counters := { c with walks := min 4294967295 (c.walks + 1) }
                trackers := t.mu.trackers.set w (some ⟨i, lpn, [r], false⟩) } }.post (.core .mu)
              [.mpOperationIssue op]) ∧
            op.ref = .walkRead w ∧ op.len = 16 ∧ addressOf op = i.val * 16384 + lpn % 1024 * 16) ∧
          ((∀ w : TrackerId, t.mu.trackers[w] ≠ none) →
            (t.mu.queue.length < 8 → exec (.rangeAnswer i (.lookup lpn r) info) s = .next { t with mu := { t.mu with
              counters := c, queue := t.mu.queue ++ [⟨i, lpn, [r], false, none⟩] } }) ∧
            (8 ≤ t.mu.queue.length →
              (∀ b, r = .delivery b → exec (.rangeAnswer i (.lookup lpn r) info) s = .next ({ t with mu := { t.mu with
                  counters := { c with retries := min 4294967295 (c.retries + 1) }, owed := true } }.post (.core .mu)
                [.lookupAnswer b .retry])) ∧
              (∀ q, r = .probe q → exec (.rangeAnswer i (.lookup lpn r) info) s = .next { t with mu := { t.mu with
                counters := c, waiting := t.mu.waiting ++ [q] } })))))) ∧
  (∀ (i : StreamId) (lpn : Lpn) (info : RangeInfo) (e : QueueEntry) (ahead rest : List QueueEntry) (s t : State),
    Takes (.rangeAnswer i (.queued lpn) info) s t → t.mu.queue = ahead ++ e :: rest → e.stream = i → e.lpn = lpn →
    e.asking = true → (∀ x ∈ ahead ++ rest, (x.stream ≠ i ∨ x.lpn ≠ lpn) ∧ x.answer = none) →
    (ahead ≠ [] → exec (.rangeAnswer i (.queued lpn) info) s = .next { t with mu := { t.mu with
      queue := ahead ++ { e with answer := some info } :: rest } }) ∧
    (ahead = [] →
      ((info.state = .absent ∨ info.state = .deleting) → exec (.rangeAnswer i (.queued lpn) info) s =
        .next (t.onMu fun w => MU.tellAll i lpn .gone e.waiters (w.mod fun m => { m with queue := rest }))) ∧
      ((info.state = .opened ∨ info.state = .sealed) → (info.head = none ∨ info.tail = none ∨ info.tailRec = none) →
        exec (.rangeAnswer i (.queued lpn) info) s =
          .next (t.onMu fun w => MU.tellAll i lpn .notHeld e.waiters (w.mod fun m => { m with queue := rest }))) ∧
      ∀ h k rec, info.state = .opened ∨ info.state = .sealed → info.head = some h → info.tail = some k →
        info.tailRec = some rec →
        ((lpn < h ∨ k < lpn) → exec (.rangeAnswer i (.queued lpn) info) s =
          .next (t.onMu fun w => MU.tellAll i lpn .notHeld e.waiters (w.mod fun m => { m with queue := rest }))) ∧
        (∀ l, h ≤ lpn → lpn ≤ k → t.mu.cached i lpn = some l → exec (.rangeAnswer i (.queued lpn) info) s =
          .next (t.onMu fun w => MU.tellAll i lpn (.found lpn l.record) e.waiters (w.mod fun m => { m with
            queue := rest
            cache := l :: m.cache.filter fun x => !decide (x.stream = i ∧ x.lpn = lpn)
            counters := { m.counters with hits := min 4294967295 (m.counters.hits + e.waiters.length) } }))) ∧
        (h ≤ lpn → lpn ≤ k → t.mu.cached i lpn = none →
          (∀ w : TrackerId, t.mu.trackers[w] = none → (∀ j < w, t.mu.trackers[j] ≠ none) →
            ∃ op, exec (.rangeAnswer i (.queued lpn) info) s = .next ({ t with mu := { t.mu with
                queue := rest
                counters := { t.mu.counters with walks := min 4294967295 (t.mu.counters.walks + 1) }
                trackers := t.mu.trackers.set w (some ⟨i, lpn, e.waiters, false⟩) } }.post (.core .mu)
              [.mpOperationIssue op]) ∧
            op.ref = .walkRead w ∧ op.len = 16 ∧ addressOf op = i.val * 16384 + lpn % 1024 * 16) ∧
          ((∀ w : TrackerId, t.mu.trackers[w] ≠ none) → exec (.rangeAnswer i (.queued lpn) info) s =
            .next { t with mu := { t.mu with queue := { e with asking := false, answer := none } :: rest } })))) ∧
  (∀ (i j : StreamId) (lpn : Lpn) (a info : RangeInfo) (e x : QueueEntry) (rest : List QueueEntry) (s t : State),
    Takes (.rangeAnswer i (.queued lpn) info) s t → t.mu.queue = e :: x :: rest → e.stream = i → e.lpn = lpn →
    e.asking = true → (x.stream ≠ i ∨ x.lpn ≠ lpn) → x.answer = some a → x.stream = j →
    (∀ y ∈ rest, (y.stream ≠ i ∨ y.lpn ≠ lpn) ∧ (y.stream ≠ j ∨ y.lpn ≠ x.lpn) ∧ y.answer = none) →
    (info.state = .absent ∨ info.state = .deleting) → (a.state = .absent ∨ a.state = .deleting) →
    exec (.rangeAnswer i (.queued lpn) info) s = .next (t.onMu fun w =>
      MU.tellAll j x.lpn .gone x.waiters
        ((MU.tellAll i lpn .gone e.waiters (w.mod fun m => { m with queue := x :: rest })).mod fun m =>
          { m with queue := rest }))) ∧
  (∀ (i : StreamId) (lpn : Lpn) (info : RangeInfo) (s t : State), Takes (.rangeAnswer i (.queued lpn) info) s t →
    (∀ e ∈ t.mu.queue, e.stream = i → e.lpn = lpn → e.asking = false) →
    exec (.rangeAnswer i (.queued lpn) info) s = .next t)) ∧
  (∀ (w : TrackerId) (bytes : List Byte) (k : Tracker) (v : Work MU) (s t : State), Takes (.walkDone w bytes) s t →
    t.mu.trackers[w] = some k →
    v = MU.tellAll k.stream k.lpn (if (slotRecord bytes).ppn ≠ 0 then .found k.lpn (slotRecord bytes) else .notHeld)
      k.waiters (Work.start t.mu) →
    ∃ u, exec (.walkDone w bytes) s = .next u ∧ OnlyMu t u ∧ u.mu.trackers = t.mu.trackers.set w none ∧
      SendsFirst (.core .mu) t u (v.out ++ (if t.mu.owed then [Instr.trackerFreeReport] else []) ++
        (match t.mu.queue.find? fun e => !e.asking with
         | some e => [Instr.rangeQuestion e.stream (.queued e.lpn)]
         | none => []) ++
        v.st.waiting.filterMap fun q => (v.st.search q).bind fun x => x.probe.map fun lpn =>
          Instr.rangeQuestion x.stream (.lookup lpn (.probe q))) ∧
      u.mu.owed = false ∧ u.mu.waiting = [] ∧
      (t.mu.clearDue[k.stream] = true → t.mu.writes[k.stream] = 0 →
        (∀ j x, j ≠ w → t.mu.trackers[j] = some x → x.stream ≠ k.stream) →
        u.mu.clearDue[k.stream] = false ∧ ∃ ms, Sends (.core .mu) t u (ms ++ [.streamClearReport k.stream])) ∧
      (∀ b rest, k.waiters = .delivery b :: rest → SendsFirst (.core .mu) t u
        [.lookupAnswer b (if (slotRecord bytes).ppn ≠ 0 then .found k.lpn (slotRecord bytes) else .notHeld)]) ∧
      ((slotRecord bytes).ppn ≠ 0 → k.noFill = false → ∃ l rest, u.mu.cache = l :: rest ∧ l.stream = k.stream ∧
        l.lpn = k.lpn ∧ l.record = slotRecord bytes) ∧
      (((slotRecord bytes).ppn = 0 ∨ k.noFill = true) → u.mu.cache = t.mu.cache)) ∧
  (∀ (i : StreamId) (lpn : Lpn) (rec : MapRec) (m : MU),
    (∀ l, m.cached i lpn = some l → MU.fill i lpn rec m =
      { m with cache := { l with record := rec } :: m.cache.filter fun x => !decide (x.stream = i ∧ x.lpn = lpn) }) ∧
    (m.cached i lpn = none →
      (∀ n : Fin 32, (∀ l ∈ m.cache, l.num ≠ n) → (∀ k < n, ∃ l ∈ m.cache, l.num = k) → MU.fill i lpn rec m =
        { m with cache := ⟨n, i, lpn, rec⟩ :: m.cache
                 counters := { m.counters with fills := min 4294967295 (m.counters.fills + 1) } }) ∧
      (∀ old front, (∀ k : Fin 32, ∃ l ∈ m.cache, l.num = k) → m.cache = front ++ [old] → MU.fill i lpn rec m =
        { m with cache := ⟨old.num, i, lpn, rec⟩ :: front
                 counters := { m.counters with fills := min 4294967295 (m.counters.fills + 1)
                                               evictions := min 4294967295 (m.counters.evictions + 1) } })))

/-- Searches and head reads (R57, R58, R59, R134): a lookup by sequence is counted and asks SD for the range; its range answer ends
the search GONE, NONE, BELOW, by the tail record, or begins the halving of the closed pages with the middle one; a probe found
narrows the range and probes on, or ends the search by the best page; one NOT_HELD begins the search again, one GONE ends it. A
head read asks for the range too, and RU is told no page, the tail record, the cached record of the head or the one the 16-byte
read of its slot brings.

The delete order (R60), MAP_FLUSH (R61) and MAP_STATUS (R62) at MU. The delete order answers the stream's waiters and searches
GONE (by tracker, then queue, then search: the model's choice, log entry 54), takes its entries out of the cache and the queue,
and marks its walks; MU reports the stream clear at once where no walk or map write of it is in flight, and later otherwise. -/
def Obligations.SearchDeleteAndMapRequestResults : Prop :=
  ((∀ (i : StreamId) (q : Seq) (r : Searcher) (s t : State), Takes (.lookupBySequence i q r) s t →
    ∃ u, exec (.lookupBySequence i q r) s = .next u ∧ OnlyMu t u ∧
      u.mu.counters.searches = min 4294967295 (t.mu.counters.searches + 1) ∧ u.mu.search r = some ⟨r, i, q, 0, 0, none, none⟩ ∧
      (∀ r', r' ≠ r → u.mu.search r' = t.mu.search r') ∧
      u.mu.cache = t.mu.cache ∧ Sends (.core .mu) t u [.rangeQuestion i (.search r)]) ∧
  (∀ (i : StreamId) (r : Searcher) (x : Search) (info : RangeInfo) (ends : MapAnswer → Work MU → Work MU) (s t : State),
    (∀ a w, ends a w = ⟨{ w.st with
        searches := w.st.searches.filter fun y : Search => decide (y.who ≠ r)
        waiting := w.st.waiting.filter fun y : Searcher => decide (y ≠ r) },
      w.out ++ [match r with | .delivery b => .lookupAnswer b a | .positioning c => .searchAnswer c a]⟩) →
    (Takes (.rangeAnswer i (.search r) info) s t → t.mu.search r = some x → x.stream = i → x.probe = none →
      ((info.state = .absent ∨ info.state = .deleting) →
        exec (.rangeAnswer i (.search r) info) s = .next (t.onMu (ends .gone))) ∧
      ((info.state = .opened ∨ info.state = .sealed) → (info.head = none ∨ info.tail = none ∨ info.tailRec = none) →
        exec (.rangeAnswer i (.search r) info) s = .next (t.onMu (ends .nothing))) ∧
      ∀ h k rec, (info.state = .opened ∨ info.state = .sealed) → info.head = some h → info.tail = some k →
        info.tailRec = some rec →
        (rec.firstSeq ≠ 0 → rec.firstSeq ≤ x.q → exec (.rangeAnswer i (.search r) info) s =
          .next (t.onMu (ends (if x.q ≤ rec.lastSeq then .found k rec else .above)))) ∧
        (rec.firstSeq = 0 → h = k → exec (.rangeAnswer i (.search r) info) s = .next (t.onMu (ends .nothing))) ∧
        (x.q < rec.firstSeq → h = k → exec (.rangeAnswer i (.search r) info) s = .next (t.onMu (ends .below))) ∧
        (rec.firstSeq = 0 ∨ x.q < rec.firstSeq → h < k → exec (.rangeAnswer i (.search r) info) s =
          .next ({ t with mu := { t.mu with
              counters := { t.mu.counters with lookups := min 4294967295 (t.mu.counters.lookups + 1) }
              searches := t.mu.searches.map fun y : Search => if y.who = r then
                { x with lo := h, stop := k, best := none, probe := some ((h + k - 1) / 2) } else y } }.post (.core .mu)
            [.rangeQuestion i (.lookup ((h + k - 1) / 2) (.probe r))]))) ∧
    (∀ (w : Work MU) (lpn : Lpn), w.st.search r = some x → x.stream = i → x.probe = some lpn →
      (∀ l rec best lo stop, (rec.firstSeq ≤ x.q ∧ best = some (lpn, rec) ∧ lo = lpn + 1 ∧ stop = x.stop) ∨
          (x.q < rec.firstSeq ∧ best = x.best ∧ lo = x.lo ∧ stop = lpn) →
        (lo < stop → MU.probed r i lpn (.found l rec) w = ⟨{ w.st with
            counters := { w.st.counters with lookups := min 4294967295 (w.st.counters.lookups + 1) }
            searches := w.st.searches.map fun y : Search => if y.who = r then
              { x with lo := lo, stop := stop, best := best, probe := some ((lo + stop - 1) / 2) } else y },
          w.out ++ [.rangeQuestion i (.lookup ((lo + stop - 1) / 2) (.probe r))]⟩) ∧
        (stop ≤ lo → (best = none → MU.probed r i lpn (.found l rec) w = ends .below w) ∧
          ∀ p y, best = some (p, y) → MU.probed r i lpn (.found l rec) w =
            ends (if x.q ≤ y.lastSeq then .found p y else .above) w)) ∧
      MU.probed r i lpn .gone w = ends .gone w ∧
      MU.probed r i lpn .notHeld w = ⟨{ w.st with searches := w.st.searches.map fun y : Search =>
          if y.who = r then { y with best := none, probe := none } else y },
        w.out ++ [.rangeQuestion i (.search r)]⟩)) ∧
  (∀ (i : StreamId) (why : HeadWhy) (tell : HeadAnswer → Instr) (s t : State),
    (∀ h, tell h = match why with
      | .evaluation => .evaluationAnswer i (.head h)
      | .recycle => .recycleHeadAnswer i h
      | .teardown => .teardownHeadAnswer i h) →
    (Takes (.headRead i why) s t →
      exec (.headRead i why) s = .next (t.post (.core .mu) [.rangeQuestion i (.headRead why)])) ∧
    (∀ info, Takes (.rangeAnswer i (.headRead why) info) s t →
      ((info.head = none ∨ info.tail = none ∨ info.tailRec = none) →
        exec (.rangeAnswer i (.headRead why) info) s = .next (t.post (.core .mu) [tell ⟨info.state, none⟩])) ∧
      ∀ h k rec, info.head = some h → info.tail = some k → info.tailRec = some rec →
        (k ≤ h → exec (.rangeAnswer i (.headRead why) info) s =
          .next (t.post (.core .mu) [tell ⟨info.state, some ⟨h, k, rec⟩⟩])) ∧
        (∀ l, h < k → t.mu.cached i h = some l → exec (.rangeAnswer i (.headRead why) info) s =
          .next (t.post (.core .mu) [tell ⟨info.state, some ⟨h, k, { l.record with closed := true }⟩⟩])) ∧
        (h < k → t.mu.cached i h = none → ∃ op, exec (.rangeAnswer i (.headRead why) info) s =
            .next (t.post (.core .mu) [.mpOperationIssue op]) ∧
          op.ref = .headRead i why info.state h k ∧ op.len = 16 ∧ addressOf op = i.val * 16384 + h % 1024 * 16)) ∧
    (∀ st h k bytes, Takes (.headReadDone i why st h k bytes) s t → exec (.headReadDone i why st h k bytes) s =
      .next (t.post (.core .mu) [tell ⟨st, some ⟨h, k, slotRecord bytes⟩⟩])))) ∧
  ((∀ (i : StreamId) (s t : State), Takes (.deleteOrderAtMu i) s t →
    ∃ u, exec (.deleteOrderAtMu i) s = .next u ∧ OnlyMu t u ∧
      SendsFirst (.core .mu) t u (goneReplies (t.mu.waitersOf i) ++
        (t.mu.searches.filter fun x => decide (x.stream = i)).map fun x => match x.who with
          | .delivery b => .lookupAnswer b .gone
          | .positioning c => .searchAnswer c .gone) ∧
      ((∀ e ∈ t.mu.queue, e.stream ≠ i → e.answer = none) →
        u.mu.cache = (t.mu.cache.filter fun l => decide (l.stream ≠ i)) ∧
        u.mu.queue = (t.mu.queue.filter fun e => decide (e.stream ≠ i)) ∧
        u.mu.searches = (t.mu.searches.filter fun x => decide (x.stream ≠ i)) ∧
        (∀ (w : TrackerId) (k : Tracker), t.mu.trackers[w] = some k →
          u.mu.trackers[w] = some (if k.stream = i then { k with waiters := [], noFill := true } else k)) ∧
        (t.mu.writes[i] = 0 → (∀ (w : TrackerId) (k : Tracker), t.mu.trackers[w] = some k → k.stream ≠ i) →
          u.mu.clearDue[i] = false ∧ ∃ ms, Sends (.core .mu) t u (ms ++ [.streamClearReport i])) ∧
        ((t.mu.writes[i] ≠ 0 ∨ ∃ (w : TrackerId) (k : Tracker), t.mu.trackers[w] = some k ∧ k.stream = i) →
          u.mu.clearDue[i] = true))) ∧
  (∀ (r : Req) (s t : State), Takes (.mapFlush r) s t → t.body r = [] →
    ∃ u, exec (.mapFlush r) s = .next u ∧ OnlyMu t u ∧ u.mu.cache = [] ∧ u.mu.queue = t.mu.queue ∧
      u.mu.searches = t.mu.searches ∧ u.mu.waiting = t.mu.waiting ∧ u.mu.owed = t.mu.owed ∧
      u.mu.writes = t.mu.writes ∧ u.mu.clearDue = t.mu.clearDue ∧
      u.mu.counters = { t.mu.counters with
        invalidations := min 4294967295 (t.mu.counters.invalidations + t.mu.cache.length)
        flushes := min 4294967295 (t.mu.counters.flushes + 1) } ∧
      (∀ (w : TrackerId) (k : Tracker), t.mu.trackers[w] = some k → u.mu.trackers[w] = some { k with noFill := true }) ∧
      (∀ w : TrackerId, t.mu.trackers[w] = none → u.mu.trackers[w] = none) ∧
      Sends (.core .mu) t u [.answerArrival r.sess.port r.slot okAnswer]) ∧
  (∀ (r : Req) (clear : Bool) (s t : State), Takes (.mapStatus r) s t → clearBody (t.body r) = .ok clear →
    exec (.mapStatus r) s = .next ({ t with mu := if clear then t.mu.onCounters fun _ =>
          ⟨0, 0, 0, 0, 0, 0, 0, 0, 0, 0, 0, 0, 0, 0⟩ else t.mu }.post (.core .mu)
      [.answerArrival r.sess.port r.slot ⟨.ok, 0, .map t.mu.cache.length
        (t.mu.trackers.toList.countP Option.isSome) t.mu.queue.length t.mu.counters⟩])))

/-! ### The Append Engine -/

/-- An APPEND that passes its checks joins the tail of the queue, WAITING and not yet admitted, and asks SD; a full queue is
answered BUSY (R68, R69). -/
def Obligations.AppendArrivalResult : Prop :=
  ∀ (r : Req) (i : StreamId) (payload : List Byte) (s t : State), Takes (.append r) s t →
    appendBody (t.body r) = .ok (i.val, payload) →
    ((payload.length = 0 ∨ 1536 < payload.length) → exec (.append r) s =
      .next (t.post (.core .ae) [.answerArrival r.sess.port r.slot ⟨.outOfRange, 2, .empty⟩])) ∧
    (1 ≤ payload.length → payload.length ≤ 1536 →
      (16 ≤ t.ae.queue.length → exec (.append r) s =
        .next (t.post (.core .ae) [.answerArrival r.sess.port r.slot ⟨.busy, 0, .empty⟩])) ∧
      (t.ae.queue.length < 16 → exec (.append r) s =
        .next ({ t with ae := { t.ae with queue := t.ae.queue ++
            [({ req := r, stream := i, size := 16 + (payload.length + 7) / 8 * 8, admitted := false, state := .waiting,
                recycled := false, marked := false, seq := 0, stamp := 0, page := 0, offset := 0 } : Job)] } }.post (.core .ae)
          [.admission i r])))

/-- SD's answers to an APPEND at the head of the queue (R68, R71, R72, R77, R81): admitted, it asks for its place; placed with room
in the open tail page, it takes the next sequence and the clock and issues its entry write at the fill of the page; without a
page it requests one of PP; for a DELETING stream it is answered GONE, for a SEALED one SEALED or SEQ_EXHAUSTED by the cause, with
appends-refused raised, or GONE without it where a delete order has marked the APPEND (R82), and it leaves. The counter update
ahead of the answer is the model's choice (log entry 75), an owed seal answer between answer and append leave its reading (log
entry 23). In RESTARTING AE sends until its abandon order (the model's choice, log entry 80). The entry write is as long as the
APPEND's stored size; it is the entry of the payload in the slot where that has this stored size, as it has until the teardown
frees the slot (what it is after that: the model's choice, log entry 60). -/
def Obligations.AppendPlacingResults : Prop :=
  (∀ (r : Req) (j : Job) (rest : List Job) (s t : State), Takes (.admissionAnswer r true) s t →
    t.ae.queue = j :: rest → j.req = r → j.admitted = false → j.state = .waiting → (∀ x ∈ rest, x.req ≠ r) →
    exec (.admissionAnswer r true) s =
      .next ({ t with ae := { t.ae with queue := { j with admitted := true, state := .placing } :: rest } }.post (.core .ae)
        [.placeQuestion j.stream])) ∧
  (∀ (r : Req) (j : Job) (rest : List Job) (s t : State), Takes (.admissionAnswer r false) s t →
    t.ae.queue = j :: rest → j.req = r → j.admitted = false → ∃ u, exec (.admissionAnswer r false) s = .next u ∧
      OnlyAe t u ∧ SendsFirst (.core .ae) t u [.answerArrival r.sess.port r.slot ⟨.noStream, 0, .empty⟩]) ∧
  (∀ (i : StreamId) (info : PlaceInfo) (rec : MapRec) (j : Job) (rest : List Job) (s t : State),
    Takes (.placeAnswer i info) s t → HeadIs t .placing i j rest → info.state = .opened →
    info.tailRec = some rec → rec.closed = false → t.ae.fills[i] + j.size ≤ 2048 →
    ∃ op, exec (.placeAnswer i info) s =
      .next ({ t with ae := { t.ae with queue := { j with state := .writing, seq := info.committed + 1, stamp := t.tb.clock,
                                                           page := rec.ppn, offset := t.ae.fills[i] } :: rest } }.post
        (.core .ae) [.mpOperationIssue op]) ∧
      op.ref = .entryWrite ∧ op.page = rec.ppn ∧ op.offset = t.ae.fills[i] ∧ op.len = j.size ∧ op.data.length = j.size ∧
      (storedSize t.headPayload.length = j.size →
        op.data = entryBytes (info.committed + 1) t.tb.clock t.headPayload)) ∧
  (∀ (i : StreamId) (info : PlaceInfo) (j : Job) (rest : List Job) (s t : State),
    Takes (.placeAnswer i info) s t → HeadIs t .placing i j rest → info.state = .opened →
    (info.tailRec = none ∨ ∃ rec, info.tailRec = some rec ∧ rec.closed = true) →
    exec (.placeAnswer i info) s =
      .next ({ t with ae := { t.ae with queue := { j with state := .allocating, seq := info.committed + 1 } :: rest } }.post
        (.core .ae) [.allocationRequest i])) ∧
  (∀ (i : StreamId) (info : PlaceInfo) (rec : MapRec) (j : Job) (rest : List Job) (s t : State),
    Takes (.placeAnswer i info) s t → HeadIs t .placing i j rest → info.state = .opened →
    info.tailRec = some rec → rec.closed = false → 2048 < t.ae.fills[i] + j.size →
    exec (.placeAnswer i info) s =
      .next ({ t with ae := { t.ae with queue := { j with state := .allocating, seq := info.committed + 1 } :: rest } }.post
        (.core .ae) ([Instr.pageClose i] ++
          (if t.ae.fills[i] ≤ 2032 then
            [Instr.mpOperationIssue ⟨.padWrite, rec.ppn, t.ae.fills[i], 16, padBytes (2048 - t.ae.fills[i])⟩]
           else []) ++ [Instr.allocationRequest i]))) ∧
  (∀ (i : StreamId) (info : PlaceInfo) (j : Job) (rest : List Job) (s t : State), Takes (.placeAnswer i info) s t →
    HeadIs t .placing i j rest →
    ((info.state = .deleting ∨ (info.state = .sealed ∧ j.marked = true)) → ∃ u, exec (.placeAnswer i info) s = .next u ∧
      u.ae.fills = t.ae.fills ∧ u.ae.episode = t.ae.episode ∧
      AppendLeaves t u i rest [.answerArrival j.req.sess.port j.req.slot ⟨.gone, 0, .empty⟩]) ∧
    (info.state = .sealed → j.marked = false → ∃ u, exec (.placeAnswer i info) s = .next u ∧
      u.ae.fills = t.ae.fills ∧ u.ae.episode = t.ae.episode ∧
      AppendLeaves t u i rest [.counterUpdate i .refused, .answerArrival j.req.sess.port j.req.slot
        ⟨if info.sealCause = .exhausted then .seqExhausted else .sealed, 0, .empty⟩]))

/-- A page obtained, by a grant or a recycle, is opened as the new tail page and the APPEND writes at its start, with the
clock of that moment (R73, R76, R77), its stored size long: the entry of the payload in the slot where that has this stored size,
as it has until the teardown frees the slot (what it is after that: the model's choice, log entry 60).

An APPEND without a page (R74, R75, R76, R81): AE asks SD; a marked APPEND, or one whose stream is DELETING by then (or ABSENT,
which cannot arise: the model's reading, log entry 76), is answered GONE and leaves uncounted; under DROP_OLDEST with head_lpn
below tail_lpn it asks RU once for a recycle; otherwise it is answered FULL, and STREAM_FULL is raised once in an episode; NO_PAGE
makes it request again. STREAM_FULL ahead of the counter update and of the answer is the model's choice (log entry 75), an owed
seal answer between the answer and the append leave its reading (log entry 23). In RESTARTING AE sends until its abandon order
(the model's choice, log entry 80). -/
def Obligations.AppendAllocationResults : Prop :=
  (∀ (c : Instr) (i : StreamId) (ppn : Ppn) (j : Job) (rest : List Job) (s t : State), Takes c s t →
    ((c = .allocationGrant i ppn ∧ HeadIs t .allocating i j rest) ∨
      (c = .recycledPage i ppn ∧ HeadIs t .recycling i j rest)) →
    ∃ op, exec c s = .next ({ t with ae := { t.ae with
        queue := { j with state := .writing, stamp := t.tb.clock, page := ppn, offset := 0 } :: rest
        fills := t.ae.fills.set i 0 } }.post (.core .ae) [.pageOpen i ppn, .mpOperationIssue op]) ∧
      op.ref = .entryWrite ∧ op.page = ppn ∧ op.offset = 0 ∧ op.len = j.size ∧ op.data.length = j.size ∧
      (storedSize t.headPayload.length = j.size → op.data = entryBytes j.seq t.tb.clock t.headPayload)) ∧
  ((∀ (i : StreamId) (cause : Cause) (j : Job) (rest : List Job) (s t : State), Takes (.allocationRefusal i cause) s t →
    HeadIs t .allocating i j rest →
    exec (.allocationRefusal i cause) s = .next (t.post (.core .ae) [.refusalQuestion i])) ∧
  (∀ (i : StreamId) (info : RefusalInfo) (h k : Lpn) (j : Job) (rest : List Job) (s t : State),
    Takes (.refusalAnswer i info) s t → HeadIs t .allocating i j rest →
    (info.state = .opened ∨ info.state = .sealed) → j.marked = false → info.head = some h → info.tail = some k →
    info.policy = .dropOldest → h < k → j.recycled = false → exec (.refusalAnswer i info) s =
      .next ({ t with ae := { t.ae with queue := { j with state := .recycling, recycled := true } :: rest } }.post
        (.core .ae) [.recycleRequest i])) ∧
  (∀ (i : StreamId) (info : RefusalInfo) (j : Job) (rest : List Job) (s t : State),
    Takes (.refusalAnswer i info) s t → HeadIs t .allocating i j rest →
    (info.state = .opened ∨ info.state = .sealed) → j.marked = false →
    (info.policy = .hold ∨ j.recycled = true ∨ ∀ h k, info.head = some h → info.tail = some k → k ≤ h) →
    ∃ u, exec (.refusalAnswer i info) s = .next u ∧ u.ae.episode = t.ae.episode.set i true ∧ u.ae.fills = t.ae.fills ∧
      AppendLeaves t u i rest
        ((if t.ae.episode[i] then [] else [Instr.noticeEvent ⟨.streamFull, some i, none, none, none⟩]) ++
          [Instr.counterUpdate i .refused, Instr.answerArrival j.req.sess.port j.req.slot ⟨.full, 0, .empty⟩])) ∧
  (∀ (i : StreamId) (info : RefusalInfo) (j : Job) (rest : List Job) (s t : State),
    Takes (.refusalAnswer i info) s t → HeadIs t .allocating i j rest →
    (info.state = .deleting ∨ info.state = .absent ∨ j.marked = true) →
    ∃ u, exec (.refusalAnswer i info) s = .next u ∧ u.ae.episode = t.ae.episode ∧ u.ae.fills = t.ae.fills ∧
      AppendLeaves t u i rest [.answerArrival j.req.sess.port j.req.slot ⟨.gone, 0, .empty⟩]) ∧
  (∀ (i : StreamId) (j : Job) (rest : List Job) (s t : State), Takes (.noPage i) s t →
    HeadIs t .recycling i j rest → exec (.noPage i) s =
      .next ({ t with ae := { t.ae with queue := { j with state := .allocating } :: rest } }.post (.core .ae)
        [.allocationRequest i])))

/-- The completions (R67, R77, R81): the entry write's raises the fill, ends the STREAM_FULL episode, commits, answers OK with the
sequence and timestamp, or GONE where a delete order has marked the APPEND (R82), an owed seal order is answered
(R81; its place ahead of the append leave is the model's reading, log entry 23), and the APPEND leaves; the pad write's changes
nothing.

Seal and delete orders at AE (R81, R82): a seal order is answered at once, or is owed while an APPEND of the stream is past
WAITING, and then sent when that APPEND leaves; a delete order answers the admitted waiting APPENDs of the stream GONE (in queue
order, each answer ahead of its append leave: the model's choice, log entry 67) and marks the one past WAITING. In RESTARTING AE
sends until its abandon order (the model's choice, log entry 80). -/
def Obligations.AppendEndResults : Prop :=
  ((∀ (j : Job) (rest : List Job) (s t : State), Takes .entryWriteDone s t → t.ae.queue = j :: rest →
    j.state = .writing → ∃ u, exec .entryWriteDone s = .next u ∧
      u.ae.fills = (upd t.ae.fills j.stream fun n => n + j.size) ∧ u.ae.episode = t.ae.episode.set j.stream false ∧
      AppendLeaves t u j.stream rest [.commit j.stream j.seq j.stamp,
        .answerArrival j.req.sess.port j.req.slot
          (if j.marked then ⟨.gone, 0, .empty⟩ else ⟨.ok, 0, .append j.seq j.stamp⟩)]) ∧
  (∀ s t : State, Takes .padWriteDone s t → exec .padWriteDone s = .next t)) ∧
  ((∀ (i : StreamId) (s t : State), Takes (.sealOrder i) s t →
    (t.ae.busyOn i = false → exec (.sealOrder i) s = .next (t.post (.core .ae) [.sealAnswer i])) ∧
    (t.ae.busyOn i = true → exec (.sealOrder i) s =
      .next { t with ae := { t.ae with sealOwed := t.ae.sealOwed.set i true } })) ∧
  (∀ (i : StreamId) (s t : State), Takes (.deleteOrderAtAe i) s t → ∃ u, exec (.deleteOrderAtAe i) s = .next u ∧
    OnlyAe t u ∧ u.ae.episode = t.ae.episode.set i false ∧ u.ae.fills = t.ae.fills ∧
    SendsFirst (.core .ae) t u ((t.ae.queue.filter fun j => j.stream = i && j.admitted && j.state = .waiting).flatMap
      fun j => [.answerArrival j.req.sess.port j.req.slot ⟨.gone, 0, .empty⟩, .appendLeave i]) ∧
    ∀ j ∈ t.ae.queue, j.stream = i → j.state ≠ .waiting → { j with marked := true } ∈ u.ae.queue))

/-! ### The Retention Unit -/

/-- Triggers and the three answers of an evaluation (R132, R133, R136 to R139, R143). A trigger asks SD, MU and DE of an idle
record, and else sets reevaluate. An answer is kept until all three are in; the last decides. One that meets a record that is
not EVALUATING changes nothing: no question waits for it (the model's reading, DEDUCED, log entry 39). A head page that may go and
lies below the floor of the cursors begins a NORMAL release; one that may go and is past its age an AGE release; m is one above its
last sequence. Where there is no such page, or the stream is DELETING or ABSENT, none begins: the teardown goes on, else a wanted
recycle, else, unless the stream is DELETING, an evaluation that is to be made again; else the record goes IDLE. -/
def Obligations.EvaluationResults : Prop :=
  (∀ (i : StreamId) (s t : State), Takes (.evaluationTrigger i) s t →
    (t.ru.recs[i].phase = .idle → t.ru.recs[i].teardown = false → t.ru.recs[i].recycleWanted = false →
      ∃ u, exec (.evaluationTrigger i) s = .next u ∧ OnlyRu t u ∧ u.ru.recs[i].phase = .evaluating ∧
        u.ru.recs[i].reevaluate = false ∧
        Sends (.core .ru) t u [.viewQuestion i, .headRead i .evaluation, .floorQuestion i]) ∧
    (t.ru.recs[i].phase ≠ .idle ∨ t.ru.recs[i].teardown = true ∨ t.ru.recs[i].recycleWanted = true →
      exec (.evaluationTrigger i) s = .next { t with ru := t.ru.on i fun r => { r with reevaluate := true } })) ∧
  (∀ (i : StreamId) (part : EvalPart) (s t : State), Takes (.evaluationAnswer i part) s t →
    (t.ru.recs[i].phase ≠ .evaluating → exec (.evaluationAnswer i part) s = .next t) ∧
    (t.ru.recs[i].phase = .evaluating →
      ((Release.take part t.ru.recs[i]).view = none ∨ (Release.take part t.ru.recs[i]).head = none ∨
        (Release.take part t.ru.recs[i]).floor = none) →
      exec (.evaluationAnswer i part) s = .next { t with ru := t.ru.on i (Release.take part) })) ∧
  (∀ (i : StreamId) (part : EvalPart) (v : ViewInfo) (st : StreamState) (p : HeadPage) (f : Option Seq) (k : RelKind)
      (s t : State), Takes (.evaluationAnswer i part) s t → t.ru.recs[i].phase = .evaluating →
    (Release.take part t.ru.recs[i]).view = some v → (Release.take part t.ru.recs[i]).head = some ⟨st, some p⟩ →
    (Release.take part t.ru.recs[i]).floor = some f → (v.state = .opened ∨ v.state = .sealed) → MayBeReleased v p →
    ((k = .normal ∧ p.record.lastSeq < normalBound v f) ∨
      (k = .age ∧ normalBound v f ≤ p.record.lastSeq ∧ PastItsAge t.tb.clock v p)) →
    ∃ u, exec (.evaluationAnswer i part) s = .next u ∧ OnlyRu t u ∧ (∀ x, x ≠ i → u.ru.recs[x] = t.ru.recs[x]) ∧
      u.ru.recs[i].phase = .marking ∧ u.ru.recs[i].kind = some k ∧ u.ru.recs[i].m = some (p.record.lastSeq + 1) ∧
      u.ru.recs[i].page = some ⟨p.head, p.record.ppn, p.record.firstSeq, p.record.lastSeq⟩ ∧
      Sends (.core .ru) t u [.releaseMarkSet i (p.record.lastSeq + 1)]) ∧
  (∀ (i : StreamId) (part : EvalPart) (v : ViewInfo) (h : HeadAnswer) (f : Option Seq) (s t : State),
    Takes (.evaluationAnswer i part) s t → t.ru.recs[i].phase = .evaluating →
    (Release.take part t.ru.recs[i]).view = some v → (Release.take part t.ru.recs[i]).head = some h →
    (Release.take part t.ru.recs[i]).floor = some f →
    (v.state = .deleting ∨ v.state = .absent ∨
      ∀ p, h.page = some p → ¬ MayBeReleased v p ∨
        (normalBound v f ≤ p.record.lastSeq ∧ ¬ PastItsAge t.tb.clock v p)) →
    ∃ u, exec (.evaluationAnswer i part) s = .next u ∧ OnlyRu t u ∧ (∀ x, x ≠ i → u.ru.recs[x] = t.ru.recs[x]) ∧
      u.ru.recs[i].kind = none ∧ u.ru.recs[i].page = none ∧
      u.ru.recs[i].phase =
        (if nextOfRelease i t.ru.recs[i] (v.state ≠ .deleting && t.ru.recs[i].reevaluate) = [] then .idle
         else .evaluating) ∧
      Sends (.core .ru) t u (nextOfRelease i t.ru.recs[i] (v.state ≠ .deleting && t.ru.recs[i].reevaluate)))

/-- The steps of a release in their order (R139 to R142): mark set, advance order, head raise, slot clear, hand-over. A release
of kind AGE or RECYCLE counts the entries it drops at SD, behind the head raise (that order: the model's choice, log entry 71).

The end of a release (R140, R143): the page returned, or the advance order refused, clears the release mark, which a DELETE
release has not set; the teardown goes on with the next head read where there is one, else a wanted recycle, else the next
evaluation of a stream that is not DELETING (read at SD in the same step: log entry 37). In RESTARTING RU sends until its abandon
order (the model's choice, log entry 80). -/
def Obligations.ReleaseResults : Prop :=
  (∀ (i : StreamId) (m : Seq) (k : RelKind) (p : RelPage) (s t : State), t.ru.recs[i].m = some m →
    t.ru.recs[i].kind = some k → t.ru.recs[i].page = some p →
    (Takes (.releaseMarkSetAnswer i) s t → t.ru.recs[i].phase = .marking → exec (.releaseMarkSetAnswer i) s =
      .next ({ t with ru := t.ru.on i fun r => { r with phase := .advancing } }.post (.core .ru) [.advanceOrder i m k])) ∧
    (Takes (.advanceOrderAnswer i true) s t → t.ru.recs[i].phase = .advancing → k ≠ .delete →
      exec (.advanceOrderAnswer i true) s =
      .next ({ t with ru := t.ru.on i fun r => { r with phase := .raising } }.post (.core .ru)
        ([Instr.headRaise i m] ++ if k = RelKind.normal then [] else
          [Instr.counterUpdate i (.dropped (if p.firstSeq = 0 then 0 else p.lastSeq + 1 - p.firstSeq))]))) ∧
    (Takes (.headRaiseAnswer i) s t → t.ru.recs[i].phase = .raising → exec (.headRaiseAnswer i) s =
      .next ({ t with ru := t.ru.on i fun r => { r with phase := .clearing } }.post (.core .ru) [.slotClear i p.lpn])) ∧
    (Takes (.clearDoneReport i p.lpn) s t → t.ru.recs[i].phase = .clearing → exec (.clearDoneReport i p.lpn) s =
      .next ({ t with ru := t.ru.on i fun r => { r with phase := .returning } }.post (.core .ru)
        [.handOver i p.ppn k]))) ∧
  (∀ (c : Instr) (i : StreamId) (m : Seq) (k : RelKind) (p : RelPage) (s t : State), Takes c s t →
    t.ru.recs[i].m = some m → t.ru.recs[i].kind = some k → t.ru.recs[i].page = some p →
    ((c = .pageReturnedReport i p.ppn ∧ t.ru.recs[i].phase = .returning) ∨
      (c = .advanceOrderAnswer i false ∧ t.ru.recs[i].phase = .advancing ∧ k ≠ .delete)) →
    ∃ u, exec c s = .next u ∧ OnlyRu t u ∧ (∀ x, x ≠ i → u.ru.recs[x] = t.ru.recs[x]) ∧ u.ru.recs[i].page = none ∧
      u.ru.recs[i].kind = none ∧ u.ru.recs[i].teardown = t.ru.recs[i].teardown ∧
      Sends (.core .ru) t u ((if k = .delete then [] else [.releaseMarkClear i]) ++
        nextOfRelease i t.ru.recs[i] (!t.deleting i)))

/-- Recycles and the age scan (R143, R144, R145). A recycle reads the head at once at an idle record, and is wanted else. A head
page below the tail of a stream that is not DELETING is recycled; no page, the tail page or a DELETING stream is NO_PAGE, after
which the head read's state stands for the view and a DELETING stream rests (the model's choice, log entry 59). The scan's
answer triggers every stream it lists, in rising order of the ids (the model's choice, log entry 58).

The teardown of a stream at RU (R146, R147): one head read a page, a DELETE release of each page, and the emptied report once
PP holds nothing for the stream, the record then clear. In RESTARTING RU sends until its abandon order (the model's choice, log
entry 80). -/
def Obligations.RecycleScanAndTeardownResults : Prop :=
  ((∀ (i : StreamId) (s t : State), Takes (.recycleRequest i) s t →
    (t.ru.recs[i].phase = .idle → t.ru.recs[i].teardown = false → ∃ u, exec (.recycleRequest i) s = .next u ∧
      OnlyRu t u ∧ u.ru.recs[i].phase = .evaluating ∧ Sends (.core .ru) t u [.headRead i .recycle]) ∧
    (t.ru.recs[i].phase ≠ .idle ∨ t.ru.recs[i].teardown = true → exec (.recycleRequest i) s =
      .next { t with ru := t.ru.on i fun r => { r with recycleWanted := true } })) ∧
  (∀ (i : StreamId) (h : HeadAnswer) (s t : State), Takes (.recycleHeadAnswer i h) s t →
    t.ru.recs[i].phase = .evaluating →
    (∀ p, h.page = some p → h.state ≠ .deleting → p.head < p.tail →
      ∃ u, exec (.recycleHeadAnswer i h) s = .next u ∧ OnlyRu t u ∧
        u.ru.recs[i].phase = .marking ∧ u.ru.recs[i].kind = some .recycle ∧
        u.ru.recs[i].m = some (p.record.lastSeq + 1) ∧
        u.ru.recs[i].page = some ⟨p.head, p.record.ppn, p.record.firstSeq, p.record.lastSeq⟩ ∧
        Sends (.core .ru) t u [.releaseMarkSet i (p.record.lastSeq + 1)]) ∧
    ((h.state = .deleting ∨ ∀ p, h.page = some p → p.tail ≤ p.head) →
      ∃ u, exec (.recycleHeadAnswer i h) s = .next u ∧ OnlyRu t u ∧ u.ru.recs[i].kind = none ∧ u.ru.recs[i].page = none ∧
        Sends (.core .ru) t u ([.noPage i] ++
          nextOfRelease i t.ru.recs[i] (h.state ≠ .deleting && t.ru.recs[i].reevaluate)))) ∧
  (∀ (d : Tick) (s t : State), Takes (.ageScanExpiry d) s t → t.ru.scan = some d →
    exec (.ageScanExpiry d) s =
      .next ({ t with ru := { t.ru with scan := some (d + 1000) } }.post (.core .ru) [.scanQuestion])) ∧
  (∀ (ids : List StreamId) (s t : State), Takes (.scanAnswer ids) s t → ids.Pairwise (· < ·) →
    (∀ i ∈ ids, t.ru.recs[i].phase = .idle ∧ t.ru.recs[i].teardown = false ∧ t.ru.recs[i].recycleWanted = false) →
    ∃ u, exec (.scanAnswer ids) s = .next u ∧ OnlyRu t u ∧ (∀ i ∈ ids, u.ru.recs[i].phase = .evaluating) ∧
      (∀ i, i ∉ ids → u.ru.recs[i] = t.ru.recs[i]) ∧
      Sends (.core .ru) t u (ids.flatMap fun i => [.viewQuestion i, .headRead i .evaluation, .floorQuestion i]))) ∧
  ((∀ (i : StreamId) (s t : State), Takes (.teardownHandover i) s t →
    (t.ru.recs[i].phase = .idle → ∃ u, exec (.teardownHandover i) s = .next u ∧ OnlyRu t u ∧
      u.ru.recs[i].phase = .evaluating ∧ u.ru.recs[i].teardown = true ∧
      Sends (.core .ru) t u [.headRead i .teardown]) ∧
    (t.ru.recs[i].phase ≠ .idle → exec (.teardownHandover i) s =
      .next { t with ru := t.ru.on i fun r => { r with teardown := true } })) ∧
  (∀ (i : StreamId) (h : HeadAnswer) (s t : State), Takes (.teardownHeadAnswer i h) s t →
    t.ru.recs[i].phase = .evaluating → t.ru.recs[i].teardown = true →
    (h.page = none → exec (.teardownHeadAnswer i h) s = .next (t.post (.core .ru) [.heldQuestion i .ru])) ∧
    ∀ p, h.page = some p → ∃ u, exec (.teardownHeadAnswer i h) s = .next u ∧ OnlyRu t u ∧
      u.ru.recs[i].phase = .raising ∧ u.ru.recs[i].kind = some .delete ∧
      u.ru.recs[i].page = some ⟨p.head, p.record.ppn, p.record.firstSeq, p.record.lastSeq⟩ ∧
      Sends (.core .ru) t u [.headRaise i (p.record.lastSeq + 1)]) ∧
  (∀ (i : StreamId) (s t : State), Takes (.teardownHeldAnswer i 0) s t → t.ru.recs[i].phase = .evaluating →
    t.ru.recs[i].teardown = true → exec (.teardownHeldAnswer i 0) s =
      .next ({ t with ru := t.ru.on i fun _ => ⟨.idle, none, none, none, false, false, false, none, none, none⟩ }.post
        (.core .ru) [.emptiedReport i])))

/-! ### The Delivery Engine: cursors -/

/-- CURSOR_OPEN (R85, R86, R89): with values in range, a session below 16 cursors and a record free, the lowest free record takes
the request's values and its bind is sent; with 16 cursors, or no record free, NO_ROOM.

The session's cursor count and the record that an open takes (R85, R86): the cursors that count for the session, and the lowest
FREE record that nothing reserves.

SD's answer to an open's bind (R90): refused, the record is FREE and the open is answered; granted at HEAD or TAIL, it is
ACTIVE there and answered OK with its id and start; granted at a sequence, it is SEEKING and MU is asked. That TAIL starts at the
grant's committed_seq + 1 even where min_start has risen above that, and that a cursor at a sequence whose session has ended
goes on with its positioning, is the model's choice (log entries 83 and 81). -/
def Obligations.CursorOpenResults : Prop :=
  (∀ (r : Req) (b : OpenBody) (i : StreamId) (st : Start) (s t : State), Takes (.cursorOpen r) s t →
    openBody (t.body r) = .ok b → checkOpen b = .ok (i, st) →
    (16 ≤ t.de.sessionCount r.sess ∨ t.de.lowestFree = none → ∃ u, exec (.cursorOpen r) s = .next u ∧ OnlyDe t u ∧
      u.de.cursors = t.de.cursors ∧ SendsFirst (.core .de) t u
        [.answerArrival r.sess.port r.slot ⟨.noRoom, 0, .empty⟩]) ∧
    (∀ c : CursorId, t.de.sessionCount r.sess < 16 → t.de.lowestFree = some c →
      ∃ u, exec (.cursorOpen r) s = .next u ∧ OnlyDe t u ∧ u.de.cursors = t.de.cursors.set c
        { state := .free, label := b.label, stream := some i, owner := some r.sess, durable := b.durable
          retaining := b.retaining, window := b.window.getD 4, ackTimeout := b.ackTimeout.getD 500
          retryLimit := b.retryLimit.getD 4, ackSeq := 0, nextSeq := 1, deliveredTop := 0, hint := none, list := []
          pendingGap := 0, work := .bind, returnState := none, minStart := 0, endDue := false
          counters := ⟨0, 0, 0, 0⟩, req := some r, start := st, found := none, searchOut := false, waiting := [] } ∧
        SendsFirst (.core .de) t u [.bind i c])) ∧
  (∀ d : DE,
    (∀ sess, d.sessionCount sess = ((List.finRange 64).filter fun c => decide (CountsFor sess d.cursors[c])).length) ∧
    (∀ c : CursorId, d.lowestFree = some c ↔ Unreserved d c ∧ ∀ k < c, ¬ Unreserved d k) ∧
    (d.lowestFree = none ↔ ∀ c : CursorId, ¬ Unreserved d c)) ∧
  (∀ (c : CursorId) (i : StreamId) (r : Req) (s t : State), t.de.cursors[c].work = .bind →
    t.de.cursors[c].stream = some i → t.de.cursors[c].req = some r →
    (∀ st, Takes (.bindAnswer c (.refused st)) s t → ∃ u, exec (.bindAnswer c (.refused st)) s = .next u ∧ OnlyDe t u ∧
      u.de.cursors[c].state = .free ∧ u.de.cursors[c].work = .none ∧ u.de.cursors[c].owner = none ∧
      (∀ d, d ≠ c → u.de.cursors[d] = t.de.cursors[d]) ∧ SendsFirst (.core .de) t u
        [.answerArrival r.sess.port r.slot ⟨st, if st = .noRoom then 1 else 0, .empty⟩]) ∧
    (∀ (h k p : Seq), Takes (.bindAnswer c (.granted h k)) s t →
      ((t.de.cursors[c].start = .head ∧ p = max h t.de.cursors[c].minStart) ∨
        (t.de.cursors[c].start = .tail ∧ p = k + 1)) →
      ∃ u, exec (.bindAnswer c (.granted h k)) s = .next u ∧ OnlyDe t u ∧
        u.de.views[i].committed = max t.de.views[i].committed k ∧
        (∀ d, d ≠ c → u.de.cursors[d] = t.de.cursors[d]) ∧
        SendsFirst (.core .de) t u [.answerArrival r.sess.port r.slot ⟨.ok, 0, .opened c p⟩] ∧
        (t.de.cursors[c].waiting = [] → t.de.cursors[c].endDue = false → u.de.cursors[c] =
          { t.de.cursors[c] with state := .active, work := .none, ackSeq := p - 1, nextSeq := p, deliveredTop := p - 1
                                 list := [], pendingGap := 0, hint := none })) ∧
    (∀ (h k q : Seq) (exact : Bool), Takes (.bindAnswer c (.granted h k)) s t → t.de.cursors[c].start = .at q exact →
      ∃ u, exec (.bindAnswer c (.granted h k)) s = .next u ∧ OnlyDe t u ∧ u.de.cursors[c].state = .seeking ∧
        u.de.cursors[c].work = .search ∧ u.de.cursors[c].searchOut = true ∧ u.de.cursors[c].returnState = none ∧
        SendsFirst (.core .de) t u [.lookupBySequence i q (.positioning c)]))

/-- A positioning (R91, R92, R93). The search's answer leads to the position question; GONE, or an answer that comes when no
search is awaited, ends the search's reservation alone. SD's answer ends the positioning at HEAD, TAIL or the target, exact or
taken to the nearest, with the hint on the found page where the target itself is taken and absent otherwise; the request is
answered, and RU told of a retaining cursor. An exact target out of range is refused: a
seek returns to its state with positions, hint and list kept, detail 4, and stalls where that state is ACTIVE and an entry is
exhausted (R124); an open is answered with detail 10 and its record freed, with the unbind and the floor trigger of a retaining
cursor (the answer ahead of these two: the model's choice, log entry 82). That a TAIL or a target taken to the nearest ends at
committed_seq + 1 even where min_start has risen above that is the model's choice (log entry 83). -/
def Obligations.PositioningResults : Prop :=
  (∀ (c : CursorId) (a : MapAnswer) (i : StreamId) (s t : State), Takes (.searchAnswer c a) s t →
    (t.de.cursors[c].state = .seeking → t.de.cursors[c].work = .search → t.de.cursors[c].stream = some i → a ≠ .gone →
      ∃ u, exec (.searchAnswer c a) s = .next u ∧ OnlyDe t u ∧ u.de.cursors = (upd t.de.cursors c fun x =>
          { x with searchOut := false, work := .position, found := some a }) ∧
        SendsFirst (.core .de) t u [.positionQuestion i c]) ∧
    (t.de.cursors[c].state ≠ .seeking ∨ t.de.cursors[c].work ≠ .search ∨ a = .gone →
      ∃ u, exec (.searchAnswer c a) s = .next u ∧ OnlyDe t u ∧
        u.de.cursors = (upd t.de.cursors c fun x => { x with searchOut := false }))) ∧
  (∀ (c : CursorId) (h k p : Seq) (i : StreamId) (r : Req) (s t : State), Takes (.positionAnswer c h k) s t →
    t.de.cursors[c].state = .seeking → t.de.cursors[c].work = .position → t.de.cursors[c].stream = some i →
    t.de.cursors[c].req = some r →
    ((t.de.cursors[c].start = .head ∧ p = max h t.de.cursors[c].minStart) ∨
      (t.de.cursors[c].start = .tail ∧ p = k + 1) ∨
      (∃ q, t.de.cursors[c].start = .at q true ∧ max h t.de.cursors[c].minStart ≤ q ∧ q ≤ k + 1 ∧ p = q) ∨
      (∃ q, t.de.cursors[c].start = .at q false ∧ p = min (max q (max h t.de.cursors[c].minStart)) (k + 1))) →
    ∃ u, exec (.positionAnswer c h k) s = .next u ∧ OnlyDe t u ∧
      u.de.views[i].committed = max t.de.views[i].committed k ∧
      (∀ d, d ≠ c → u.de.cursors[d] = t.de.cursors[d]) ∧
      SendsFirst (.core .de) t u ([Instr.answerArrival r.sess.port r.slot
        ⟨.ok, 0, if t.de.cursors[c].returnState = none then .opened c p else .sequence p⟩] ++
        if t.de.cursors[c].retaining then [Instr.evaluationTrigger i] else []) ∧
      (t.de.cursors[c].waiting = [] → t.de.cursors[c].endDue = false →
        u.de.cursors[c].state = t.de.cursors[c].returnState.getD .active ∧ u.de.cursors[c].ackSeq = p - 1 ∧
        u.de.cursors[c].nextSeq = p ∧ u.de.cursors[c].deliveredTop = p - 1 ∧ u.de.cursors[c].list = [] ∧
        u.de.cursors[c].work = .none ∧ u.de.cursors[c].returnState = none ∧ u.de.cursors[c].minStart = 0 ∧
        (∀ q exact lpn rec, t.de.cursors[c].start = .at q exact → t.de.cursors[c].found = some (.found lpn rec) →
          u.de.cursors[c].hint = if p = q then some ⟨lpn, rec.ppn, 0, rec.firstSeq⟩ else none) ∧
        ((t.de.cursors[c].start = .head ∨ t.de.cursors[c].start = .tail ∨
            ∀ lpn rec, t.de.cursors[c].found ≠ some (.found lpn rec)) → u.de.cursors[c].hint = none))) ∧
  (∀ (c : CursorId) (h k q : Seq) (st : Status) (i : StreamId) (r : Req) (s t : State),
    Takes (.positionAnswer c h k) s t → t.de.cursors[c].state = .seeking → t.de.cursors[c].work = .position →
    t.de.cursors[c].stream = some i → t.de.cursors[c].req = some r → t.de.cursors[c].start = .at q true →
    ((q < max h t.de.cursors[c].minStart ∧ st = .beforeHead) ∨
      (max h t.de.cursors[c].minStart ≤ q ∧ k + 1 < q ∧ st = .beyondTail)) →
    (t.de.cursors[c].returnState = none → ∃ u, exec (.positionAnswer c h k) s = .next u ∧ OnlyDe t u ∧
      u.de.views = (upd t.de.views i fun v => { v with committed := max v.committed k }) ∧
      (∀ d, d ≠ c → u.de.cursors[d] = t.de.cursors[d]) ∧
      (t.de.cursors[c].waiting = [] →
        u.de.cursors[c] = { freeCursor with searchOut := t.de.cursors[c].searchOut }) ∧
      SendsFirst (.core .de) t u ([Instr.answerArrival r.sess.port r.slot ⟨st, 10, .empty⟩, Instr.unbind i] ++
        if t.de.cursors[c].retaining then [Instr.evaluationTrigger i] else [])) ∧
    (∀ back, t.de.cursors[c].returnState = some back → ∃ u, exec (.positionAnswer c h k) s = .next u ∧ OnlyDe t u ∧
      u.de.views = (upd t.de.views i fun v => { v with committed := max v.committed k }) ∧
      (∀ d, d ≠ c → u.de.cursors[d] = t.de.cursors[d]) ∧
      SendsFirst (.core .de) t u [.answerArrival r.sess.port r.slot ⟨st, 4, .empty⟩] ∧
      (t.de.cursors[c].waiting = [] → t.de.cursors[c].endDue = false →
        ((back ≠ .active ∨ ∀ e ∈ t.de.cursors[c].list, ¬ Exhausted t.de.cursors[c] e) → u.de.cursors[c] =
          { t.de.cursors[c] with state := back, returnState := none, minStart := 0, work := .none }) ∧
        (∀ e, back = .active → e ∈ t.de.cursors[c].list → Exhausted t.de.cursors[c] e → u.de.cursors[c] =
          stalledCursor { t.de.cursors[c] with returnState := none, minStart := 0, work := .none }))))

/-- CURSOR_SEEK, CURSOR_PAUSE and CURSOR_RESUME of the owner, with no work outstanding on the cursor (R88, R94, R96, R97, R124). A
seek is taken in ACTIVE and PAUSED and refused WRONG_STATE in STALLED and SEEKING, before its fields (that order: the model's
reading, log entry 25), and OUT_OF_RANGE for the first of target kind, mode and sequence that is out of range. A resume of a
PAUSED cursor with an exhausted entry stalls it at once, and its owner is told of the lowest one. -/
def Obligations.CursorOwnerRequestResults : Prop :=
  ∀ (r : Req) (c : CursorId) (s t : State), t.de.cursors[c].work = .none → t.de.cursors[c].owner = some r.sess →
    (∀ (f : StartFields) (i : StreamId), Takes (.cursorSeek r) s t → seekBody (t.body r) = .ok (c.val, f) →
      t.de.cursors[c].stream = some i → (t.de.cursors[c].state = .active ∨ t.de.cursors[c].state = .paused) →
      ((f.start = 0 ∨ f.start = 1) → ∃ u, exec (.cursorSeek r) s = .next u ∧ OnlyDe t u ∧
        u.de.cursors = (upd t.de.cursors c fun x => { x with
          state := .seeking, returnState := some x.state, minStart := 0, req := some r,
          start := if f.start = 0 then .head else .tail, work := .position, found := none }) ∧
        SendsFirst (.core .de) t u [.positionQuestion i c]) ∧
      (f.start = 2 → f.mode ≤ 1 → f.target ≠ 0 → ∃ u, exec (.cursorSeek r) s = .next u ∧ OnlyDe t u ∧
        u.de.cursors = (upd t.de.cursors c fun x => { x with
          state := .seeking, returnState := some x.state, minStart := 0, req := some r,
          start := .at f.target (decide (f.mode = 0)), work := .search, searchOut := true, found := none }) ∧
        SendsFirst (.core .de) t u [.lookupBySequence i f.target (.positioning c)]) ∧
      (∀ n, ((3 ≤ f.start ∧ n = 2) ∨ (f.start = 2 ∧ 2 ≤ f.mode ∧ n = 3) ∨
          (f.start = 2 ∧ f.mode ≤ 1 ∧ f.target = 0 ∧ n = 4)) →
        ∃ u, exec (.cursorSeek r) s = .next u ∧ OnlyDe t u ∧ u.de.cursors = t.de.cursors ∧
          SendsFirst (.core .de) t u [.answerArrival r.sess.port r.slot ⟨.outOfRange, n, .empty⟩])) ∧
    (∀ f : StartFields, Takes (.cursorSeek r) s t → seekBody (t.body r) = .ok (c.val, f) →
      (t.de.cursors[c].state = .stalled ∨ t.de.cursors[c].state = .seeking) →
      ∃ u, exec (.cursorSeek r) s = .next u ∧ OnlyDe t u ∧ u.de.cursors = t.de.cursors ∧
        SendsFirst (.core .de) t u [.answerArrival r.sess.port r.slot ⟨.wrongState, 0, .empty⟩]) ∧
    (Takes (.cursorPause r) s t → oneField 1 (t.body r) = .ok c.val →
      ((t.de.cursors[c].state = .active ∨ t.de.cursors[c].state = .paused) → ∃ u, exec (.cursorPause r) s = .next u ∧
        OnlyDe t u ∧ u.de.cursors = (upd t.de.cursors c fun x => { x with state := .paused }) ∧
        SendsFirst (.core .de) t u [.answerArrival r.sess.port r.slot okAnswer]) ∧
      ((t.de.cursors[c].state = .stalled ∨ t.de.cursors[c].state = .seeking) → ∃ u, exec (.cursorPause r) s = .next u ∧
        OnlyDe t u ∧ u.de.cursors = t.de.cursors ∧
        SendsFirst (.core .de) t u [.answerArrival r.sess.port r.slot ⟨.wrongState, 0, .empty⟩])) ∧
    (Takes (.cursorResume r) s t → oneField 1 (t.body r) = .ok c.val →
      ((t.de.cursors[c].state = .stalled ∨ t.de.cursors[c].state = .active ∨
          (t.de.cursors[c].state = .paused ∧ ∀ e ∈ t.de.cursors[c].list, ¬ Exhausted t.de.cursors[c] e)) →
        ∃ u, exec (.cursorResume r) s = .next u ∧ OnlyDe t u ∧
          u.de.cursors = (upd t.de.cursors c fun x => { x with state := .active }) ∧
          SendsFirst (.core .de) t u [.answerArrival r.sess.port r.slot okAnswer]) ∧
      (∀ before e after, t.de.cursors[c].state = .paused → t.de.cursors[c].list = before ++ e :: after →
        (∀ x ∈ before, ¬ Exhausted t.de.cursors[c] x) → Exhausted t.de.cursors[c] e →
        ∃ u, exec (.cursorResume r) s = .next u ∧ OnlyDe t u ∧ u.de.cursors = upd t.de.cursors c stalledCursor ∧
          SendsFirst (.core .de) t u (.answerArrival r.sess.port r.slot okAnswer ::
            toOwner t.de.cursors[c] fun o => ⟨.cursorStalled, none, some c, some e.seq, some o⟩)) ∧
      (t.de.cursors[c].state = .seeking → ∃ u, exec (.cursorResume r) s = .next u ∧ OnlyDe t u ∧
        u.de.cursors = t.de.cursors ∧
        SendsFirst (.core .de) t u [.answerArrival r.sess.port r.slot ⟨.wrongState, 0, .empty⟩]))

/-- CURSOR_CLOSE of an owned or a DETACHED cursor (R98, R99): the record returns to its FREE values, what still reserves it kept
(R85); SD gets the unbind of a bound one, RU the floor trigger of a retaining one; OK. A wrong label of a DETACHED cursor is
answered NOT_OWNER.

CURSOR_ATTACH of a DETACHED cursor and SD's answer to its rebind (R104): the cursor becomes ACTIVE for the asking session,
after its ack_seq, answered with that sequence, and a pending gap is reported to it. CURSOR_INFO reports every field of the record
that R107 names without changing it, the lowest sequence in flight as 0 where there is none, and the label to the owner alone. -/
def Obligations.CursorCloseAttachAndInfoResults : Prop :=
  (∀ (r : Req) (c : CursorId) (label : Nat) (s t : State), Takes (.cursorClose r) s t →
    labelBody (t.body r) = .ok (c.val, label) → t.de.cursors[c].work = .none → t.de.cursors[c].state ≠ .free →
    (((t.de.cursors[c].state = .detached ∧ t.de.cursors[c].label = label) ∨
        (t.de.cursors[c].state ≠ .detached ∧ t.de.cursors[c].owner = some r.sess)) →
      ∃ u, exec (.cursorClose r) s = .next u ∧ OnlyDe t u ∧ u.de.cursors = (upd t.de.cursors c fun x =>
          { freeCursor with searchOut := x.searchOut, waiting := x.waiting }) ∧
        SendsFirst (.core .de) t u (leaveMessages t.de.cursors[c] ++ [Instr.answerArrival r.sess.port r.slot okAnswer])) ∧
    (t.de.cursors[c].state = .detached → t.de.cursors[c].label ≠ label → ∃ u, exec (.cursorClose r) s = .next u ∧
      OnlyDe t u ∧ u.de.cursors = t.de.cursors ∧
      SendsFirst (.core .de) t u [.answerArrival r.sess.port r.slot ⟨.notOwner, 0, .empty⟩])) ∧
  ((∀ (r : Req) (c : CursorId) (label : Nat) (i : StreamId) (s t : State), Takes (.cursorAttach r) s t →
    labelBody (t.body r) = .ok (c.val, label) → t.de.cursors[c].work = .none → t.de.cursors[c].state = .detached →
    t.de.cursors[c].stream = some i → t.de.cursors[c].label = label → t.de.sessionCount r.sess < 16 →
    ∃ u, exec (.cursorAttach r) s = .next u ∧ OnlyDe t u ∧
      u.de.cursors = (upd t.de.cursors c fun x => { x with work := .rebind, req := some r }) ∧
      SendsFirst (.core .de) t u [.rebind i c]) ∧
  (∀ (c : CursorId) (h k : Seq) (i : StreamId) (r : Req) (s t : State), Takes (.rebindAnswer c (.granted h k)) s t →
    t.de.cursors[c].state = .detached → t.de.cursors[c].work = .rebind → t.de.cursors[c].stream = some i →
    t.de.cursors[c].req = some r → t.de.cursors[c].waiting = [] → t.de.cursors[c].endDue = false →
    ∃ u, exec (.rebindAnswer c (.granted h k)) s = .next u ∧ OnlyDe t u ∧ u.de.cursors = (upd t.de.cursors c fun x =>
        { x with owner := some r.sess, state := .active, work := .none, nextSeq := x.ackSeq + 1,
                 deliveredTop := x.ackSeq, list := [], hint := none, pendingGap := 0 }) ∧
      SendsFirst (.core .de) t u ([Instr.answerArrival r.sess.port r.slot
          ⟨.ok, 0, .sequence (t.de.cursors[c].ackSeq + 1)⟩] ++
        if t.de.cursors[c].pendingGap = 0 then [] else
          [Instr.noticeEvent ⟨.cursorGap, some i, some c, some t.de.cursors[c].pendingGap, some r.sess⟩])) ∧
  (∀ (r : Req) (c : CursorId) (s t : State), Takes (.cursorInfo r) s t → oneField 1 (t.body r) = .ok c.val →
    t.de.cursors[c].state ≠ .free → t.de.cursors[c].state ≠ .orphaned → ∃ u, exec (.cursorInfo r) s = .next u ∧
      OnlyDe t u ∧ u.de.cursors = t.de.cursors ∧
      ∀ x : Cursor, x = t.de.cursors[c] → SendsFirst (.core .de) t u [.answerArrival r.sess.port r.slot ⟨.ok, 0, .cursor
        { id := c, state := x.state, stream := x.stream, owner := x.owner, durable := x.durable, retaining := x.retaining
          window := x.window, ackTimeout := x.ackTimeout, retryLimit := x.retryLimit, ackSeq := x.ackSeq
          nextSeq := x.nextSeq, deliveredTop := x.deliveredTop, inFlight := x.list.length
          lowest := match x.list with | [] => 0 | e :: _ => e.seq
          due := (x.list.filter fun e => e.due).length, pendingGap := x.pendingGap
          hintPresent := decide (x.hint ≠ none), label := if x.owner = some r.sess then x.label else 0
          returnState := x.returnState, counters := x.counters }⟩]))

/-- A session's end at DE (R101, R102): each of its cursors with no work outstanding is DETACHED, if durable, or FREE, with
the unbind and, where retaining, the floor trigger (in rising order of the cursors: the model's choice, log entry 68); one with
work outstanding is marked; the others stay.

A delete order at DE (R105, R109): the stream's view is cleared; an owned cursor of the stream is ORPHANED without list, gap
or hint (and with return_state absent and min_start 0, and window, ack_timeout, retry_limit, ack_seq, next_seq and delivered_top
as they were: the model's choice, log entry 77), a DETACHED one FREE; for each the open, seek or attach in progress is answered
GONE and SD has its unbind (in rising order of the cursors, the answer first: the model's choice, log entry 68), and where
requests wait on it what they are answered follows at once; the cursors of other streams stay. -/
def Obligations.SessionAndStreamEndAtDeliveryResults : Prop :=
  (∀ (sess : SessId) (s t : State), Takes (.sessionEndAtDe sess) s t → ∃ u, exec (.sessionEndAtDe sess) s = .next u ∧
    OnlyDe t u ∧ u.de.views = t.de.views ∧
    SendsFirst (.core .de) t u ((List.finRange 64).flatMap fun c => sessionEndMessages sess t.de.cursors[c]) ∧
    ∀ c : CursorId,
      (t.de.cursors[c].belongsTo sess = false → u.de.cursors[c] = t.de.cursors[c]) ∧
      (t.de.cursors[c].belongsTo sess = true → t.de.cursors[c].work ≠ .none →
        u.de.cursors[c] = { t.de.cursors[c] with endDue := true }) ∧
      (t.de.cursors[c].owner = some sess → t.de.cursors[c].work = .none →
        (t.de.cursors[c].state = .active ∨ t.de.cursors[c].state = .paused ∨ t.de.cursors[c].state = .stalled) →
        (t.de.cursors[c].durable = true → u.de.cursors[c] = { t.de.cursors[c] with
          state := .detached, owner := none, list := [], hint := none, nextSeq := t.de.cursors[c].ackSeq + 1
          deliveredTop := t.de.cursors[c].ackSeq, returnState := none, endDue := false }) ∧
        (t.de.cursors[c].durable = false → u.de.cursors[c] =
          { freeCursor with searchOut := t.de.cursors[c].searchOut, waiting := t.de.cursors[c].waiting })) ∧
      (t.de.cursors[c].owner = some sess → t.de.cursors[c].work = .none → t.de.cursors[c].state = .orphaned →
        u.de.cursors[c] = { freeCursor with searchOut := t.de.cursors[c].searchOut, waiting := t.de.cursors[c].waiting })) ∧
  (∀ (i : StreamId) (s t : State), Takes (.deleteOrderAtDe i) s t → ∃ u, exec (.deleteOrderAtDe i) s = .next u ∧
    OnlyDe t u ∧ u.de.views = t.de.views.set i ⟨0, false⟩ ∧
    (∃ waited : CursorId → List Instr, (∀ c : CursorId, t.de.cursors[c].waiting = [] → waited c = []) ∧
      SendsFirst (.core .de) t u ((List.finRange 64).flatMap fun c =>
        if t.de.cursors[c].boundTo i = true then deleteMessages i t.de.cursors[c] ++ waited c else [])) ∧
    ∀ c : CursorId,
      (t.de.cursors[c].boundTo i = false → u.de.cursors[c] = t.de.cursors[c]) ∧
      (t.de.cursors[c].boundTo i = true → t.de.cursors[c].waiting = [] → t.de.cursors[c].endDue = false →
        (t.de.cursors[c].state = .detached → u.de.cursors[c] =
          { freeCursor with searchOut := t.de.cursors[c].searchOut }) ∧
        (t.de.cursors[c].state ≠ .detached → u.de.cursors[c] = { t.de.cursors[c] with
          state := .orphaned, stream := none, list := [], hint := none, pendingGap := 0, returnState := none
          minStart := 0, work := .none })))

/-! ### The Delivery Engine: delivery and acknowledgement -/

/-- ACK of the owner (R125): above delivered_top it is refused; at or below ack_seq it is answered with ack_seq; between, ack_seq
moves up, the acknowledged entries leave the list, and a retaining cursor's floor trigger follows.

An acknowledgement deadline (R123, R124), at any entry of any list: an entry of that sequence and those tries that is not due
becomes due; an expiry that names no such entry is stale and changes no cursor. Where an ACTIVE cursor then has an exhausted
entry, it stalls with an empty list at ack_seq + 1, and its owner is told of the lowest one; in the other states it keeps
state and list. -/
def Obligations.AcknowledgementResults : Prop :=
  (∀ (r : Req) (c : CursorId) (q : Seq) (i : StreamId) (s t : State), Takes (.ack r) s t →
    ackBody (t.body r) = .ok (c.val, q) → t.de.cursors[c].owner = some r.sess → t.de.cursors[c].stream = some i →
    (t.de.cursors[c].state = .active ∨ t.de.cursors[c].state = .paused ∨ t.de.cursors[c].state = .stalled) →
    (t.de.cursors[c].deliveredTop < q → ∃ u, exec (.ack r) s = .next u ∧ OnlyDe t u ∧ u.de.cursors = t.de.cursors ∧
      SendsFirst (.core .de) t u [.answerArrival r.sess.port r.slot ⟨.beyondDelivered, 2, .empty⟩]) ∧
    (q ≤ t.de.cursors[c].deliveredTop → q ≤ t.de.cursors[c].ackSeq → ∃ u, exec (.ack r) s = .next u ∧ OnlyDe t u ∧
      u.de.cursors = t.de.cursors ∧
      SendsFirst (.core .de) t u [.answerArrival r.sess.port r.slot ⟨.ok, 0, .sequence t.de.cursors[c].ackSeq⟩]) ∧
    (q ≤ t.de.cursors[c].deliveredTop → t.de.cursors[c].ackSeq < q → ∃ u, exec (.ack r) s = .next u ∧ OnlyDe t u ∧
      u.de.cursors = (upd t.de.cursors c fun x =>
        { x with ackSeq := q, list := x.list.filter fun e => q < e.seq, nextSeq := max x.nextSeq (q + 1),
                 hint := if x.nextSeq ≤ q then none else x.hint }) ∧
      SendsFirst (.core .de) t u ([Instr.answerArrival r.sess.port r.slot ⟨.ok, 0, .sequence q⟩] ++
        if t.de.cursors[c].retaining then [Instr.evaluationTrigger i] else []))) ∧
  (∀ (c : CursorId) (q : Seq) (tries : Nat) (s t : State), Takes (.ackDeadlineExpiry c q tries) s t →
    ((∀ e ∈ t.de.cursors[c].list, ¬ NamedBy q tries e) →
      ∃ u, exec (.ackDeadlineExpiry c q tries) s = .next u ∧ OnlyDe t u ∧ u.de.cursors = t.de.cursors) ∧
    (∀ e ∈ t.de.cursors[c].list, NamedBy q tries e →
      ((t.de.cursors[c].state ≠ .active ∨
          ∀ x ∈ markedDue q tries t.de.cursors[c].list, ¬ Exhausted t.de.cursors[c] x) →
        ∃ u, exec (.ackDeadlineExpiry c q tries) s = .next u ∧ OnlyDe t u ∧
          u.de.cursors = (upd t.de.cursors c fun x => { x with list := markedDue q tries x.list })) ∧
      (∀ before x after, t.de.cursors[c].state = .active →
        markedDue q tries t.de.cursors[c].list = before ++ x :: after →
        (∀ y ∈ before, ¬ Exhausted t.de.cursors[c] y) → Exhausted t.de.cursors[c] x →
        ∃ u, exec (.ackDeadlineExpiry c q tries) s = .next u ∧ OnlyDe t u ∧
          u.de.cursors = upd t.de.cursors c stalledCursor ∧
          SendsFirst (.core .de) t u
            (toOwner t.de.cursors[c] fun o => ⟨.cursorStalled, none, some c, some x.seq, some o⟩))))

/-- SD's reports and MU's tracker-free report at DE (R109, R112, R126): a commit report raises the view and never lowers it; a
settled report sets its flag, and the owner of every bound cursor of the stream that has acknowledged all is told that it is
drained (in rising order of the cursors: the model's choice, log entry 56); the tracker-free report ends every deferral; no
cursor changes.

The choice of what to deliver (R110 to R113), at a commit report, a tracker-free report or a dropped report, which leave DE
in `d`. Where no cursor may be chosen for a port with an IDLE buffer, nothing more happens. Where one choice is due, the buffer
takes the first cursor of its port that may be chosen, in rising order of the ids after the one chosen last, wrapping from 63 to
0; the delivery begins as R113 gives and sends its lookup or hold request; no cursor, view, deferral or other buffer changes. Of
two IDLE buffers of a port buffer 0 takes it, and the choice comes at the end of the event (log entries 57 and 73: the model's
choices). A cursor that a busy buffer serves is not chosen (R110), and a buffer that has been abandoned serves its cursor until it
is IDLE (log entry 27: the model's reading, DEDUCED). -/
def Obligations.DeliveryReportResults : Prop :=
  ((∀ (i : StreamId) (q : Seq) (s t : State), Takes (.commitReport i q) s t → ∃ u, exec (.commitReport i q) s = .next u ∧
    OnlyDe t u ∧ u.de.cursors = t.de.cursors ∧
    u.de.views = (upd t.de.views i fun v => { v with committed := max v.committed q })) ∧
  (∀ (i : StreamId) (s t : State), Takes (.sealedSettledReport i) s t → ∃ u, exec (.sealedSettledReport i) s = .next u ∧
    OnlyDe t u ∧ u.de.cursors = t.de.cursors ∧ u.de.views = (upd t.de.views i fun v => { v with settled := true }) ∧
    SendsFirst (.core .de) t u ((List.finRange 64).flatMap fun c =>
      if t.de.cursors[c].boundTo i = true ∧ t.de.cursors[c].ackSeq = t.de.views[i].committed then
        toOwner t.de.cursors[c] fun o => ⟨.cursorDrained, none, some c, none, some o⟩
      else [])) ∧
  (∀ s t : State, Takes .trackerFreeReport s t → ∃ u, exec .trackerFreeReport s = .next u ∧ OnlyDe t u ∧
    u.de.cursors = t.de.cursors ∧ u.de.views = t.de.views ∧ ∀ c : CursorId, u.de.deferred[c] = false)) ∧
  (∀ (c : Instr) (d : DE) (s t : State), Takes c s t →
    ((c = .trackerFreeReport ∧ d = { t.de with deferred := Vector.replicate 64 false }) ∨
      (∃ i q, c = .commitReport i q ∧
        d = { t.de with views := upd t.de.views i fun v => { v with committed := max v.committed q } }) ∨
      (∃ b, c = .deliverDropped b ∧ (t.de.buffer b).state = .sending ∧ (t.de.buffer b).hold = false ∧
        d = { t.de with buffers := upd t.de.buffers b.port fun v => v.set b.idx idleBuffer })) →
    (∀ b : BufId, (d.buffer b).state = .ready → d.wanted (d.buffer b) = true) →
    ((∀ b : BufId, (d.buffer b).state = .idle → ∀ k, ¬ MayBeChosen d b.port k) → exec c s = .next { t with de := d }) ∧
    (∀ (b : BufId) (k : CursorId) (i : StreamId) (x : Buffer) (m : Instr), (d.buffer b).state = .idle →
      MayBeChosen d b.port k → (∀ j, MayBeChosen d b.port j → turn d.last[b.port] k ≤ turn d.last[b.port] j) →
      (∀ y : BufId, y ≠ b → (d.buffer y).state = .idle →
        (y.port = b.port → b.idx < y.idx) ∧ ∀ j, j ≠ k → ¬ MayBeChosen d y.port j) →
      d.cursors[k].stream = some i → BeginsDelivery b k i d.cursors[k] x m →
      exec c s = .next ({ t with de := { d with
        last := d.last.set b.port k, buffers := upd d.buffers b.port fun v => v.set b.idx x } }.post (.core .de) [m])))

/-- A delivery at the answers and reads that it waits for (R113 to R119). One that is still wanted: the page found leads to the
hold, from offset 0 but for a redelivery's own, and a page crossed to must begin with the target, or the hint is lost; another
map answer ends it, RETRY deferring its cursor; a hold granted leads to the header read, refused it ends and a first delivery
loses its hint; the target's header leads to the payload read, a lower one to the next header, the end of the page to the
lookup of the next page with the hold dropped, any other to a DAMAGED offer without timestamp or payload; the payload is
offered, DAMAGED where its CRC-16 is not the header's. One that is no longer wanted drops its hold and ends, and its cursor keeps
its hint and is not deferred (the model's choice, log entry 69; which test decides where a change was undone: its choice, log
entries 51 and 55).

The taken, sent and dropped reports of a DELIVER (R119, R120, R121). Taken, its buffer is SENDING. Sent and recorded: a first
delivery enters the in-flight list with its deadline, and next_seq and delivered_top move on; a redelivery's entry is tried
once more, due no longer; a DAMAGED one is counted at the cursor and at SD and raised to the owner. Sent after a stall,
delivered_top alone may rise; in every other case, and dropped, no cursor changes (nor where the buffer has been abandoned: the
model's reading, log entry 27). After sent or dropped the delivery has ended.

Wanted deliveries and withdrawn offers (R118, R119). The test of R118; after every event at DE, every DELIVER still offered is
wanted, unless the arbiter has taken it (the test alone decides: the model's choice, log entry 55); at a pause the offer for the
cursor is withdrawn, one that has been taken stays, and a wanted one for another cursor stays. -/
def Obligations.DeliveryBufferResults : Prop :=
  ((∀ (b : BufId) (i : StreamId) (x : Buffer) (s t : State), t.de.buffer b = x → t.de.wanted x = true →
    t.de.cursors[x.cursor].stream = some i →
    (∀ (lpn : Lpn) (rec : MapRec), Takes (.lookupAnswer b (.found lpn rec)) s t → x.state = .locating →
      (x.locate ≠ .crossing ∨ rec.firstSeq = x.seq → ∃ u, exec (.lookupAnswer b (.found lpn rec)) s = .next u ∧
        OnlyDe t u ∧ u.de.cursors = t.de.cursors ∧
        u.de.buffer b = { x with state := .holding, lpn := lpn, ppn := rec.ppn,
                                 offset := if x.locate = .page then x.offset else 0 } ∧
        SendsFirst (.core .de) t u [.holdRequest i rec.ppn b]) ∧
      (x.locate = .crossing → rec.firstSeq ≠ x.seq → ∃ u, exec (.lookupAnswer b (.found lpn rec)) s = .next u ∧
        OnlyDe t u ∧ u.de.cursors = (upd t.de.cursors x.cursor fun k => { k with hint := none }) ∧
        AfterDelivery (u.de.buffer b))) ∧
    (∀ a, Takes (.lookupAnswer b a) s t → x.state = .locating → (∀ lpn rec, a ≠ .found lpn rec) →
      ∃ u, exec (.lookupAnswer b a) s = .next u ∧ OnlyDe t u ∧ u.de.cursors = t.de.cursors ∧
        u.de.deferred = (if a = .retry then t.de.deferred.set x.cursor true else t.de.deferred) ∧
        AfterDelivery (u.de.buffer b)) ∧
    (Takes (.holdAnswer b .granted) s t → x.state = .holding → ∃ u,
      exec (.holdAnswer b .granted) s = .next u ∧ OnlyDe t u ∧ u.de.cursors = t.de.cursors ∧
      u.de.buffer b = { x with state := .reading, hold := true } ∧
      SendsFirst (.core .de) t u [.mpOperationIssue ⟨.headerRead b, x.ppn, x.offset, 16, []⟩]) ∧
    (∀ a, Takes (.holdAnswer b a) s t → x.state = .holding → a ≠ .granted → ∃ u,
      exec (.holdAnswer b a) s = .next u ∧ OnlyDe t u ∧ AfterDelivery (u.de.buffer b) ∧
      u.de.cursors = (if x.redelivery then t.de.cursors
        else upd t.de.cursors x.cursor fun k => { k with hint := none })) ∧
    (∀ (bytes : List Byte) (h : Header), Takes (.headerReadDone b bytes) s t → x.state = .reading → headerOf bytes = h →
      (ValidAt x.offset h → h.kind = .entry → h.seq = x.seq → ∃ u, exec (.headerReadDone b bytes) s = .next u ∧
        OnlyDe t u ∧ u.de.cursors = t.de.cursors ∧
        u.de.buffer b = { x with stamp := h.stamp, checksum := h.checksum, length := h.length,
                                 size := some (storedSize h.length) } ∧
        SendsFirst (.core .de) t u
          [.mpOperationIssue ⟨.payloadRead b, x.ppn, x.offset + 16, (h.length + 7) / 8 * 8, []⟩]) ∧
      (ValidAt x.offset h → h.kind = .entry → x.redelivery = false → h.seq < x.seq →
        x.offset + storedSize h.length ≤ 2032 → ∃ u, exec (.headerReadDone b bytes) s = .next u ∧
        OnlyDe t u ∧ u.de.cursors = t.de.cursors ∧
        u.de.buffer b = { x with offset := x.offset + storedSize h.length } ∧
        SendsFirst (.core .de) t u
          [.mpOperationIssue ⟨.headerRead b, x.ppn, x.offset + storedSize h.length, 16, []⟩]) ∧
      (LeavesPage x h → ∃ u, exec (.headerReadDone b bytes) s = .next u ∧
        OnlyDe t u ∧ u.de.cursors = t.de.cursors ∧
        u.de.buffer b = { x with state := .locating, locate := .crossing, offset := 0, hold := false } ∧
        SendsFirst (.core .de) t u (droppedHold x ++ [.lookupByLpn i (x.lpn + 1) (.delivery b)])) ∧
      (Unreachable x h → ∃ u, exec (.headerReadDone b bytes) s = .next u ∧
        OnlyDe t u ∧ u.de.cursors = t.de.cursors ∧
        u.de.buffer b = { x with state := .ready, damaged := true, stamp := 0, payload := [], size := none,
                                 hold := false } ∧
        SendsFirst (.core .de) t u (droppedHold x ++ [.transmitOffer b.port]))) ∧
    (∀ bytes : List Byte, Takes (.payloadReadDone b bytes) s t → x.state = .reading → ∃ u,
      exec (.payloadReadDone b bytes) s = .next u ∧ OnlyDe t u ∧
        u.de.cursors = t.de.cursors ∧ (u.de.buffer b).state = .ready ∧ (u.de.buffer b).hold = false ∧
        (u.de.buffer b).stamp = x.stamp ∧ (u.de.buffer b).seq = x.seq ∧
        ((crc16 (bytes.take x.length)).toNat = x.checksum →
          (u.de.buffer b).payload = bytes.take x.length ∧ (u.de.buffer b).damaged = false) ∧
        ((crc16 (bytes.take x.length)).toNat ≠ x.checksum →
          (u.de.buffer b).payload = [] ∧ (u.de.buffer b).damaged = true) ∧
        SendsFirst (.core .de) t u (droppedHold x ++ [.transmitOffer b.port]))) ∧
  (∀ (b : BufId) (c : Instr) (x : Buffer) (s t : State), Takes c s t → t.de.buffer b = x → t.de.wanted x = false →
    (((∃ a, c = .lookupAnswer b a) ∧ x.state = .locating) ∨
      ((∃ a, c = .holdAnswer b a ∧ a ≠ .granted) ∧ x.state = .holding) ∨
      ((∃ bytes, c = .headerReadDone b bytes ∨ c = .payloadReadDone b bytes) ∧ x.state = .reading)) →
    ∃ u, exec c s = .next u ∧ OnlyDe t u ∧ u.de.cursors = t.de.cursors ∧ AfterDelivery (u.de.buffer b) ∧
      SendsFirst (.core .de) t u (droppedHold x)) ∧
  (∀ (b : BufId) (x : Buffer) (s t : State), Takes (.holdAnswer b .granted) s t → t.de.buffer b = x →
    t.de.wanted x = false → x.state = .holding → ∃ u, exec (.holdAnswer b .granted) s = .next u ∧ OnlyDe t u ∧
      u.de.cursors = t.de.cursors ∧ AfterDelivery (u.de.buffer b) ∧ SendsFirst (.core .de) t u [.holdDrop x.ppn])) ∧
  (∀ (b : BufId) (x : Buffer) (s t : State), t.de.buffer b = x →
    (Takes (.deliverTaken b) s t → x.state = .ready → ∃ u, exec (.deliverTaken b) s = .next u ∧
      OnlyDe t u ∧ u.de.cursors = t.de.cursors ∧ u.de.buffer b = { x with state := .sending }) ∧
    (Takes (.deliverSent b) s t → x.state = .sending → ∃ u, exec (.deliverSent b) s = .next u ∧ OnlyDe t u ∧
      AfterDelivery (u.de.buffer b) ∧
      (Recorded t.de.cursors[x.cursor] x →
        (x.damaged = false → u.de.cursors = upd t.de.cursors x.cursor (afterSend t.tb.tick x)) ∧
        (x.damaged = true →
          u.de.cursors = upd t.de.cursors x.cursor (fun c => oneDamaged (afterSend t.tb.tick x c)) ∧
          SendsFirst (.core .de) t u ((match t.de.cursors[x.cursor].stream with
              | some i => [Instr.counterUpdate i .damaged]
              | none => []) ++
            toOwner t.de.cursors[x.cursor] fun o => ⟨.entryDamaged, none, some x.cursor, some x.seq, some o⟩))) ∧
      (RacedTheStall t.de.cursors[x.cursor] x →
        u.de.cursors = (upd t.de.cursors x.cursor fun c => { c with deliveredTop := max c.deliveredTop x.seq })) ∧
      (¬ Recorded t.de.cursors[x.cursor] x → ¬ RacedTheStall t.de.cursors[x.cursor] x →
        u.de.cursors = t.de.cursors)) ∧
    (Takes (.deliverDropped b) s t → x.state = .sending → ∃ u, exec (.deliverDropped b) s = .next u ∧
      OnlyDe t u ∧ u.de.cursors = t.de.cursors ∧ AfterDelivery (u.de.buffer b))) ∧
  ((∀ (d : DE) (x : Buffer), d.wanted x = true ↔ x.abandoned = false ∧ d.cursors[x.cursor].state = .active ∧
    (x.redelivery = false → d.cursors[x.cursor].nextSeq = x.seq) ∧
    (x.redelivery = true → ∃ before e after, d.cursors[x.cursor].list = before ++ e :: after ∧
      (∀ y ∈ before, y.seq ≠ x.seq) ∧ e.seq = x.seq ∧ e.due = true)) ∧
  (∀ (m : Instr) (b : BufId) (s t u : State), Takes m s t → dstOf m = .core .de → m ≠ .abandonOrder .de →
    exec m s = .next u → (∀ w ∈ t.wires, w.msg ≠ .deliverTaken b) → (u.de.buffer b).state = .ready →
    u.de.wanted (u.de.buffer b) = true) ∧
  (∀ (r : Req) (c : CursorId) (b : BufId) (s t : State), Takes (.cursorPause r) s t → oneField 1 (t.body r) = .ok c.val →
    t.de.cursors[c].work = .none → t.de.cursors[c].owner = some r.sess → t.de.cursors[c].state = .active →
    (t.de.buffer b).state = .ready → ∃ u, exec (.cursorPause r) s = .next u ∧
      ((t.de.buffer b).cursor = c → (∀ w ∈ t.wires, w.msg ≠ .deliverTaken b) → AfterDelivery (u.de.buffer b)) ∧
      ((t.de.buffer b).cursor = c → (∃ w ∈ t.wires, w.msg = .deliverTaken b) → u.de.buffer b = t.de.buffer b) ∧
      ((t.de.buffer b).cursor ≠ c → t.de.wanted (t.de.buffer b) = true → u.de.buffer b = t.de.buffer b)))

/-- RU at DE (R126, R127, R128, R135, R140, R158). The floor of a stream is the least ack_seq + 1 of its retaining cursors in a
bound state. A NORMAL advance order above the floor is refused and changes nothing; any other moves every bound cursor of the
stream that is behind to m − 1, raises min_start of those being positioned or opened, reports each gap to the cursor's owner, or
keeps it where there is none, and is then answered done; the notices come in rising order of the cursors, of one cursor the gap
before the drain (the model's choice, log entry 56). A returned gap is raised again to another owner, kept for the same owner or
none, and lost with the record. -/
def Obligations.RetentionAtDeliveryResults : Prop :=
  (∀ (i : StreamId) (s t : State), Takes (.floorQuestion i) s t → ∃ u f, exec (.floorQuestion i) s = .next u ∧ OnlyDe t u ∧
    u.de.cursors = t.de.cursors ∧ SendsFirst (.core .de) t u [.evaluationAnswer i (.floor f)] ∧
    (∀ c : CursorId, t.de.cursors[c].boundTo i = true → t.de.cursors[c].retaining = true →
      ∃ q, f = some q ∧ q ≤ t.de.cursors[c].ackSeq + 1) ∧
    (∀ q, f = some q → ∃ c : CursorId, t.de.cursors[c].boundTo i = true ∧ t.de.cursors[c].retaining = true ∧
      q = t.de.cursors[c].ackSeq + 1)) ∧
  (∀ (i : StreamId) (m : Seq) (kind : RelKind) (s t : State), Takes (.advanceOrder i m kind) s t →
    ((kind = .normal ∧ ∃ q, t.de.floor i = some q ∧ q < m) → ∃ u, exec (.advanceOrder i m kind) s = .next u ∧
      OnlyDe t u ∧ u.de.cursors = t.de.cursors ∧ SendsFirst (.core .de) t u [.advanceOrderAnswer i false]) ∧
    ((kind ≠ .normal ∨ t.de.floor i = none ∨ ∃ q, t.de.floor i = some q ∧ m ≤ q) →
      ∃ u, exec (.advanceOrder i m kind) s = .next u ∧ OnlyDe t u ∧
        SendsFirst (.core .de) t u ((List.finRange 64).flatMap (advanceNotices t i m) ++ [.advanceOrderAnswer i true]) ∧
        ∀ c : CursorId,
          (t.de.cursors[c].stream ≠ some i → u.de.cursors[c] = t.de.cursors[c]) ∧
          (MovedBy i m t.de.cursors[c] → u.de.cursors[c] = movedCursor m t.de.cursors[c]) ∧
          (t.de.cursors[c].stream = some i → ¬ MovedBy i m t.de.cursors[c] → u.de.cursors[c] = { t.de.cursors[c] with
            minStart := if t.de.cursors[c].state = .seeking ∨
                (t.de.cursors[c].state = .free ∧ t.de.cursors[c].work = .bind) then max t.de.cursors[c].minStart m
              else t.de.cursors[c].minStart }))) ∧
  (∀ (c : CursorId) (gap : Nat) (sess : SessId) (s t : State), Takes (.returnedCursorGap c gap sess) s t →
    ((t.de.cursors[c].state = .free ∨ t.de.cursors[c].state = .orphaned) →
      ∃ u, exec (.returnedCursorGap c gap sess) s = .next u ∧ OnlyDe t u ∧ u.de.cursors = t.de.cursors) ∧
    (t.de.cursors[c].state ≠ .free → t.de.cursors[c].state ≠ .orphaned →
      (t.de.cursors[c].owner = none ∨ t.de.cursors[c].endDue = true ∨ t.de.cursors[c].owner = some sess →
        ∃ u, exec (.returnedCursorGap c gap sess) s = .next u ∧ OnlyDe t u ∧ u.de.cursors = (upd t.de.cursors c fun x =>
          { x with pendingGap := min 4294967295 (x.pendingGap + gap) })) ∧
      (∀ o, t.de.cursors[c].owner = some o → o ≠ sess → t.de.cursors[c].endDue = false →
        ∃ u, exec (.returnedCursorGap c gap sess) s = .next u ∧ OnlyDe t u ∧ u.de.cursors = t.de.cursors ∧
          SendsFirst (.core .de) t u
            [.noticeEvent ⟨.cursorGap, t.de.cursors[c].stream, some c, some gap, some o⟩])))

/-! ### The Notice Unit -/

/-- An event at NU (R151, R154, R155, R157, R158), stamped with the clock: a POOL or STREAM event joins the queue of every open
session whose mask has the class, a CURSOR event that of its addressee; an always-sent kind joins whatever the mask, and
RESTART begins the drain. A gap for a session not open goes back to DE; nothing is queued for a session that drains. -/
def Obligations.NoticeEventResults : Prop :=
  (∀ (e : Event) (wants : Mask → Bool) (s t : State), Takes (.noticeEvent e) s t →
    (((e.kind = .pressureOn ∨ e.kind = .pressureOff) ∧ wants = Mask.pool) ∨
      ((e.kind = .streamFull ∨ e.kind = .streamSealed ∨ e.kind = .streamDeleted) ∧ wants = Mask.stream)) →
    ∃ u, exec (.noticeEvent e) s = .next u ∧ OnlyNu t u ∧
      (∀ p : Port,
        (t.nu.ports[p].isOpen = true ∧ wants t.nu.ports[p].mask = true ∧ t.nu.ports[p].draining = false →
          AfterCopy ⟨e.kind, t.tb.clock, e.stream, e.cursor, e.value, 0⟩ t.nu.ports[p] u.nu.ports[p]) ∧
        (t.nu.ports[p].isOpen = false ∨ wants t.nu.ports[p].mask = false ∨ t.nu.ports[p].draining = true →
          u.nu.ports[p] = t.nu.ports[p])) ∧
      Sends .nu t u (((List.finRange 4).filter fun p => t.nu.ports[p].isOpen && wants t.nu.ports[p].mask &&
        !t.nu.ports[p].draining && t.nu.ports[p].queue.isEmpty).map .transmitOffer)) ∧
  (∀ (e : Event) (sess : SessId) (s t : State), Takes (.noticeEvent e) s t → e.addressee = some sess →
    (e.kind = .cursorGap ∨ e.kind = .cursorStalled ∨ e.kind = .cursorDrained ∨ e.kind = .entryDamaged) →
    (OpenAtNu t sess → t.nu.ports[sess.port].mask.cursor = true → t.nu.ports[sess.port].draining = false →
      ∃ u, exec (.noticeEvent e) s = .next u ∧ OnlyNu t u ∧ (∀ p, p ≠ sess.port → u.nu.ports[p] = t.nu.ports[p]) ∧
        AfterCopy ⟨e.kind, t.tb.clock, e.stream, e.cursor, e.value, 0⟩ t.nu.ports[sess.port] u.nu.ports[sess.port] ∧
        Sends .nu t u (if t.nu.ports[sess.port].queue = [] then [.transmitOffer sess.port] else [])) ∧
    (OpenAtNu t sess → (t.nu.ports[sess.port].mask.cursor = false ∨ t.nu.ports[sess.port].draining = true) →
      exec (.noticeEvent e) s = .next t) ∧
    (¬ OpenAtNu t sess → (∀ c, e.kind = .cursorGap → e.cursor = some c → exec (.noticeEvent e) s =
        .next (t.post .nu [.returnedCursorGap c (e.value.getD 0) sess])) ∧
      (e.kind ≠ .cursorGap → exec (.noticeEvent e) s = .next t))) ∧
  (∀ (e : Event) (sess : SessId) (s t : State), Takes (.noticeEvent e) s t → e.addressee = some sess →
    (e.kind = .roleChanged ∨ e.kind = .restart) →
    (OpenAtNu t sess → t.nu.ports[sess.port].draining = false →
      ∃ u q, exec (.noticeEvent e) s = .next u ∧ OnlyNu t u ∧ (∀ p, p ≠ sess.port → u.nu.ports[p] = t.nu.ports[p]) ∧
        AfterAlwaysCopy ⟨e.kind, t.tb.clock, e.stream, e.cursor, e.value, 0⟩ t.nu.ports[sess.port] q ∧
        u.nu.ports[sess.port] = { q with draining := decide (e.kind = .restart) } ∧
        Sends .nu t u (if t.nu.ports[sess.port].queue = [] then [.transmitOffer sess.port] else [])) ∧
    (¬ OpenAtNu t sess ∨ t.nu.ports[sess.port].draining = true → exec (.noticeEvent e) s = .next t))

/-- What NU keeps for a port (R152, R153, R156, R157, R159): a session's open and end, with its queued gaps returned (in
queue order: the model's choice, log entry 78) and the last end of a restart reported (log entry 36: the model's reading); the
head taken; a frame reported sent or dropped, RESTART's report ending its session; and the mask replaced, at NU and in the port's
session record (log entry 40: the copy is the model's choice), undefined classes refused. -/
def Obligations.NoticeQueueResults : Prop :=
  (∀ (sess : SessId) (mask : Mask) (s t : State), Takes (.sessionOpenReport sess mask) s t →
    exec (.sessionOpenReport sess mask) s =
      .next { t with nu := ⟨t.nu.ports.set sess.port ⟨true, sess.number, mask, [], 0, false⟩⟩ }) ∧
  (∀ (c : Instr) (sess : SessId) (s t : State), Takes c s t →
    (c = .sessionEndReportAtNu sess ∨ ∃ n sent, c = .noticeSentReport sess n sent ∧ n.kind = .restart) →
    (OpenAtNu t sess → exec c s = .next ({ t with nu :=
        ⟨t.nu.ports.set sess.port ⟨false, 0, ⟨false, false, false⟩, [], 0, false⟩⟩ }.post .nu
      (returnedGaps sess t.nu.ports[sess.port].queue ++
        if t.dev.state = DevState.restarting ∧ (∀ p : Port, p ≠ sess.port → t.nu.ports[p].isOpen = false) then
          [Instr.nuResetReport] else []))) ∧
    (¬ OpenAtNu t sess → exec c s = .next t)) ∧
  (∀ (p : Port) (n : Notice) (rest : List Notice) (s t : State), Takes (.noticeTaken p) s t →
    t.nu.ports[p].queue = n :: rest → exec (.noticeTaken p) s =
      .next ({ t with nu := ⟨upd t.nu.ports p fun q => { q with queue := rest }⟩ }.post .nu
        (if rest = [] then [] else [.transmitOffer p]))) ∧
  (∀ (sess : SessId) (n : Notice) (sent : Bool) (s t : State), Takes (.noticeSentReport sess n sent) s t →
    n.kind ≠ .restart →
    (sent = true ∨ n.kind ≠ .cursorGap → exec (.noticeSentReport sess n sent) s = .next t) ∧
    (∀ c, sent = false → n.kind = .cursorGap → n.cursor = some c → exec (.noticeSentReport sess n sent) s =
      .next (t.post .nu [.returnedCursorGap c (n.value.getD 0) sess]))) ∧
  (∀ (r : Req) (v : Nat) (s t : State), Takes (.noticeMask r) s t → oneField 1 (t.body r) = .ok v →
    (8 ≤ v → exec (.noticeMask r) s =
      .next (t.post .nu [.answerArrival r.sess.port r.slot ⟨.outOfRange, 1, .empty⟩])) ∧
    (∀ m, maskOf v = some m → OpenAtNu t r.sess → SessionOpen t r.sess → exec (.noticeMask r) s =
      .next ({ t with
        nu := ⟨upd t.nu.ports r.sess.port fun q => { q with mask := m }⟩
        pe := upd t.pe r.sess.port fun e => { e with sess := { e.sess with mask := m } } }.post .nu
          [.answerArrival r.sess.port r.slot ⟨.ok, 0, .mask m⟩])) ∧
    (∀ m, maskOf v = some m → ¬ OpenAtNu t r.sess → ¬ SessionOpen t r.sess → exec (.noticeMask r) s =
      .next (t.post .nu [.answerArrival r.sess.port r.slot ⟨.ok, 0, .mask m⟩])))

/-! ### The Port Engines -/

/-- State and lock reports (R178, R199). A loss of lock in UP (R178): the framer hunts, the frame on the line is cut off and
reported dropped, every queued REPLY frees its slot or the reserve, every slot still HELD is void, and an open session ends.
In DOWN it changes nothing.

The teardown order at a port (R173, R193, R207), in one step. No HELD slot whose request was handed away stays; its buffer
keeps the body (log entry 60: the model's choice). The Port Engine takes the answers that it has given itself, answers a
claim's HELLO STARTING, and answers each slot still HELD by its own rules in RESTARTING, so that no slot stays HELD and none of
its messages to itself is left (those rules are log entry 46's reading, the order of the answers the model's choice). An open
session is to end by RESTART, its deadline cancelled and RESTART raised; a port with neither session nor claim is settled. -/
def Obligations.LinkAndTeardownOrderResults : Prop :=
  ((∀ (p : Port) (d : DevReport) (s t : State), Takes (.stateReport p d) s t → exec (.stateReport p d) s =
    .next (t.onPe p fun _ => ⟨{ t.pe[p] with
      dev := d, settled := if d = .restarting then t.pe[p].settled else false }, []⟩)) ∧
  (∀ (p : Port) (s t : State), Takes (.linkLock p) s t →
    exec (.linkLock p) s = .next (t.onPe p fun _ => ⟨{ t.pe[p] with link := true }, []⟩)) ∧
  (∀ (p : Port) (s t : State), Takes (.linkLoss p) s t →
    (t.pe[p].link = false → exec (.linkLoss p) s = .next t) ∧
    (t.pe[p].link = true → ∃ u e, exec (.linkLoss p) s = .next u ∧ OnlyPe p t u ∧
      e.link = false ∧ e.framer = ⟨.hunting, [], 0⟩ ∧ e.tx = none ∧ e.replies = [] ∧
      e.counters = t.pe[p].counters ∧ e.grant = t.pe[p].grant ∧ e.dev = t.pe[p].dev ∧ e.sess = t.pe[p].sess ∧
      e.preferDeliver = t.pe[p].preferDeliver ∧ e.lastCursor = t.pe[p].lastCursor ∧
      ((∃ r ∈ t.pe[p].replies, r.source = .reserve) ∨ (∃ x, t.pe[p].tx = some x ∧ x.source = .reply .reserve) →
        e.reserve = false) ∧
      ((∀ r ∈ t.pe[p].replies, r.source ≠ .reserve) → (∀ x, t.pe[p].tx = some x → x.source ≠ .reply .reserve) →
        e.reserve = t.pe[p].reserve) ∧
      (∀ k : SlotId, ((∃ r ∈ t.pe[p].replies, r.source = .slot k) ∨
            (∃ x, t.pe[p].tx = some x ∧ x.source = .reply (.slot k)) → e.slots[k].state = .free) ∧
        ((∀ r ∈ t.pe[p].replies, r.source ≠ .slot k) → (∀ x, t.pe[p].tx = some x → x.source ≠ .reply (.slot k)) →
          e.slots[k] = if t.pe[p].slots[k].state = .held then { t.pe[p].slots[k] with isVoid := true }
            else t.pe[p].slots[k])) ∧
      (t.pe[p].sess.isOpen = false → u.pe[p] = e ∧ Sends (.pe p) t u (droppedReport t.pe[p].tx)) ∧
      (t.pe[p].sess.isOpen = true → SessionEnds p t e (droppedReport t.pe[p].tx) u)))) ∧
  (∀ (p : Port) (own : List (SlotId × Answer)) (g : PE) (s t v : State), Takes (.teardownOrder p) s t →
    own = t.wires.filterMap (fun w => match w.src, w.msg with
      | .pe q, .answerArrival d k a => if q = p ∧ d = p then some (k, a) else none
      | _, _ => none) →
    v = { t with wires := t.wires.filter fun w => decide (w.src ≠ .pe p ∨ dstOf w.msg ≠ .pe p) } →
    g = restartAnswered p own { t.pe[p] with
      dev := .restarting, settled := false
      slots := t.pe[p].slots.map fun x =>
        if x.state = .held ∧ handedAway p x = true then ⟨.free, 0, 0, x.body, none, false⟩ else x } →
    (∀ k : SlotId, g.slots[k].state ≠ .held) ∧
    (t.pe[p].sess.isOpen = true → exec (.teardownOrder p) s = .next (v.onPe p fun _ => ⟨{ g with
      sess := { t.pe[p].sess with endPending := .restart, deadline := none } },
      [.noticeEvent ⟨.restart, none, none, none, some ⟨p, t.pe[p].sess.number⟩⟩]⟩)) ∧
    (t.pe[p].sess.isOpen = false →
      (t.pe[p].sess.claim = none → exec (.teardownOrder p) s =
        .next (v.onPe p fun _ => ⟨{ g with settled := true }, [.portSettledReport p]⟩)) ∧
      (t.pe[p].sess.claim ≠ none → exec (.teardownOrder p) s = .next (v.onPe p fun _ => ⟨g, []⟩))))

/-- One byte at the framer (R179, R180, R182): nothing while the link is DOWN; C3h begins a frame in HUNTING and any other byte is
passed over; header and body bytes are stored, the length leads to BODY or CHECK. A length above 1,600 and a CRC-16 that does
not match end the frame, each counted, and the gap limit aborts one; where no C3h is among its bytes, the framer then hunts.

The rescan (R183): the bytes after a discarded frame's sync are taken as if they arrived one by one behind the discard, in
HUNTING. -/
def Obligations.FramerAndRescanResults : Prop :=
  ((∀ (p : Port) (b : Byte) (s t : State), Takes (.frameByte p b) s t →
    (t.pe[p].link = false → exec (.frameByte p b) s = .next t) ∧
    (t.pe[p].link = true →
      (∀ f, (t.pe[p].framer.state = .hunting ∧ b = 0xC3 ∧ f = ⟨.header 4, [], 0⟩) ∨
          (t.pe[p].framer.state = .hunting ∧ b ≠ 0xC3 ∧ f = { t.pe[p].framer with gap := 0 }) ∨
          (∃ n, t.pe[p].framer.state = .header (n + 2) ∧ f = ⟨.header (n + 1), t.pe[p].framer.buf ++ [b], 0⟩) ∨
          (∃ k g h, t.pe[p].framer.state = .header 1 ∧ t.pe[p].framer.buf = [k, g, h] ∧
            ((h.toNat * 256 + b.toNat = 0 ∧ f = ⟨.check 2, [k, g, h, b], 0⟩) ∨
              (1 ≤ h.toNat * 256 + b.toNat ∧ h.toNat * 256 + b.toNat ≤ 1600 ∧
                f = ⟨.body (h.toNat * 256 + b.toNat), [k, g, h, b], 0⟩))) ∨
          (∃ n, t.pe[p].framer.state = .body (n + 2) ∧ f = ⟨.body (n + 1), t.pe[p].framer.buf ++ [b], 0⟩) ∨
          (t.pe[p].framer.state = .body 1 ∧ f = ⟨.check 2, t.pe[p].framer.buf ++ [b], 0⟩) ∨
          (t.pe[p].framer.state = .check 2 ∧ f = ⟨.check 1, t.pe[p].framer.buf ++ [b], 0⟩) →
        exec (.frameByte p b) s = .next (t.onPe p fun _ => ⟨{ t.pe[p] with framer := f }, []⟩)) ∧
      (∀ k g h, t.pe[p].framer.state = .header 1 → t.pe[p].framer.buf = [k, g, h] →
        1600 < h.toNat * 256 + b.toNat → 0xC3 ∉ [k, g, h, b] → exec (.frameByte p b) s =
          .next (t.onPe p fun _ => ⟨{ t.pe[p] with
            framer := ⟨.hunting, [], 0⟩
            counters := { t.pe[p].counters with
              lengthErrors := min 4294967295 (t.pe[p].counters.lengthErrors + 1) } }, []⟩)) ∧
      (∀ covered hi, t.pe[p].framer.state = .check 1 → t.pe[p].framer.buf = covered ++ [hi] →
        hi.toNat * 256 + b.toNat ≠ (crc16 covered).toNat → 0xC3 ∉ covered ++ [hi, b] → exec (.frameByte p b) s =
          .next (t.onPe p fun _ => ⟨{ t.pe[p] with
            framer := ⟨.hunting, [], 0⟩
            counters := { t.pe[p].counters with
              crcErrors := min 4294967295 (t.pe[p].counters.crcErrors + 1) } }, []⟩)))) ∧
  (∀ (p : Port) (s t : State), Takes (.byteGapAbort p) s t → t.pe[p].framer.state ≠ .hunting →
    0xC3 ∉ t.pe[p].framer.buf → exec (.byteGapAbort p) s =
      .next (t.onPe p fun _ => ⟨{ t.pe[p] with
        framer := ⟨.hunting, [], 0⟩
        counters := { t.pe[p].counters with
          byteGapAborts := min 4294967295 (t.pe[p].counters.byteGapAborts + 1) } }, []⟩))) ∧
  (∀ (p : Port) (tick : Tick) (b : Byte) (w : Work PE) (f : Framer) (ev : FrameEvent),
    w.st.link = true → w.st.framer.take b = (f, some ev) → (∀ kind tag body, ev ≠ .good kind tag body) →
    PE.frameByte p tick b w = (w.st.framer.buf ++ [b]).foldl (fun w x => PE.frameByte p tick x w)
      (w.mod fun e => { e with framer := ⟨.hunting, [], 0⟩, counters := countDiscard ev e.counters }))

/-- A good frame (R165, R181, R185, R186, R187): the byte that completes it hands it to slot allotment. A tag in use is answered
TAG_BUSY from the reserve, or counted as an overrun; so is a frame that finds no slot. The lowest FREE slot takes any other,
and the gate answers UNKNOWN_KIND, NO_SESSION or NOT_ADMIN there, or hands the request on. -/
def Obligations.GoodFrameResults : Prop :=
  ∀ (p : Port) (b kind tag : Byte) (body : List Byte) (s t : State) (e : PE), Takes (.frameByte p b) s t →
    t.pe[p].link = true → t.pe[p].framer.state = .check 1 → body.length ≤ 1600 →
    t.pe[p].framer.buf ++ [b] = (frameBytes kind tag body).tail → e = afterGoodFrame t.tb.tick t.pe[p] →
    ((∃ k : SlotId, e.slots[k].state ≠ .free ∧ e.slots[k].tag = tag) →
      (e.reserve = false → exec (.frameByte p b) s = .next (t.onPe p fun _ => ⟨{ e with
        reserve := true
        replies := e.replies ++ [⟨.reserve, tag, [kind, 0x06, 0xFE]⟩]
        counters := { e.counters with requestsRefused := min 4294967295 (e.counters.requestsRefused + 1) } }, []⟩)) ∧
      (e.reserve = true → exec (.frameByte p b) s = .next (t.onPe p fun _ => ⟨{ e with
        counters := { e.counters with overruns := min 4294967295 (e.counters.overruns + 1) } }, []⟩))) ∧
    ((∀ k : SlotId, e.slots[k].state ≠ .free ∧ e.slots[k].tag ≠ tag) → exec (.frameByte p b) s =
      .next (t.onPe p fun _ => ⟨{ e with
        counters := { e.counters with overruns := min 4294967295 (e.counters.overruns + 1) } }, []⟩)) ∧
    ∀ (k : SlotId) (g : PE), (∀ j : SlotId, e.slots[j].state = .free ∨ e.slots[j].tag ≠ tag) →
      e.slots[k].state = .free → (∀ j < k, e.slots[j].state ≠ .free) →
      g = { e with slots := e.slots.set k (heldSlot kind tag body) } →
      (gateOf p kind body = .unknown → exec (.frameByte p b) s =
        .next (t.onPe p fun _ => ⟨answeredFrom g k ⟨.unknownKind, 0, .empty⟩, []⟩)) ∧
      (gateOf p kind body = .hello → exec (.frameByte p b) s = .next (t.onPe p fun _ => ⟨g, [.hello p k]⟩)) ∧
      (∀ go, gateOf p kind body = .any go ∨ gateOf p kind body = .admin go →
        (e.dev ≠ .ready ∨ e.sess.isOpen = false ∨ e.sess.endPending ≠ .none → exec (.frameByte p b) s =
          .next (t.onPe p fun _ => ⟨answeredFrom g k ⟨.noSession, 0, .empty⟩, []⟩)) ∧
        (e.dev = .ready → e.sess.isOpen = true → e.sess.endPending = .none →
          (gateOf p kind body = .any go ∨ e.sess.role = .admin → exec (.frameByte p b) s =
            .next (t.onPe p fun _ => ⟨{ e with slots := e.slots.set k { heldSlot kind tag body with
              owner := some ⟨p, e.sess.number⟩ } }, [go ⟨⟨p, e.sess.number⟩, k⟩]⟩)) ∧
          (gateOf p kind body = .admin go → e.sess.role = .client → exec (.frameByte p b) s =
            .next (t.onPe p fun _ => ⟨answeredFrom g k ⟨.notAdmin, 0, .empty⟩, []⟩))))

/-- An answer at its PE (R161, R188): a status other than OK is counted; the REPLY of a HELD slot that is not void, and has the
open session or none as owner, is queued and the slot ANSWERED; another HELD slot is freed. An answer of another block that
meets a HELLO's slot is counted alone (log entry 45: the model's choice). -/
def Obligations.AnswerArrivalResults : Prop :=
  ∀ (p : Port) (k : SlotId) (a : Answer) (s t : State), Takes (.answerArrival p k a) s t →
    (s.strayAnswer p k a = false → t.pe[p].slots[k].state = .held →
      (t.pe[p].slots[k].isVoid = false ∧
        (t.pe[p].slots[k].owner = none ∨ ∃ o, t.pe[p].slots[k].owner = some o ∧ o.port = p ∧ SessionOpen t o) →
        exec (.answerArrival p k a) s = .next (t.onPe p fun _ => ⟨answeredFrom t.pe[p] k a, []⟩)) ∧
      (t.pe[p].slots[k].isVoid = true ∨
          (∃ o, t.pe[p].slots[k].owner = some o ∧ (o.port ≠ p ∨ ¬ SessionOpen t o)) →
        exec (.answerArrival p k a) s = .next (t.onPe p fun _ => ⟨{ t.pe[p] with
          slots := t.pe[p].slots.set k ⟨.free, 0, 0, [], none, false⟩
          counters := (answeredFrom t.pe[p] k a).counters }, []⟩))) ∧
    (s.strayAnswer p k a = true ∨ t.pe[p].slots[k].state ≠ .held → exec (.answerArrival p k a) s =
      .next (t.onPe p fun _ => ⟨{ t.pe[p] with counters := (answeredFrom t.pe[p] k a).counters }, []⟩))

/-- The status code is the second byte of every REPLY body, behind the request kind and ahead of the detail byte (R213, R214):
OK is 00h and is never an error, and a status other than OK raises requests refused by one when its answer arrives. -/
def Obligations.StatusCodesOfReplies : Prop :=
  (∀ (kind : Byte) (a : Answer), (replyBody kind a)[0]? = some kind ∧
    (replyBody kind a)[1]? = some (BitVec.ofNat 8 (statusCode a.status)) ∧
    (replyBody kind a)[2]? = some (BitVec.ofNat 8 a.detail)) ∧
  (List.map statusCode [.ok, .malformed, .unknownKind, .noSession, .notAdmin, .adminHeld, .tagBusy, .busy, .outOfRange,
    .noStream, .streamExists, .sealed, .full, .noRoom, .noCursor, .notOwner, .wrongState, .beforeHead, .beyondTail,
    .beyondDelivered, .inUse, .gone, .seqExhausted, .starting, .deviceFailed] = List.range 25) ∧
  (∀ (p : Port) (k : SlotId) (a : Answer) (s t : State), Takes (.answerArrival p k a) s t →
    ∃ u, exec (.answerArrival p k a) s = .next u ∧ OnlyPe p t u ∧ u.pe[p].counters = { t.pe[p].counters with
      requestsRefused := if a.status = .ok then t.pe[p].counters.requestsRefused
        else min 4294967295 (t.pe[p].counters.requestsRefused + 1) })

/-- The transmit arbiter (R190, R191, R192), which chooses at the end of every event of its Port Engine: nothing while the link
is DOWN or the line is taken; the REPLY at the head first; then a notice or a DELIVER by the preference; of the DELIVERs the
one whose cursor comes first after the last one taken. An offer alone changes nothing else. DE's offers are the READY DELIVERs
not yet taken, and none once the restart has begun (R119, R130, R207; read as from the device state RESTARTING on, log entry 70: the
model's reading); an offer of DE or of NU for a session that has ended at the port is not taken (log entry 79: the model's
choice).

The last byte of a frame is out (R171, R173, R190): a REPLY frees its slot or the reserve, and that of a BYE's OK ends its
session; a DELIVER and a NOTICE are counted and reported sent unless already reported dropped; RESTART's ends its session. -/
def Obligations.TransmitterResults : Prop :=
  ((∀ (p : Port) (s t : State), Takes (.transmitOffer p) s t →
    exec (.transmitOffer p) s = .next (t.onPe p fun _ => ⟨t.pe[p], []⟩)) ∧
  (∀ (p : Port) (t : State) (o : Offer), o ∈ (t.peEnv p).offers ↔ t.dev.state ≠ .restarting ∧ ∃ (k : Fin 2) (x : Buffer),
    x = t.de.buffer ⟨p, k⟩ ∧ x.state = .ready ∧ (∀ w ∈ t.wires, w.msg ≠ .deliverTaken ⟨p, k⟩) ∧
    x.owner = some o.sess ∧ o.buf = ⟨p, k⟩ ∧ o.cursor = x.cursor ∧ o.body = deliverBody x) ∧
  (∀ (p : Port) (e : PE) (ms : List Instr) (t : State) (offers : List Offer),
    (∀ o, o ∈ offers ↔ (o ∈ (t.peEnv p).offers ∧ e.dev ≠ .restarting ∧ e.sess.isOpen = true ∧
      e.sess.number = o.sess.number)) →
    (e.link = false ∨ e.tx ≠ none → (t.onPe p fun _ => ⟨e, ms⟩) = { t with pe := t.pe.set p e }.post (.pe p) ms) ∧
    (e.link = true → e.tx = none →
      (∀ r rest, e.replies = r :: rest → (t.onPe p fun _ => ⟨e, ms⟩) = { t with pe := t.pe.set p { e with
        tx := some ⟨.reply r.source, frameBytes 0x80 r.tag r.body, false⟩, replies := rest
        preferDeliver := false } }.post (.pe p) ms) ∧
      (∀ sess n, e.replies = [] → t.offeredNotice p = some (sess, n) → e.sess.isOpen = true →
        e.sess.number = sess.number → (offers = [] ∨ e.preferDeliver = false) →
        (t.onPe p fun _ => ⟨e, ms⟩) = { t with pe := t.pe.set p { e with
          tx := some ⟨.notice sess n, frameBytes 0x82 0 (noticeBody n), false⟩
          preferDeliver := true } }.post (.pe p) (ms ++ [Instr.noticeTaken p])) ∧
      (e.replies = [] → offers ≠ [] →
        (e.preferDeliver = true ∨ ∀ sess n, t.offeredNotice p = some (sess, n) →
          e.sess.isOpen = false ∨ e.sess.number ≠ sess.number) →
        ∃ o ∈ offers, (∀ x ∈ offers, turn e.lastCursor o.cursor ≤ turn e.lastCursor x.cursor) ∧
          (t.onPe p fun _ => ⟨e, ms⟩) = { t with pe := t.pe.set p { e with
            tx := some ⟨.deliver o.buf, frameBytes 0x81 0 o.body, false⟩
            preferDeliver := false, lastCursor := o.cursor } }.post (.pe p) (ms ++ [Instr.deliverTaken o.buf])) ∧
      (e.replies = [] → offers = [] → (∀ sess n, t.offeredNotice p = some (sess, n) →
          e.sess.isOpen = false ∨ e.sess.number ≠ sess.number) →
        (t.onPe p fun _ => ⟨e, ms⟩) = { t with pe := t.pe.set p e }.post (.pe p) ms)))) ∧
  (∀ (p : Port) (x : Tx) (e : PE) (s t : State), Takes (.frameSent p) s t → t.pe[p].tx = some x →
    e = { t.pe[p] with tx := none } →
    (x.source = .reply .reserve →
      exec (.frameSent p) s = .next (t.onPe p fun _ => ⟨{ e with reserve := false }, []⟩)) ∧
    (∀ (k : SlotId) (g : PE), x.source = .reply (.slot k) →
      g = { e with slots := e.slots.set k ⟨.free, 0, 0, [], none, false⟩ } →
      (e.sess.endPending ≠ .bye ∨ e.slots[k].owner ≠ some ⟨p, e.sess.number⟩ →
        exec (.frameSent p) s = .next (t.onPe p fun _ => ⟨g, []⟩)) ∧
      (∀ tag kind a, x.bytes = frameBytes 0x80 tag (replyBody kind a) → kind ≠ 0x02 →
        exec (.frameSent p) s = .next (t.onPe p fun _ => ⟨g, []⟩)) ∧
      (∀ tag, x.bytes = frameBytes 0x80 tag [0x02, 0x00, 0x00] → e.sess.endPending = .bye →
        e.slots[k].owner = some ⟨p, e.sess.number⟩ →
        ∃ u, exec (.frameSent p) s = .next u ∧ SessionEnds p t g [] u)) ∧
    (∀ b, x.source = .deliver b →
      (x.reported = false → exec (.frameSent p) s = .next (t.onPe p fun _ => ⟨{ e with counters := { e.counters with
        deliveriesSent := min 4294967295 (e.counters.deliveriesSent + 1) } }, [.deliverSent b]⟩)) ∧
      (x.reported = true → exec (.frameSent p) s = .next (t.onPe p fun _ => ⟨e, []⟩))) ∧
    (∀ sess n, x.source = .notice sess n →
      (x.reported = true → exec (.frameSent p) s = .next (t.onPe p fun _ => ⟨e, []⟩)) ∧
      ∀ g, x.reported = false → g = { e with counters := { e.counters with
          noticesSent := min 4294967295 (e.counters.noticesSent + 1) } } →
        (n.kind ≠ .restart →
          exec (.frameSent p) s = .next (t.onPe p fun _ => ⟨g, [.noticeSentReport sess n true]⟩)) ∧
        (n.kind = .restart → e.sess.isOpen = true → e.sess.number = sess.number →
          ∃ u, exec (.frameSent p) s = .next u ∧ SessionEnds p t g [.noticeSentReport sess n true] u)))

/-! ### Sessions, roles and the Time Base -/

/-- HELLO (R166, R168), check by check: MALFORMED; STARTING or DEVICE_FAILED outside READY; WRONG_STATE with the session that stands, or
with none while a claim is out; OUT_OF_RANGE by field; a CLIENT session opens at once; for ADMIN the holder is asked, or
ADMIN_HELD is answered where the port has no grant. A HELLO in a void slot runs on like any other (R178, log entry 31). The
model's choices: the answers are messages to the Port Engine itself (log entry 33), and the cursor count of WRONG_STATE is DE's
in the same step (log entry 41).

The admin holder and its answer (R167, R173): a claim is granted where the holder is empty; a release empties it where it
names the port; a granted claim opens the ADMIN session in READY with the link UP and the grant still there, and is released
otherwise: answered ADMIN_HELD in READY, with the link DOWN too, where its void slot discards the REPLY (log entry 32, DEDUCED). -/
def Obligations.HelloAndHolderResults : Prop :=
  (∀ (p : Port) (k : SlotId) (s t : State) (refuse : Status → Nat → Instr), Takes (.hello p k) s t →
    t.pe[p].slots[k].state = .held →
    (∀ st n, refuse st n = .answerArrival p k ⟨st, n, .hello 0 .client t.pe[p].dev 0⟩) →
    (∀ d, helloBody t.pe[p].slots[k].body = .error d →
      exec (.hello p k) s = .next (t.onPe p fun _ => ⟨t.pe[p], [refuse .malformed d]⟩)) ∧
    ∀ b, helloBody t.pe[p].slots[k].body = .ok b →
      ((t.pe[p].dev = .initializing ∨ t.pe[p].dev = .restarting) →
        exec (.hello p k) s = .next (t.onPe p fun _ => ⟨t.pe[p], [refuse .starting 0]⟩)) ∧
      (t.pe[p].dev = .failed →
        exec (.hello p k) s = .next (t.onPe p fun _ => ⟨t.pe[p], [refuse .deviceFailed 0]⟩)) ∧
      (t.pe[p].dev = .ready →
        (t.pe[p].sess.isOpen = true → exec (.hello p k) s =
          .next (t.onPe p fun _ => ⟨t.pe[p], [.answerArrival p k ⟨.wrongState, 0, .hello t.pe[p].sess.number
            t.pe[p].sess.role .ready (t.de.sessionCount ⟨p, t.pe[p].sess.number⟩)⟩]⟩)) ∧
        (t.pe[p].sess.isOpen = false → t.pe[p].sess.claim ≠ none →
          exec (.hello p k) s = .next (t.onPe p fun _ => ⟨t.pe[p], [refuse .wrongState 0]⟩)) ∧
        (t.pe[p].sess.isOpen = false → t.pe[p].sess.claim = none →
          (2 ≤ b.role →
            exec (.hello p k) s = .next (t.onPe p fun _ => ⟨t.pe[p], [refuse .outOfRange 1]⟩)) ∧
          (b.role < 2 → b.keepalive < 100 ∨ 10000 < b.keepalive →
            exec (.hello p k) s = .next (t.onPe p fun _ => ⟨t.pe[p], [refuse .outOfRange 2]⟩)) ∧
          (b.role < 2 → 100 ≤ b.keepalive → b.keepalive ≤ 10000 → 8 ≤ b.mask →
            exec (.hello p k) s = .next (t.onPe p fun _ => ⟨t.pe[p], [refuse .outOfRange 3]⟩)) ∧
          ∀ m, 100 ≤ b.keepalive → b.keepalive ≤ 10000 → maskOf b.mask = some m →
            (b.role = 0 → exec (.hello p k) s = .next (t.onPe p fun _ => ⟨{ t.pe[p] with
              sess := ⟨true, .none, .client, b.keepalive, some (t.tb.tick + BitVec.ofNat 32 (2 * b.keepalive)), m,
                t.pe[p].sess.number + 1, none⟩ },
              [.sessionOpenReport ⟨p, t.pe[p].sess.number + 1⟩ m,
               .answerArrival p k ⟨.ok, 0, .hello (t.pe[p].sess.number + 1) .client .ready 0⟩]⟩)) ∧
            (b.role = 1 → t.pe[p].grant = true → exec (.hello p k) s = .next (t.onPe p fun _ => ⟨{ t.pe[p] with
              sess := { t.pe[p].sess with claim := some ⟨k, b.keepalive, m⟩ } }, [.adminClaim p]⟩)) ∧
            (b.role = 1 → t.pe[p].grant = false →
              exec (.hello p k) s = .next (t.onPe p fun _ => ⟨t.pe[p], [refuse .adminHeld 0]⟩))))) ∧
  ((∀ (p : Port) (s t : State),
    (Takes (.adminClaim p) s t →
      (t.holder = none → exec (.adminClaim p) s =
        .next ({ t with holder := some p }.post .holder [.adminClaimAnswer p true])) ∧
      (t.holder ≠ none → exec (.adminClaim p) s = .next (t.post .holder [.adminClaimAnswer p false]))) ∧
    (Takes (.adminRelease p) s t →
      (t.holder = some p → exec (.adminRelease p) s = .next { t with holder := none }) ∧
      (t.holder ≠ some p → exec (.adminRelease p) s = .next t))) ∧
  (∀ (p : Port) (granted : Bool) (c : Claim) (e : PE) (s t : State), Takes (.adminClaimAnswer p granted) s t →
    t.pe[p].sess.claim = some c → e = { t.pe[p] with sess := { t.pe[p].sess with claim := none } } →
    (e.dev = .ready → e.link = true → granted = true → e.grant = true → exec (.adminClaimAnswer p granted) s =
      .next (t.onPe p fun _ => ⟨{ e with
        sess := ⟨true, .none, .admin, c.keepalive, some (t.tb.tick + BitVec.ofNat 32 (2 * c.keepalive)), c.mask,
          e.sess.number + 1, none⟩ },
        [.sessionOpenReport ⟨p, e.sess.number + 1⟩ c.mask,
         .answerArrival p c.slot ⟨.ok, 0, .hello (e.sess.number + 1) .admin .ready 0⟩]⟩)) ∧
    (e.dev = .ready → (e.link = false ∨ granted = false ∨ e.grant = false) → exec (.adminClaimAnswer p granted) s =
      .next (t.onPe p fun _ => ⟨e, (if granted then [.adminRelease p] else []) ++
        [.answerArrival p c.slot ⟨.adminHeld, 0, .hello 0 .client .ready 0⟩]⟩)) ∧
    (e.dev = .restarting → e.sess.isOpen = false → e.settled = false → exec (.adminClaimAnswer p granted) s =
      .next (t.onPe p fun _ => ⟨{ e with settled := true },
        (if granted then [.adminRelease p] else []) ++ [.portSettledReport p]⟩))))

/-- Keepalive, BYE and PING (R169, R170, R171): an expiry of the present deadline ends the session and a stale one does nothing;
BYE sets the end pending, cancels the deadline and is answered OK; PING is answered with clock and tick.

PORT_STATUS, PORT_GRANT and CLOCK_SET (R162, R174, R175, R177): the report of the named port's Port Engine, its counters cleared
with the flag; a grant set, or revoked with the demotion of an ADMIN session, P0's grant never, both whatever that Port Engine's
copy of the device state (R199); the clock set, answered with its old value, and the tick untouched, after the Time Base's
abandon order too. The model's choices: the counts of DE and NU are taken in the same step (log entry 41),
and a Port Engine's own answers are messages to itself (log entry 33). -/
def Obligations.SessionPortAndClockResults : Prop :=
  ((∀ (p : Port) (d : Tick) (s t : State), Takes (.keepaliveExpiry p d) s t →
    (t.pe[p].sess.isOpen = true → t.pe[p].sess.endPending = .none → t.pe[p].sess.deadline = some d →
      ∃ u, exec (.keepaliveExpiry p d) s = .next u ∧ SessionEnds p t t.pe[p] [] u) ∧
    (t.pe[p].sess.isOpen = false ∨ t.pe[p].sess.endPending ≠ .none ∨ t.pe[p].sess.deadline ≠ some d →
      exec (.keepaliveExpiry p d) s = .next (t.onPe p fun _ => ⟨t.pe[p], []⟩))) ∧
  (∀ (r : Req) (s t : State),
    (Takes (.bye r) s t → t.body r = [] → SessionOpen t r.sess → exec (.bye r) s =
      .next (t.onPe r.sess.port fun _ => ⟨{ t.pe[r.sess.port] with
        sess := { t.pe[r.sess.port].sess with endPending := .bye, deadline := none } },
        [.answerArrival r.sess.port r.slot ⟨.ok, 0, .empty⟩]⟩)) ∧
    (Takes (.ping r) s t → t.body r = [] → exec (.ping r) s =
      .next (t.onPe r.sess.port fun _ => ⟨t.pe[r.sess.port],
        [.answerArrival r.sess.port r.slot ⟨.ok, 0, .ping t.tb.clock t.tb.tick⟩]⟩)) ∧
    (Takes (.bye r) s t → t.body r ≠ [] → exec (.bye r) s = .next (t.onPe r.sess.port fun _ =>
      ⟨t.pe[r.sess.port], [.answerArrival r.sess.port r.slot ⟨.malformed, 0, .empty⟩]⟩)) ∧
    (Takes (.ping r) s t → t.body r ≠ [] → exec (.ping r) s = .next (t.onPe r.sess.port fun _ =>
      ⟨t.pe[r.sess.port], [.answerArrival r.sess.port r.slot ⟨.malformed, 0, .empty⟩]⟩)))) ∧
  ((∀ (r : Req) (p : Port) (clear : Bool) (s t : State), Takes (.portStatus r p) s t →
    idFlagBody (t.body r) = .ok (p.val, clear) → ∃ rep, exec (.portStatus r p) s =
      .next (t.onPe p fun _ => ⟨{ t.pe[p] with
        counters := if clear then ⟨0, 0, 0, 0, 0, 0, 0, 0⟩ else t.pe[p].counters },
        [.answerArrival r.sess.port r.slot ⟨.ok, 0, .port rep⟩]⟩) ∧
      rep.port = p ∧ rep.link = t.pe[p].link ∧ rep.grant = t.pe[p].grant ∧ rep.sessionOpen = t.pe[p].sess.isOpen ∧
      rep.counters = t.pe[p].counters ∧ rep.role = t.pe[p].sess.role ∧ rep.keepalive = t.pe[p].sess.keepalive ∧
      rep.mask = t.pe[p].sess.mask ∧
      rep.slotsInUse = ((List.finRange 8).filter fun k => t.pe[p].slots[k].state ≠ .free).length ∧
      (t.pe[p].sess.isOpen = true → rep.number = t.pe[p].sess.number ∧
        rep.cursors = t.de.sessionCount ⟨p, t.pe[p].sess.number⟩ ∧
        (OpenAtNu t ⟨p, t.pe[p].sess.number⟩ →
          rep.queueLength = t.nu.ports[p].queue.length ∧ rep.lost = t.nu.ports[p].lost)) ∧
      (t.pe[p].sess.isOpen = false → rep.number = 0 ∧ rep.cursors = 0 ∧ rep.queueLength = 0 ∧ rep.lost = 0)) ∧
  (∀ (r : Req) (p : Port) (v : Nat) (clear : Bool) (s t : State), Takes (.portStatus r p) s t →
    idFlagBody (t.body r) = .ok (v, clear) → 4 ≤ v → exec (.portStatus r p) s =
      .next (t.onPe p fun _ => ⟨t.pe[p], [.answerArrival r.sess.port r.slot ⟨.outOfRange, 1, .empty⟩]⟩)) ∧
  (∀ (r : Req) (p : Port) (s t : State) (refuse : Nat → Instr), Takes (.portGrant r p) s t →
    (∀ n, refuse n = .answerArrival r.sess.port r.slot ⟨.outOfRange, n, .empty⟩) →
    (∀ v a, grantBody (t.body r) = .ok (v, a) → 4 ≤ v →
      exec (.portGrant r p) s = .next (t.onPe p fun _ => ⟨t.pe[p], [refuse 1]⟩)) ∧
    (∀ a, grantBody (t.body r) = .ok (p.val, a) → 2 ≤ a →
      exec (.portGrant r p) s = .next (t.onPe p fun _ => ⟨t.pe[p], [refuse 2]⟩)) ∧
    (grantBody (t.body r) = .ok (p.val, 1) → exec (.portGrant r p) s =
      .next (t.onPe p fun _ => ⟨{ t.pe[p] with grant := true },
        [.answerArrival r.sess.port r.slot ⟨.ok, 0, .empty⟩]⟩)) ∧
    (grantBody (t.body r) = .ok (p.val, 0) →
      (p = 0 → exec (.portGrant r p) s = .next (t.onPe p fun _ => ⟨t.pe[p], [refuse 1]⟩)) ∧
      (p ≠ 0 → t.pe[p].sess.isOpen = true → t.pe[p].sess.role = .admin → exec (.portGrant r p) s =
        .next (t.onPe p fun _ => ⟨{ t.pe[p] with grant := false, sess := { t.pe[p].sess with role := .client } },
          [.adminRelease p, .noticeEvent ⟨.roleChanged, none, none, some 0, some ⟨p, t.pe[p].sess.number⟩⟩,
           .answerArrival r.sess.port r.slot ⟨.ok, 0, .empty⟩]⟩)) ∧
      (p ≠ 0 → (t.pe[p].sess.isOpen = false ∨ t.pe[p].sess.role = .client) → exec (.portGrant r p) s =
        .next (t.onPe p fun _ => ⟨{ t.pe[p] with grant := false },
          [.answerArrival r.sess.port r.slot ⟨.ok, 0, .empty⟩]⟩)))) ∧
  (∀ (r : Req) (v : Nat) (s t : State), s.receive (.clockSet r) = some t → oneField 6 (t.body r) = .ok v →
    exec (.clockSet r) s = .next ({ t with tb := { t.tb with clock := BitVec.ofNat 48 v } }.post (.core .tb)
      [.answerArrival r.sess.port r.slot ⟨.ok, 0, .clock t.tb.clock⟩])))

/-! ### The Memory Port -/

/-- The class queues (R195, R196, R197): an operation joins the tail of its class; while the DRAM is busy nothing more happens, and
while it is idle the arbiter grants the head of the first class with one, from the class after the last granted.

The end of a DRAM operation (R194, R196, R197, R198): a write leaves its data, as many bytes as it is long, at the operation's
address and every other byte as it was, so that no byte of another page or outside the DRAM changes; a read brings the bytes the DRAM holds back and changes none; the issuer is told; and the next grant goes to the
first class with an operation, in rotation. An operation outside the DRAM or its page stops the model: the spec says that none
is performed. -/
def Obligations.MemoryPortResults : Prop :=
  (∀ (op : MpOp) (s t : State), Takes (.mpOperationIssue op) s t →
    (t.mp.busy ≠ none → ∃ u, exec (.mpOperationIssue op) s = .next u ∧ u = { t with mp := u.mp } ∧
      u.mp.busy = t.mp.busy ∧ u.mp.last = t.mp.last ∧ u.mp.dram = t.mp.dram ∧ u.mp.calibrated = t.mp.calibrated ∧
      ∀ c, u.mp.queue c = t.mp.queue c ++ if c = classOf op.ref then [op] else []) ∧
    (t.mp.busy = none → t.mp.appendWrites = [] → t.mp.deliveryReads = [] → t.mp.maps = [] →
      exec (.mpOperationIssue op) s = .next { t with mp := { t.mp with busy := some op, last := classOf op.ref } })) ∧
  (∀ (op : MpOp) (s t : State), Takes .mpOperationFinished s t → t.mp.busy = some op →
    (reaches t.dev.memsize op = false → exec .mpOperationFinished s = .fault .noSuchAddress) ∧
    (reaches t.dev.memsize op = true → ∃ u, exec .mpOperationFinished s = .next u ∧
      u = { t with mp := u.mp, wires := u.wires } ∧ u.mp.calibrated = t.mp.calibrated ∧
      (writes op.ref = true → Sends (.core .mp) t u [completion [] op.ref] ∧
        (∀ k (h : k < (writtenBytes op).length), u.mp.dram.byte (addressOf op + k) = (writtenBytes op)[k]) ∧
        ∀ a, a < addressOf op ∨ addressOf op + (writtenBytes op).length ≤ a → u.mp.dram.byte a = t.mp.dram.byte a) ∧
      (∀ a, u.mp.dram.byte a ≠ t.mp.dram.byte a → a / 2048 = op.page ∧ op.page < Config.pages t.dev.memsize) ∧
      (writes op.ref = false → u.mp.dram = t.mp.dram ∧ Sends (.core .mp) t u
        [completion ((List.range op.len).map fun k => t.mp.dram.byte (addressOf op + k)) op.ref]) ∧
      ((∀ c, t.mp.queue c = []) → u.mp.busy = none ∧ u.mp.last = t.mp.last ∧ ∀ c, u.mp.queue c = []) ∧
      ∀ a b c first rest, [t.mp.last, a, b, c] ∈ [[MpClass.map, .appendWrite, .deliveryRead, .map],
          [.appendWrite, .deliveryRead, .map, .appendWrite], [.deliveryRead, .map, .appendWrite, .deliveryRead]] →
        (∀ x, (x = a ∧ t.mp.queue a = first :: rest) ∨ (x = b ∧ t.mp.queue a = [] ∧ t.mp.queue b = first :: rest) ∨
            (x = c ∧ t.mp.queue a = [] ∧ t.mp.queue b = [] ∧ t.mp.queue c = first :: rest) →
          u.mp.busy = some first ∧ u.mp.last = x ∧ u.mp.queue x = rest ∧
          ∀ y, y ≠ x → u.mp.queue y = t.mp.queue y)))

/-! ### Frames, invariants and the memory -/

/-- What is built is read back. A framer that is HUNTING takes a frame as the transmitter builds it, with a body of at most 1,600
bytes: its kind, tag and body come back, and the bytes that follow are left (R179, R180, R181, R190). A map slot's bytes give back
the record, closed (R44, R198); an entry's first 16 bytes give back its header, and the payload stands behind them (R64, R198); so
does a PAD header (R67). The layouts in DRAM are the model's (log entries 7 and 8). -/
def Obligations.FramesAreTakenAsBuilt : Prop :=
  (∀ (kind tag : Byte) (body rest : List Byte) (f : Framer), f.state = .hunting → body.length ≤ 1600 →
    ∃ g, f.run (frameBytes kind tag body ++ rest) = (g, some (.good kind tag body), rest)) ∧
  (∀ r : MapRec, r.ppn < 65536 → r.firstSeq < 4294967296 → r.lastSeq < 4294967296 →
    (slotBytes r).length = 16 ∧ slotRecord (slotBytes r) = { r with closed := true }) ∧
  (∀ (seq : Seq) (stamp : Clock) (payload : List Byte), seq < 4294967296 → payload.length < 65536 →
    (entryBytes seq stamp payload).length = storedSize payload.length ∧
    headerOf ((entryBytes seq stamp payload).take 16) =
      ⟨.entry, payload.length, (crc16 payload).toNat, seq, stamp⟩ ∧
    ((entryBytes seq stamp payload).drop 16).take payload.length = payload) ∧
  (∀ n : Nat, 16 ≤ n → n ≤ 2048 → headerOf (padBytes n) = ⟨.pad, n - 16, 0, 0, 0⟩)

/-- Only the Memory Port's commands and those of start-up change a byte of the DRAM: every other command leaves all of memory
as it was (R194, R201, R202, R206). -/
def Obligations.MemoryChangesOnlyAtTheMemoryPort : Prop :=
  ∀ (c : Instr) (s u : State), exec c s = .next u → c ≠ .resetNLow → (∀ m, c ≠ .resetNRelease m) →
    (∀ ok, c ≠ .calibrationDone ok) → (∀ ok, c ≠ .memoryCheckDone ok) → c ≠ .abandonOrder .mp →
    c ≠ .mpOperationFinished → u.mp.dram = s.mp.dram

/-- Every step keeps the DRAM's listed bytes in canonical form.

Every step keeps the free list at least as long as the unused reservations together, the pressure marks in order and within
the pool, the map cache's entries and keys apart, the append queue at 16 and the lookup queue at 8, the grant of P0, the lost
counts within 65,535, and the tick's millisecond. -/
def Obligations.StepKeepsTheInvariants : Prop :=
  (∀ s u : State, s.memoryOk → step s = .next u → u.memoryOk) ∧
  (∀ s u : State, step s = .next u →
    (s.marksOk → u.marksOk) ∧ (s.cacheOk → u.cacheOk) ∧ (s.queuesOk → u.queuesOk) ∧ (s.grantOk → u.grantOk) ∧
    (s.lostOk → u.lostOk) ∧ (s.tickOk → u.tickOk) ∧ (s.reservedOk → u.reservedOk))

/-- Every step keeps each pool page either on the free list or recorded as ALLOCATED or RELEASING, exactly once (R25, R26, R36). -/
def Obligations.PoolPagesStayAccountedFor : Prop :=
  ∀ s u : State, s.pagesOk → step s = .next u → u.pagesOk

/-- The invariants hold right after reset (R25, R28, R38, R50, R53, R68, R154, R164, R176). -/
def Obligations.InvariantsHoldAfterReset : Prop :=
  State.reset.memoryOk ∧ State.reset.pagesOk ∧ State.reset.marksOk ∧ State.reset.cacheOk ∧ State.reset.queuesOk ∧
    State.reset.grantOk ∧ State.reset.lostOk ∧ State.reset.tickOk ∧ State.reset.reservedOk

/-- FAILED is left by RESET_N alone (R204). -/
def Obligations.FailedIsLeftByResetAlone : Prop :=
  ∀ (c : Instr) (s u : State), s.dev.state = .failed → c ≠ .resetNLow → (∀ m, c ≠ .resetNRelease m) →
    exec c s = .next u → u.dev.state = .failed
end

