-- ==== Sys2Proof/Laws/Fields.lean ====
section
/-! SUPPORT. Numbers in bytes, most significant first: what is written is what is read (R210). -/

namespace Sys2Proof.Machine

/-- A number takes the bytes it is given. -/
@[simp] theorem encode_length (w v : Nat) : (encode w v).length = w := by
  induction w with
  | zero => rfl
  | succ w ih => simp [encode, ih]

/-- Reading on from a number already read. -/
theorem foldl_number (bs : List Byte) (n : Nat) :
    bs.foldl (fun n b => n * 256 + b.toNat) n = n * 256 ^ bs.length + number bs := by
  unfold number
  induction bs generalizing n with
  | nil => simp
  | cons b bs ih =>
    simp only [List.foldl_cons, List.length_cons]
    rw [ih, ih (0 * 256 + b.toNat)]
    rw [Nat.pow_succ, Nat.zero_mul, Nat.zero_add, Nat.add_mul, Nat.mul_assoc, Nat.mul_comm 256, Nat.add_assoc]

/-- A number read back from its bytes, modulo what they can hold. -/
theorem number_encode (w v : Nat) : number (encode w v) = v % 256 ^ w := by
  induction w with
  | zero => simp [number, encode, Nat.mod_one]
  | succ w ih =>
    show List.foldl _ _ (_ :: _) = _
    have e : (2 : Nat) ^ (8 * w) = 256 ^ w := by rw [Nat.pow_mul]
    rw [List.foldl_cons, foldl_number, ih, encode_length]
    simp only [Nat.zero_mul, Nat.zero_add, BitVec.toNat_ofNat, Nat.shiftRight_eq_div_pow]
    rw [e, show (2 ^ 8 : Nat) = 256 from rfl, Nat.pow_succ, Nat.mod_mul, Nat.mul_comm, Nat.add_comm]

/-- The field that stands first. -/
theorem field_encode_first (w v : Nat) (rest : List Byte) : field (encode w v ++ rest) 0 w = v % 256 ^ w := by
  simp [field, number_encode]

/-- A field that stands behind another. -/
theorem field_encode_later {w o : Nat} (h : w ≤ o) (v n : Nat) (rest : List Byte) :
    field (encode w v ++ rest) o n = field rest (o - w) n := by
  unfold field
  rw [List.drop_append, List.drop_of_length_le (by rw [encode_length]; exact h), encode_length, List.nil_append]

end Sys2Proof.Machine
end

