-- ==== Sys2Proof/Laws/Work.lean ====
section
/-! SUPPORT. A block at work: what each operation on it does to its state and to what it has sent; tables with one entry
changed. -/

namespace Sys2Proof.Machine

variable {β : Type}

@[simp] theorem Work.start_st (b : β) : (Work.start b).st = b := rfl
@[simp] theorem Work.start_out (b : β) : (Work.start b).out = [] := rfl
@[simp] theorem Work.send_st (w : Work β) (m : Instr) : (w.send m).st = w.st := rfl
@[simp] theorem Work.send_out (w : Work β) (m : Instr) : (w.send m).out = w.out ++ [m] := rfl
@[simp] theorem Work.sendAll_st (w : Work β) (ms : List Instr) : (w.sendAll ms).st = w.st := rfl
@[simp] theorem Work.sendAll_out (w : Work β) (ms : List Instr) : (w.sendAll ms).out = w.out ++ ms := rfl
@[simp] theorem Work.mod_st (w : Work β) (f : β → β) : (w.mod f).st = f w.st := rfl
@[simp] theorem Work.mod_out (w : Work β) (f : β → β) : (w.mod f).out = w.out := rfl
@[simp] theorem Work.answer_st (w : Work β) (r : Req) (a : Answer) : (w.answer r a).st = w.st := rfl
@[simp] theorem Work.answer_out (w : Work β) (r : Req) (a : Answer) : (w.answer r a).out = w.out ++ [reply r a] := rfl
@[simp] theorem Work.refuse_st (w : Work β) (r : Req) (s : Status) (d : Nat) : (w.refuse r s d).st = w.st := rfl
@[simp] theorem Work.refuse_out (w : Work β) (r : Req) (s : Status) (d : Nat) :
    (w.refuse r s d).out = w.out ++ [reply r (refusal s d)] := rfl

/-- A layout check that passes goes on. -/
@[simp] theorem Work.layout_ok {α : Type} (w : Work β) (r : Req) (a : α) (go : α → Work β) :
    w.layout r (.ok a) go = go a := rfl

/-- A layout check that fails answers MALFORMED with its detail (R212). -/
@[simp] theorem Work.layout_error {α : Type} (w : Work β) (r : Req) (d : Nat) (go : α → Work β) :
    w.layout r (.error d) go = w.refuse r .malformed d := rfl

/-- A property of the state holds after a layout check where it holds before it and after what follows. -/
theorem Work.layout_keeps {α : Type} {P : Work β → Prop} {w : Work β} {r : Req} {l : Except Nat α} {go : α → Work β}
    (refuse : ∀ d, P (w.refuse r .malformed d)) (h : ∀ a, P (go a)) : P (w.layout r l go) := by
  cases l with
  | error d => exact refuse d
  | ok a => exact h a

/-- An index that lies in its range names itself. -/
@[simp] theorem index_val {n : Nat} (i : Fin n) : index n i.val = some i := by simp [index]

/-- Only a value in range names an index. -/
theorem index_some {n v : Nat} {i : Fin n} (h : index n v = some i) : i.val = v := by
  unfold index at h
  split at h
  · simp at h; rw [← h]
  · simp at h

/-- The entry written. -/
@[simp] theorem set_self {α : Type} {n : Nat} (v : Vector α n) (i : Fin n) (x : α) : (v.set i x)[i] = x := by simp

/-- Another entry than the one written. -/
theorem set_ne {α : Type} {n : Nat} (v : Vector α n) {i j : Fin n} (x : α) (h : j ≠ i) : (v.set i x)[j] = v[j] := by
  have : i.val ≠ j.val := fun e => h (Fin.ext e.symm)
  simp [this]

/-- The entry changed. -/
@[simp] theorem upd_self {α : Type} {n : Nat} (v : Vector α n) (i : Fin n) (f : α → α) : (upd v i f)[i] = f v[i] := by
  simp [upd]

/-- The entry changed, its index as a number. -/
@[simp] theorem upd_self_val {α : Type} {n : Nat} (v : Vector α n) (i : Fin n) (f : α → α) :
    (upd v i f)[i.val] = f v[i.val] := by
  simp [upd]

/-- Another entry. -/
theorem upd_ne {α : Type} {n : Nat} (v : Vector α n) {i j : Fin n} (f : α → α) (h : j ≠ i) : (upd v i f)[j] = v[j] := by
  have : i.val ≠ j.val := fun e => h (Fin.ext e.symm)
  simp [upd, this]

/-- Two changes of one entry are one change. -/
theorem upd_upd {α : Type} {n : Nat} (v : Vector α n) (i : Fin n) (f g : α → α) :
    upd (upd v i f) i g = upd v i fun x => g (f x) := by
  simp [upd]

/-- Changes that agree on the entry are equal. -/
theorem upd_congr {α : Type} {n : Nat} {v : Vector α n} {i : Fin n} {f g : α → α} (h : f v[i] = g v[i]) :
    upd v i f = upd v i g := by
  simp only [upd, h]

/-- The first index with a property is the lowest one. -/
theorem find_finRange {n : Nat} {p : Fin n → Bool} {c : Fin n} :
    (List.finRange n).find? p = some c ↔ p c = true ∧ ∀ k < c, p k = false := by
  have split : List.finRange n = (List.finRange n).take c ++ c :: (List.finRange n).drop (c + 1) := by
    have h : (List.finRange n)[c.val]'(by simp) = c := by simp
    conv => rhs; rhs; lhs; rw [← h]
    rw [List.getElem_cons_drop, List.take_append_drop]
  have mem : ∀ k : Fin n, k ∈ (List.finRange n).take c ↔ k < c := by
    intro k
    rw [List.mem_take_iff_getElem]
    constructor
    · rintro ⟨j, hj, rfl⟩
      simp at hj ⊢
      omega
    · exact fun h => ⟨k, by simp; omega, by simp⟩
  constructor
  · intro h
    refine ⟨by simpa using List.find?_some h, fun k hk => ?_⟩
    rw [split, List.find?_append] at h
    cases hx : ((List.finRange n).take c).find? p with
    | none => simpa using List.find?_eq_none.1 hx k ((mem k).2 hk)
    | some a =>
      have ha := (mem a).1 (List.mem_of_find?_eq_some hx)
      rw [hx] at h
      cases h
      exact absurd ha (Nat.lt_irrefl _)
  · rintro ⟨h, hk⟩
    exact List.find?_eq_some_iff_append.2 ⟨h, _, _, split, fun a ha => by simp [hk a ((mem a).1 ha)]⟩

end Sys2Proof.Machine
end

