-- ==== Sys2Proof/Laws/Append.lean ====
section
/-! SUPPORT. The Append Engine: the bytes of its entry write, and everything that happens when the APPEND in progress leaves the
queue. -/

namespace Sys2Proof.Machine

/-- An entry takes the stored size of its payload (R64). -/
theorem entryBytes_length (seq : Seq) (stamp : Clock) (payload : List Byte) :
    (entryBytes seq stamp payload).length = storedSize payload.length := by
  simp [entryBytes, headerBytes, storedSize, padded]
  omega

/-- An entry write is as long as its stored size, whatever the slot holds (R77). -/
@[simp] theorem entryOfSize_length (n : Nat) (seq : Seq) (stamp : Clock) (payload : List Byte) :
    (entryOfSize n seq stamp payload).length = n := by
  simp [entryOfSize]

/-- With a payload of its stored size in the slot an entry write carries the entry of that payload (R64, R77). -/
theorem entryOfSize_eq {n : Nat} {payload : List Byte} (h : storedSize payload.length = n) (seq : Seq) (stamp : Clock) :
    entryOfSize n seq stamp payload = entryBytes seq stamp payload := by
  have hp : payload.take (n - 16) = payload := List.take_of_length_le (by simp [storedSize, padded] at h; omega)
  rw [entryOfSize, hp, ← h, ← entryBytes_length seq stamp payload, List.take_left]

/-- The next APPEND in line is started where it is admitted (R69). -/
theorem AE.startHead_eq (w : Work AE) :
    AE.startHead w = ⟨{ w.st with queue := nextPlacing w.st.queue }, w.out ++ nextQuestion w.st.queue⟩ := by
  obtain ⟨⟨q, f, e, o⟩, out⟩ := w
  cases q with
  | nil => simp [AE.startHead, AE.head, nextPlacing, nextQuestion]
  | cons j rest =>
    by_cases h : j.state = .waiting ∧ j.admitted = true
    · simp [AE.startHead, AE.head, AE.onHead, nextPlacing, nextQuestion, h, Work.mod, Work.send]
    · have h' : (decide (j.state = .waiting) && j.admitted) = false := by
        rw [Bool.eq_false_iff]
        simpa using h
      simp only [AE.startHead, AE.head, nextPlacing, nextQuestion, List.head?_cons, h, if_false, h', List.append_nil]
      simp

/-- A bit that is clear stays clear when it is cleared again. -/
theorem set_false_of_false {n : Nat} (v : Vector Bool n) (i : Fin n) (h : v[i] = false) : v.set i false = v := by
  ext k hk
  rw [Vector.getElem_set]
  split
  · rename_i e
    subst e
    exact h.symm
  · rfl

/-- A seal order that is owed is answered, and owed no longer (R81). -/
theorem AE.paySeal_eq (i : StreamId) (w : Work AE) :
    AE.paySeal i w = ⟨{ w.st with sealOwed := w.st.sealOwed.set i false },
      w.out ++ if w.st.sealOwed[i] then [.sealAnswer i] else []⟩ := by
  unfold AE.paySeal
  split
  · rfl
  · rename_i h
    rw [set_false_of_false _ _ (by simpa using h)]
    simp

/-- The APPEND in progress leaves: everything that AE does, in its order (R23, R69, R81). -/
theorem AE.finish_eq (refused : Bool) (ans : Answer) (w : Work AE) {j : Job} {rest : List Job} (h : w.st.queue = j :: rest) :
    AE.finish refused ans w =
      ⟨{ w.st with queue := nextPlacing rest, sealOwed := w.st.sealOwed.set j.stream false },
        w.out ++ ((if refused && !j.marked then [Instr.counterUpdate j.stream .refused] else []) ++
          [reply j.req (if j.marked then refusal .gone 0 else ans)] ++
          (if w.st.sealOwed[j.stream] then [Instr.sealAnswer j.stream] else []) ++ [Instr.appendLeave j.stream] ++
          nextQuestion rest)⟩ := by
  unfold AE.finish
  rw [h]
  dsimp only
  rw [AE.startHead_eq, AE.paySeal_eq]
  split <;> simp [-Fin.getElem_fin, Work.send, Work.mod, Work.answer, *] <;> rfl

/-- An event at AE that ends with the APPEND in progress leaving. -/
theorem State.onAe_finish {t : State} {f : Work AE → Work AE} {refused : Bool} {ans : Answer} {w : Work AE} {i : StreamId}
    {j : Job} {rest : List Job} (hf : f (Work.start t.ae) = AE.finish refused ans w) (hq : w.st.queue = j :: rest)
    (hi : j.stream = i) (hs : w.st.sealOwed = t.ae.sealOwed) :
    (t.onAe f).ae.fills = w.st.fills ∧ (t.onAe f).ae.episode = w.st.episode ∧
      AppendLeaves t (t.onAe f) i rest (w.out ++ ((if refused && !j.marked then [Instr.counterUpdate i .refused] else []) ++
        [reply j.req (if j.marked then refusal .gone 0 else ans)])) := by
  subst hi
  have e : t.onAe f = ({ t with ae := (AE.finish refused ans w).st } : State).post (.core .ae) (AE.finish refused ans w).out := by
    unfold State.onAe
    rw [hf]
  rw [e, AE.finish_eq refused ans w hq]
  refine ⟨rfl, rfl, ?_, rfl, by rw [← hs]; rfl, ?_⟩
  · simp [OnlyAe, State.post]
  · simp [Sends, State.post, hs]

end Sys2Proof.Machine
end

