-- ==== Sys2Proof/Laws/State.lean ====
section
/-! SUPPORT. What each operation on the whole state leaves as it was, one lemma for a field and an operation, and what it
changes. -/

namespace Sys2Proof.Machine

/-! ### `post` -/

@[simp] theorem State.post_pe (s : State) (b : Block) (ms : List Instr) : (s.post b ms).pe = s.pe := rfl
@[simp] theorem State.post_sd (s : State) (b : Block) (ms : List Instr) : (s.post b ms).sd = s.sd := rfl
@[simp] theorem State.post_pp (s : State) (b : Block) (ms : List Instr) : (s.post b ms).pp = s.pp := rfl
@[simp] theorem State.post_mu (s : State) (b : Block) (ms : List Instr) : (s.post b ms).mu = s.mu := rfl
@[simp] theorem State.post_ae (s : State) (b : Block) (ms : List Instr) : (s.post b ms).ae = s.ae := rfl
@[simp] theorem State.post_de (s : State) (b : Block) (ms : List Instr) : (s.post b ms).de = s.de := rfl
@[simp] theorem State.post_ru (s : State) (b : Block) (ms : List Instr) : (s.post b ms).ru = s.ru := rfl
@[simp] theorem State.post_nu (s : State) (b : Block) (ms : List Instr) : (s.post b ms).nu = s.nu := rfl
@[simp] theorem State.post_mp (s : State) (b : Block) (ms : List Instr) : (s.post b ms).mp = s.mp := rfl
@[simp] theorem State.post_tb (s : State) (b : Block) (ms : List Instr) : (s.post b ms).tb = s.tb := rfl
@[simp] theorem State.post_dev (s : State) (b : Block) (ms : List Instr) : (s.post b ms).dev = s.dev := rfl
@[simp] theorem State.post_holder (s : State) (b : Block) (ms : List Instr) : (s.post b ms).holder = s.holder := rfl
@[simp] theorem State.post_abandoned (s : State) (b : Block) (ms : List Instr) : (s.post b ms).abandoned = s.abandoned := rfl
@[simp] theorem State.post_wires (s : State) (b : Block) (ms : List Instr) : (s.post b ms).wires = s.wires ++ ms.map fun m => ⟨b, m⟩ := rfl
@[simp] theorem State.post_pending (s : State) (b : Block) (ms : List Instr) : (s.post b ms).pending = s.pending := rfl
@[simp] theorem State.post_free (s : State) (b : Block) (ms : List Instr) : (s.post b ms).free = s.free := rfl

/-! ### `onSd` -/

@[simp] theorem State.onSd_pe (s : State) (f : Work SD → Work SD) : (s.onSd f).pe = s.pe := rfl
@[simp] theorem State.onSd_sd (s : State) (f : Work SD → Work SD) : (s.onSd f).sd = (f (Work.start s.sd)).st := rfl
@[simp] theorem State.onSd_pp (s : State) (f : Work SD → Work SD) : (s.onSd f).pp = s.pp := rfl
@[simp] theorem State.onSd_mu (s : State) (f : Work SD → Work SD) : (s.onSd f).mu = s.mu := rfl
@[simp] theorem State.onSd_ae (s : State) (f : Work SD → Work SD) : (s.onSd f).ae = s.ae := rfl
@[simp] theorem State.onSd_de (s : State) (f : Work SD → Work SD) : (s.onSd f).de = s.de := rfl
@[simp] theorem State.onSd_ru (s : State) (f : Work SD → Work SD) : (s.onSd f).ru = s.ru := rfl
@[simp] theorem State.onSd_nu (s : State) (f : Work SD → Work SD) : (s.onSd f).nu = s.nu := rfl
@[simp] theorem State.onSd_mp (s : State) (f : Work SD → Work SD) : (s.onSd f).mp = s.mp := rfl
@[simp] theorem State.onSd_tb (s : State) (f : Work SD → Work SD) : (s.onSd f).tb = s.tb := rfl
@[simp] theorem State.onSd_dev (s : State) (f : Work SD → Work SD) : (s.onSd f).dev = s.dev := rfl
@[simp] theorem State.onSd_holder (s : State) (f : Work SD → Work SD) : (s.onSd f).holder = s.holder := rfl
@[simp] theorem State.onSd_abandoned (s : State) (f : Work SD → Work SD) : (s.onSd f).abandoned = s.abandoned := rfl
@[simp] theorem State.onSd_wires (s : State) (f : Work SD → Work SD) : (s.onSd f).wires = s.wires ++ (f (Work.start s.sd)).out.map fun m => ⟨.core .sd, m⟩ := rfl
@[simp] theorem State.onSd_pending (s : State) (f : Work SD → Work SD) : (s.onSd f).pending = s.pending := rfl
@[simp] theorem State.onSd_free (s : State) (f : Work SD → Work SD) : (s.onSd f).free = s.free := rfl

/-! ### `onPp` -/

@[simp] theorem State.onPp_pe (s : State) (f : Work PP → Work PP) : (s.onPp f).pe = s.pe := rfl
@[simp] theorem State.onPp_sd (s : State) (f : Work PP → Work PP) : (s.onPp f).sd = s.sd := rfl
@[simp] theorem State.onPp_pp (s : State) (f : Work PP → Work PP) : (s.onPp f).pp = (f (Work.start s.pp)).st := rfl
@[simp] theorem State.onPp_mu (s : State) (f : Work PP → Work PP) : (s.onPp f).mu = s.mu := rfl
@[simp] theorem State.onPp_ae (s : State) (f : Work PP → Work PP) : (s.onPp f).ae = s.ae := rfl
@[simp] theorem State.onPp_de (s : State) (f : Work PP → Work PP) : (s.onPp f).de = s.de := rfl
@[simp] theorem State.onPp_ru (s : State) (f : Work PP → Work PP) : (s.onPp f).ru = s.ru := rfl
@[simp] theorem State.onPp_nu (s : State) (f : Work PP → Work PP) : (s.onPp f).nu = s.nu := rfl
@[simp] theorem State.onPp_mp (s : State) (f : Work PP → Work PP) : (s.onPp f).mp = s.mp := rfl
@[simp] theorem State.onPp_tb (s : State) (f : Work PP → Work PP) : (s.onPp f).tb = s.tb := rfl
@[simp] theorem State.onPp_dev (s : State) (f : Work PP → Work PP) : (s.onPp f).dev = s.dev := rfl
@[simp] theorem State.onPp_holder (s : State) (f : Work PP → Work PP) : (s.onPp f).holder = s.holder := rfl
@[simp] theorem State.onPp_abandoned (s : State) (f : Work PP → Work PP) : (s.onPp f).abandoned = s.abandoned := rfl
@[simp] theorem State.onPp_wires (s : State) (f : Work PP → Work PP) : (s.onPp f).wires = s.wires ++ (f (Work.start s.pp)).out.map fun m => ⟨.core .pp, m⟩ := rfl
@[simp] theorem State.onPp_pending (s : State) (f : Work PP → Work PP) : (s.onPp f).pending = s.pending := rfl
@[simp] theorem State.onPp_free (s : State) (f : Work PP → Work PP) : (s.onPp f).free = s.free := rfl

/-! ### `onMu` -/

@[simp] theorem State.onMu_pe (s : State) (f : Work MU → Work MU) : (s.onMu f).pe = s.pe := rfl
@[simp] theorem State.onMu_sd (s : State) (f : Work MU → Work MU) : (s.onMu f).sd = s.sd := rfl
@[simp] theorem State.onMu_pp (s : State) (f : Work MU → Work MU) : (s.onMu f).pp = s.pp := rfl
@[simp] theorem State.onMu_mu (s : State) (f : Work MU → Work MU) : (s.onMu f).mu = (f (Work.start s.mu)).st := rfl
@[simp] theorem State.onMu_ae (s : State) (f : Work MU → Work MU) : (s.onMu f).ae = s.ae := rfl
@[simp] theorem State.onMu_de (s : State) (f : Work MU → Work MU) : (s.onMu f).de = s.de := rfl
@[simp] theorem State.onMu_ru (s : State) (f : Work MU → Work MU) : (s.onMu f).ru = s.ru := rfl
@[simp] theorem State.onMu_nu (s : State) (f : Work MU → Work MU) : (s.onMu f).nu = s.nu := rfl
@[simp] theorem State.onMu_mp (s : State) (f : Work MU → Work MU) : (s.onMu f).mp = s.mp := rfl
@[simp] theorem State.onMu_tb (s : State) (f : Work MU → Work MU) : (s.onMu f).tb = s.tb := rfl
@[simp] theorem State.onMu_dev (s : State) (f : Work MU → Work MU) : (s.onMu f).dev = s.dev := rfl
@[simp] theorem State.onMu_holder (s : State) (f : Work MU → Work MU) : (s.onMu f).holder = s.holder := rfl
@[simp] theorem State.onMu_abandoned (s : State) (f : Work MU → Work MU) : (s.onMu f).abandoned = s.abandoned := rfl
@[simp] theorem State.onMu_wires (s : State) (f : Work MU → Work MU) : (s.onMu f).wires = s.wires ++ (f (Work.start s.mu)).out.map fun m => ⟨.core .mu, m⟩ := rfl
@[simp] theorem State.onMu_pending (s : State) (f : Work MU → Work MU) : (s.onMu f).pending = s.pending := rfl
@[simp] theorem State.onMu_free (s : State) (f : Work MU → Work MU) : (s.onMu f).free = s.free := rfl

/-! ### `onAe` -/

@[simp] theorem State.onAe_pe (s : State) (f : Work AE → Work AE) : (s.onAe f).pe = s.pe := rfl
@[simp] theorem State.onAe_sd (s : State) (f : Work AE → Work AE) : (s.onAe f).sd = s.sd := rfl
@[simp] theorem State.onAe_pp (s : State) (f : Work AE → Work AE) : (s.onAe f).pp = s.pp := rfl
@[simp] theorem State.onAe_mu (s : State) (f : Work AE → Work AE) : (s.onAe f).mu = s.mu := rfl
@[simp] theorem State.onAe_ae (s : State) (f : Work AE → Work AE) : (s.onAe f).ae = (f (Work.start s.ae)).st := rfl
@[simp] theorem State.onAe_de (s : State) (f : Work AE → Work AE) : (s.onAe f).de = s.de := rfl
@[simp] theorem State.onAe_ru (s : State) (f : Work AE → Work AE) : (s.onAe f).ru = s.ru := rfl
@[simp] theorem State.onAe_nu (s : State) (f : Work AE → Work AE) : (s.onAe f).nu = s.nu := rfl
@[simp] theorem State.onAe_mp (s : State) (f : Work AE → Work AE) : (s.onAe f).mp = s.mp := rfl
@[simp] theorem State.onAe_tb (s : State) (f : Work AE → Work AE) : (s.onAe f).tb = s.tb := rfl
@[simp] theorem State.onAe_dev (s : State) (f : Work AE → Work AE) : (s.onAe f).dev = s.dev := rfl
@[simp] theorem State.onAe_holder (s : State) (f : Work AE → Work AE) : (s.onAe f).holder = s.holder := rfl
@[simp] theorem State.onAe_abandoned (s : State) (f : Work AE → Work AE) : (s.onAe f).abandoned = s.abandoned := rfl
@[simp] theorem State.onAe_wires (s : State) (f : Work AE → Work AE) : (s.onAe f).wires = s.wires ++ (f (Work.start s.ae)).out.map fun m => ⟨.core .ae, m⟩ := rfl
@[simp] theorem State.onAe_pending (s : State) (f : Work AE → Work AE) : (s.onAe f).pending = s.pending := rfl
@[simp] theorem State.onAe_free (s : State) (f : Work AE → Work AE) : (s.onAe f).free = s.free := rfl

/-! ### `onRu` -/

@[simp] theorem State.onRu_pe (s : State) (f : Work RU → Work RU) : (s.onRu f).pe = s.pe := rfl
@[simp] theorem State.onRu_sd (s : State) (f : Work RU → Work RU) : (s.onRu f).sd = s.sd := rfl
@[simp] theorem State.onRu_pp (s : State) (f : Work RU → Work RU) : (s.onRu f).pp = s.pp := rfl
@[simp] theorem State.onRu_mu (s : State) (f : Work RU → Work RU) : (s.onRu f).mu = s.mu := rfl
@[simp] theorem State.onRu_ae (s : State) (f : Work RU → Work RU) : (s.onRu f).ae = s.ae := rfl
@[simp] theorem State.onRu_de (s : State) (f : Work RU → Work RU) : (s.onRu f).de = s.de := rfl
@[simp] theorem State.onRu_ru (s : State) (f : Work RU → Work RU) : (s.onRu f).ru = (f (Work.start s.ru)).st := rfl
@[simp] theorem State.onRu_nu (s : State) (f : Work RU → Work RU) : (s.onRu f).nu = s.nu := rfl
@[simp] theorem State.onRu_mp (s : State) (f : Work RU → Work RU) : (s.onRu f).mp = s.mp := rfl
@[simp] theorem State.onRu_tb (s : State) (f : Work RU → Work RU) : (s.onRu f).tb = s.tb := rfl
@[simp] theorem State.onRu_dev (s : State) (f : Work RU → Work RU) : (s.onRu f).dev = s.dev := rfl
@[simp] theorem State.onRu_holder (s : State) (f : Work RU → Work RU) : (s.onRu f).holder = s.holder := rfl
@[simp] theorem State.onRu_abandoned (s : State) (f : Work RU → Work RU) : (s.onRu f).abandoned = s.abandoned := rfl
@[simp] theorem State.onRu_wires (s : State) (f : Work RU → Work RU) : (s.onRu f).wires = s.wires ++ (f (Work.start s.ru)).out.map fun m => ⟨.core .ru, m⟩ := rfl
@[simp] theorem State.onRu_pending (s : State) (f : Work RU → Work RU) : (s.onRu f).pending = s.pending := rfl
@[simp] theorem State.onRu_free (s : State) (f : Work RU → Work RU) : (s.onRu f).free = s.free := rfl

/-! ### `onNu` -/

@[simp] theorem State.onNu_pe (s : State) (f : Work NU → Work NU) : (s.onNu f).pe = s.pe := rfl
@[simp] theorem State.onNu_sd (s : State) (f : Work NU → Work NU) : (s.onNu f).sd = s.sd := rfl
@[simp] theorem State.onNu_pp (s : State) (f : Work NU → Work NU) : (s.onNu f).pp = s.pp := rfl
@[simp] theorem State.onNu_mu (s : State) (f : Work NU → Work NU) : (s.onNu f).mu = s.mu := rfl
@[simp] theorem State.onNu_ae (s : State) (f : Work NU → Work NU) : (s.onNu f).ae = s.ae := rfl
@[simp] theorem State.onNu_de (s : State) (f : Work NU → Work NU) : (s.onNu f).de = s.de := rfl
@[simp] theorem State.onNu_ru (s : State) (f : Work NU → Work NU) : (s.onNu f).ru = s.ru := rfl
@[simp] theorem State.onNu_nu (s : State) (f : Work NU → Work NU) : (s.onNu f).nu = (f (Work.start s.nu)).st := rfl
@[simp] theorem State.onNu_mp (s : State) (f : Work NU → Work NU) : (s.onNu f).mp = s.mp := rfl
@[simp] theorem State.onNu_tb (s : State) (f : Work NU → Work NU) : (s.onNu f).tb = s.tb := rfl
@[simp] theorem State.onNu_dev (s : State) (f : Work NU → Work NU) : (s.onNu f).dev = s.dev := rfl
@[simp] theorem State.onNu_holder (s : State) (f : Work NU → Work NU) : (s.onNu f).holder = s.holder := rfl
@[simp] theorem State.onNu_abandoned (s : State) (f : Work NU → Work NU) : (s.onNu f).abandoned = s.abandoned := rfl
@[simp] theorem State.onNu_wires (s : State) (f : Work NU → Work NU) : (s.onNu f).wires = s.wires ++ (f (Work.start s.nu)).out.map fun m => ⟨.nu, m⟩ := rfl
@[simp] theorem State.onNu_pending (s : State) (f : Work NU → Work NU) : (s.onNu f).pending = s.pending := rfl
@[simp] theorem State.onNu_free (s : State) (f : Work NU → Work NU) : (s.onNu f).free = s.free := rfl

/-! ### `onMp` -/

@[simp] theorem State.onMp_pe (s : State) (f : Work MP → Work MP) : (s.onMp f).pe = s.pe := rfl
@[simp] theorem State.onMp_sd (s : State) (f : Work MP → Work MP) : (s.onMp f).sd = s.sd := rfl
@[simp] theorem State.onMp_pp (s : State) (f : Work MP → Work MP) : (s.onMp f).pp = s.pp := rfl
@[simp] theorem State.onMp_mu (s : State) (f : Work MP → Work MP) : (s.onMp f).mu = s.mu := rfl
@[simp] theorem State.onMp_ae (s : State) (f : Work MP → Work MP) : (s.onMp f).ae = s.ae := rfl
@[simp] theorem State.onMp_de (s : State) (f : Work MP → Work MP) : (s.onMp f).de = s.de := rfl
@[simp] theorem State.onMp_ru (s : State) (f : Work MP → Work MP) : (s.onMp f).ru = s.ru := rfl
@[simp] theorem State.onMp_nu (s : State) (f : Work MP → Work MP) : (s.onMp f).nu = s.nu := rfl
@[simp] theorem State.onMp_mp (s : State) (f : Work MP → Work MP) : (s.onMp f).mp = (f (Work.start s.mp)).st := rfl
@[simp] theorem State.onMp_tb (s : State) (f : Work MP → Work MP) : (s.onMp f).tb = s.tb := rfl
@[simp] theorem State.onMp_dev (s : State) (f : Work MP → Work MP) : (s.onMp f).dev = s.dev := rfl
@[simp] theorem State.onMp_holder (s : State) (f : Work MP → Work MP) : (s.onMp f).holder = s.holder := rfl
@[simp] theorem State.onMp_abandoned (s : State) (f : Work MP → Work MP) : (s.onMp f).abandoned = s.abandoned := rfl
@[simp] theorem State.onMp_wires (s : State) (f : Work MP → Work MP) : (s.onMp f).wires = s.wires ++ (f (Work.start s.mp)).out.map fun m => ⟨.core .mp, m⟩ := rfl
@[simp] theorem State.onMp_pending (s : State) (f : Work MP → Work MP) : (s.onMp f).pending = s.pending := rfl
@[simp] theorem State.onMp_free (s : State) (f : Work MP → Work MP) : (s.onMp f).free = s.free := rfl

/-! ### `onTb` -/

@[simp] theorem State.onTb_pe (s : State) (f : Work TB → Work TB) : (s.onTb f).pe = s.pe := rfl
@[simp] theorem State.onTb_sd (s : State) (f : Work TB → Work TB) : (s.onTb f).sd = s.sd := rfl
@[simp] theorem State.onTb_pp (s : State) (f : Work TB → Work TB) : (s.onTb f).pp = s.pp := rfl
@[simp] theorem State.onTb_mu (s : State) (f : Work TB → Work TB) : (s.onTb f).mu = s.mu := rfl
@[simp] theorem State.onTb_ae (s : State) (f : Work TB → Work TB) : (s.onTb f).ae = s.ae := rfl
@[simp] theorem State.onTb_de (s : State) (f : Work TB → Work TB) : (s.onTb f).de = s.de := rfl
@[simp] theorem State.onTb_ru (s : State) (f : Work TB → Work TB) : (s.onTb f).ru = s.ru := rfl
@[simp] theorem State.onTb_nu (s : State) (f : Work TB → Work TB) : (s.onTb f).nu = s.nu := rfl
@[simp] theorem State.onTb_mp (s : State) (f : Work TB → Work TB) : (s.onTb f).mp = s.mp := rfl
@[simp] theorem State.onTb_tb (s : State) (f : Work TB → Work TB) : (s.onTb f).tb = (f (Work.start s.tb)).st := rfl
@[simp] theorem State.onTb_dev (s : State) (f : Work TB → Work TB) : (s.onTb f).dev = s.dev := rfl
@[simp] theorem State.onTb_holder (s : State) (f : Work TB → Work TB) : (s.onTb f).holder = s.holder := rfl
@[simp] theorem State.onTb_abandoned (s : State) (f : Work TB → Work TB) : (s.onTb f).abandoned = s.abandoned := rfl
@[simp] theorem State.onTb_wires (s : State) (f : Work TB → Work TB) : (s.onTb f).wires = s.wires ++ (f (Work.start s.tb)).out.map fun m => ⟨.core .tb, m⟩ := rfl
@[simp] theorem State.onTb_pending (s : State) (f : Work TB → Work TB) : (s.onTb f).pending = s.pending := rfl
@[simp] theorem State.onTb_free (s : State) (f : Work TB → Work TB) : (s.onTb f).free = s.free := rfl

/-! ### `onHolder` -/

@[simp] theorem State.onHolder_pe (s : State) (f : Work (Option Port) → Work (Option Port)) : (s.onHolder f).pe = s.pe := rfl
@[simp] theorem State.onHolder_sd (s : State) (f : Work (Option Port) → Work (Option Port)) : (s.onHolder f).sd = s.sd := rfl
@[simp] theorem State.onHolder_pp (s : State) (f : Work (Option Port) → Work (Option Port)) : (s.onHolder f).pp = s.pp := rfl
@[simp] theorem State.onHolder_mu (s : State) (f : Work (Option Port) → Work (Option Port)) : (s.onHolder f).mu = s.mu := rfl
@[simp] theorem State.onHolder_ae (s : State) (f : Work (Option Port) → Work (Option Port)) : (s.onHolder f).ae = s.ae := rfl
@[simp] theorem State.onHolder_de (s : State) (f : Work (Option Port) → Work (Option Port)) : (s.onHolder f).de = s.de := rfl
@[simp] theorem State.onHolder_ru (s : State) (f : Work (Option Port) → Work (Option Port)) : (s.onHolder f).ru = s.ru := rfl
@[simp] theorem State.onHolder_nu (s : State) (f : Work (Option Port) → Work (Option Port)) : (s.onHolder f).nu = s.nu := rfl
@[simp] theorem State.onHolder_mp (s : State) (f : Work (Option Port) → Work (Option Port)) : (s.onHolder f).mp = s.mp := rfl
@[simp] theorem State.onHolder_tb (s : State) (f : Work (Option Port) → Work (Option Port)) : (s.onHolder f).tb = s.tb := rfl
@[simp] theorem State.onHolder_dev (s : State) (f : Work (Option Port) → Work (Option Port)) : (s.onHolder f).dev = s.dev := rfl
@[simp] theorem State.onHolder_holder (s : State) (f : Work (Option Port) → Work (Option Port)) : (s.onHolder f).holder = (f (Work.start s.holder)).st := rfl
@[simp] theorem State.onHolder_abandoned (s : State) (f : Work (Option Port) → Work (Option Port)) : (s.onHolder f).abandoned = s.abandoned := rfl
@[simp] theorem State.onHolder_wires (s : State) (f : Work (Option Port) → Work (Option Port)) : (s.onHolder f).wires = s.wires ++ (f (Work.start s.holder)).out.map fun m => ⟨.holder, m⟩ := rfl
@[simp] theorem State.onHolder_pending (s : State) (f : Work (Option Port) → Work (Option Port)) : (s.onHolder f).pending = s.pending := rfl
@[simp] theorem State.onHolder_free (s : State) (f : Work (Option Port) → Work (Option Port)) : (s.onHolder f).free = s.free := rfl

/-! ### `onDe` -/

@[simp] theorem State.onDe_pe (s : State) (f : Work DE → Work DE) : (s.onDe f).pe = s.pe := by simp only [State.onDe, State.post]
@[simp] theorem State.onDe_sd (s : State) (f : Work DE → Work DE) : (s.onDe f).sd = s.sd := by simp only [State.onDe, State.post]
@[simp] theorem State.onDe_pp (s : State) (f : Work DE → Work DE) : (s.onDe f).pp = s.pp := by simp only [State.onDe, State.post]
@[simp] theorem State.onDe_mu (s : State) (f : Work DE → Work DE) : (s.onDe f).mu = s.mu := by simp only [State.onDe, State.post]
@[simp] theorem State.onDe_ae (s : State) (f : Work DE → Work DE) : (s.onDe f).ae = s.ae := by simp only [State.onDe, State.post]
@[simp] theorem State.onDe_de (s : State) (f : Work DE → Work DE) : (s.onDe f).de = (DE.follow s.deEnv (f (Work.start s.de))).st := by simp only [State.onDe, State.post]
@[simp] theorem State.onDe_ru (s : State) (f : Work DE → Work DE) : (s.onDe f).ru = s.ru := by simp only [State.onDe, State.post]
@[simp] theorem State.onDe_nu (s : State) (f : Work DE → Work DE) : (s.onDe f).nu = s.nu := by simp only [State.onDe, State.post]
@[simp] theorem State.onDe_mp (s : State) (f : Work DE → Work DE) : (s.onDe f).mp = s.mp := by simp only [State.onDe, State.post]
@[simp] theorem State.onDe_tb (s : State) (f : Work DE → Work DE) : (s.onDe f).tb = s.tb := by simp only [State.onDe, State.post]
@[simp] theorem State.onDe_dev (s : State) (f : Work DE → Work DE) : (s.onDe f).dev = s.dev := by simp only [State.onDe, State.post]
@[simp] theorem State.onDe_holder (s : State) (f : Work DE → Work DE) : (s.onDe f).holder = s.holder := by simp only [State.onDe, State.post]
@[simp] theorem State.onDe_abandoned (s : State) (f : Work DE → Work DE) : (s.onDe f).abandoned = s.abandoned := by simp only [State.onDe, State.post]
@[simp] theorem State.onDe_wires (s : State) (f : Work DE → Work DE) : (s.onDe f).wires = s.wires ++ (DE.follow s.deEnv (f (Work.start s.de))).out.map fun m => ⟨.core .de, m⟩ := by simp only [State.onDe, State.post]
@[simp] theorem State.onDe_pending (s : State) (f : Work DE → Work DE) : (s.onDe f).pending = s.pending := by simp only [State.onDe, State.post]
@[simp] theorem State.onDe_free (s : State) (f : Work DE → Work DE) : (s.onDe f).free = s.free := by simp only [State.onDe, State.post]

/-! ### `onPe` -/

@[simp] theorem State.onPe_pe (s : State) (p : Port) (f : Work PE → Work PE) : (s.onPe p f).pe = s.pe.set p (PE.arbitrate p (s.peEnv p) (f (Work.start s.pe[p]))).st := rfl
@[simp] theorem State.onPe_sd (s : State) (p : Port) (f : Work PE → Work PE) : (s.onPe p f).sd = s.sd := rfl
@[simp] theorem State.onPe_pp (s : State) (p : Port) (f : Work PE → Work PE) : (s.onPe p f).pp = s.pp := rfl
@[simp] theorem State.onPe_mu (s : State) (p : Port) (f : Work PE → Work PE) : (s.onPe p f).mu = s.mu := rfl
@[simp] theorem State.onPe_ae (s : State) (p : Port) (f : Work PE → Work PE) : (s.onPe p f).ae = s.ae := rfl
@[simp] theorem State.onPe_de (s : State) (p : Port) (f : Work PE → Work PE) : (s.onPe p f).de = s.de := rfl
@[simp] theorem State.onPe_ru (s : State) (p : Port) (f : Work PE → Work PE) : (s.onPe p f).ru = s.ru := rfl
@[simp] theorem State.onPe_nu (s : State) (p : Port) (f : Work PE → Work PE) : (s.onPe p f).nu = s.nu := rfl
@[simp] theorem State.onPe_mp (s : State) (p : Port) (f : Work PE → Work PE) : (s.onPe p f).mp = s.mp := rfl
@[simp] theorem State.onPe_tb (s : State) (p : Port) (f : Work PE → Work PE) : (s.onPe p f).tb = s.tb := rfl
@[simp] theorem State.onPe_dev (s : State) (p : Port) (f : Work PE → Work PE) : (s.onPe p f).dev = s.dev := rfl
@[simp] theorem State.onPe_holder (s : State) (p : Port) (f : Work PE → Work PE) : (s.onPe p f).holder = s.holder := rfl
@[simp] theorem State.onPe_abandoned (s : State) (p : Port) (f : Work PE → Work PE) : (s.onPe p f).abandoned = s.abandoned := rfl
@[simp] theorem State.onPe_wires (s : State) (p : Port) (f : Work PE → Work PE) : (s.onPe p f).wires = s.wires ++ (PE.arbitrate p (s.peEnv p) (f (Work.start s.pe[p]))).out.map fun m => ⟨.pe p, m⟩ := rfl
@[simp] theorem State.onPe_pending (s : State) (p : Port) (f : Work PE → Work PE) : (s.onPe p f).pending = s.pending := rfl
@[simp] theorem State.onPe_free (s : State) (p : Port) (f : Work PE → Work PE) : (s.onPe p f).free = s.free := rfl

/-! ### `onDev`, `behind` and the device's entries -/

@[simp] theorem State.onDev_pe (s : State) (f : Device → Device) : (s.onDev f).pe = s.pe := rfl
@[simp] theorem State.onDev_sd (s : State) (f : Device → Device) : (s.onDev f).sd = s.sd := rfl
@[simp] theorem State.onDev_pp (s : State) (f : Device → Device) : (s.onDev f).pp = s.pp := rfl
@[simp] theorem State.onDev_mu (s : State) (f : Device → Device) : (s.onDev f).mu = s.mu := rfl
@[simp] theorem State.onDev_ae (s : State) (f : Device → Device) : (s.onDev f).ae = s.ae := rfl
@[simp] theorem State.onDev_de (s : State) (f : Device → Device) : (s.onDev f).de = s.de := rfl
@[simp] theorem State.onDev_ru (s : State) (f : Device → Device) : (s.onDev f).ru = s.ru := rfl
@[simp] theorem State.onDev_nu (s : State) (f : Device → Device) : (s.onDev f).nu = s.nu := rfl
@[simp] theorem State.onDev_mp (s : State) (f : Device → Device) : (s.onDev f).mp = s.mp := rfl
@[simp] theorem State.onDev_tb (s : State) (f : Device → Device) : (s.onDev f).tb = s.tb := rfl
@[simp] theorem State.onDev_dev (s : State) (f : Device → Device) : (s.onDev f).dev = f s.dev := rfl
@[simp] theorem State.onDev_holder (s : State) (f : Device → Device) : (s.onDev f).holder = s.holder := rfl
@[simp] theorem State.onDev_abandoned (s : State) (f : Device → Device) : (s.onDev f).abandoned = s.abandoned := rfl
@[simp] theorem State.onDev_wires (s : State) (f : Device → Device) : (s.onDev f).wires = s.wires := rfl
@[simp] theorem State.onDev_pending (s : State) (f : Device → Device) : (s.onDev f).pending = s.pending := rfl
@[simp] theorem State.onDev_free (s : State) (f : Device → Device) : (s.onDev f).free = s.free := rfl
@[simp] theorem State.behind_pe (s : State) (q : List Instr) : (s.behind q).pe = s.pe := rfl
@[simp] theorem State.behind_sd (s : State) (q : List Instr) : (s.behind q).sd = s.sd := rfl
@[simp] theorem State.behind_pp (s : State) (q : List Instr) : (s.behind q).pp = s.pp := rfl
@[simp] theorem State.behind_mu (s : State) (q : List Instr) : (s.behind q).mu = s.mu := rfl
@[simp] theorem State.behind_ae (s : State) (q : List Instr) : (s.behind q).ae = s.ae := rfl
@[simp] theorem State.behind_de (s : State) (q : List Instr) : (s.behind q).de = s.de := rfl
@[simp] theorem State.behind_ru (s : State) (q : List Instr) : (s.behind q).ru = s.ru := rfl
@[simp] theorem State.behind_nu (s : State) (q : List Instr) : (s.behind q).nu = s.nu := rfl
@[simp] theorem State.behind_mp (s : State) (q : List Instr) : (s.behind q).mp = s.mp := rfl
@[simp] theorem State.behind_tb (s : State) (q : List Instr) : (s.behind q).tb = s.tb := rfl
@[simp] theorem State.behind_dev (s : State) (q : List Instr) : (s.behind q).dev = s.dev := rfl
@[simp] theorem State.behind_holder (s : State) (q : List Instr) : (s.behind q).holder = s.holder := rfl
@[simp] theorem State.behind_abandoned (s : State) (q : List Instr) : (s.behind q).abandoned = s.abandoned := rfl
@[simp] theorem State.behind_wires (s : State) (q : List Instr) : (s.behind q).wires = s.wires := rfl
@[simp] theorem State.behind_pending (s : State) (q : List Instr) : (s.behind q).pending = q := rfl
@[simp] theorem State.behind_free (s : State) (q : List Instr) : (s.behind q).free = s.free := rfl
@[simp] theorem State.enter_pe (s : State) (d : DevState) : (s.enter d).pe = s.pe := rfl
@[simp] theorem State.enter_sd (s : State) (d : DevState) : (s.enter d).sd = s.sd := rfl
@[simp] theorem State.enter_pp (s : State) (d : DevState) : (s.enter d).pp = s.pp := rfl
@[simp] theorem State.enter_mu (s : State) (d : DevState) : (s.enter d).mu = s.mu := rfl
@[simp] theorem State.enter_ae (s : State) (d : DevState) : (s.enter d).ae = s.ae := rfl
@[simp] theorem State.enter_de (s : State) (d : DevState) : (s.enter d).de = s.de := rfl
@[simp] theorem State.enter_ru (s : State) (d : DevState) : (s.enter d).ru = s.ru := rfl
@[simp] theorem State.enter_nu (s : State) (d : DevState) : (s.enter d).nu = s.nu := rfl
@[simp] theorem State.enter_mp (s : State) (d : DevState) : (s.enter d).mp = s.mp := rfl
@[simp] theorem State.enter_tb (s : State) (d : DevState) : (s.enter d).tb = s.tb := rfl
@[simp] theorem State.enter_dev (s : State) (d : DevState) : (s.enter d).dev = { s.dev with state := d } := rfl
@[simp] theorem State.enter_holder (s : State) (d : DevState) : (s.enter d).holder = s.holder := rfl
@[simp] theorem State.enter_abandoned (s : State) (d : DevState) : (s.enter d).abandoned = s.abandoned := rfl
@[simp] theorem State.enter_wires (s : State) (d : DevState) : (s.enter d).wires = s.wires ++ (if reportOf d = reportOf s.dev.state then [] else stateReports d).map fun m => ⟨.dev, m⟩ := rfl
@[simp] theorem State.enter_pending (s : State) (d : DevState) : (s.enter d).pending = s.pending := rfl
@[simp] theorem State.enter_free (s : State) (d : DevState) : (s.enter d).free = s.free := rfl
@[simp] theorem State.beginBuild_pe (s : State) : s.beginBuild.pe = s.pe := rfl
@[simp] theorem State.beginBuild_sd (s : State) : s.beginBuild.sd = s.sd := rfl
@[simp] theorem State.beginBuild_pp (s : State) : s.beginBuild.pp = s.pp := rfl
@[simp] theorem State.beginBuild_mu (s : State) : s.beginBuild.mu = s.mu := rfl
@[simp] theorem State.beginBuild_ae (s : State) : s.beginBuild.ae = s.ae := rfl
@[simp] theorem State.beginBuild_de (s : State) : s.beginBuild.de = s.de := rfl
@[simp] theorem State.beginBuild_ru (s : State) : s.beginBuild.ru = s.ru := rfl
@[simp] theorem State.beginBuild_nu (s : State) : s.beginBuild.nu = s.nu := rfl
@[simp] theorem State.beginBuild_mp (s : State) : s.beginBuild.mp = s.mp := rfl
@[simp] theorem State.beginBuild_tb (s : State) : s.beginBuild.tb = s.tb := rfl
@[simp] theorem State.beginBuild_dev (s : State) : s.beginBuild.dev = { s.dev with state := .building } := rfl
@[simp] theorem State.beginBuild_holder (s : State) : s.beginBuild.holder = s.holder := rfl
@[simp] theorem State.beginBuild_abandoned (s : State) : s.beginBuild.abandoned = s.abandoned := rfl
@[simp] theorem State.beginBuild_wires (s : State) : s.beginBuild.wires = (s.enter .building).wires ++ [⟨.dev, .freeListBuild⟩] := rfl
@[simp] theorem State.beginBuild_pending (s : State) : s.beginBuild.pending = s.pending := rfl
@[simp] theorem State.beginBuild_free (s : State) : s.beginBuild.free = s.free := rfl

end Sys2Proof.Machine
end

