-- ==== Sys2Proof/Laws/Arrive.lean ====
section
/-! SUPPORT. The arrival of a command: everything it can come to. -/

namespace Sys2Proof.Machine

/-- A command that takes effect answers the state that its effect gives. -/
theorem arrive_takes {m : Instr} {s t : State} (h : Takes m s t) (act : State → State) :
    arrive m s act = .next (act t) := by
  simp [arrive, h.1, h.2]

/-- A command that its receiver discards leaves the wires and changes nothing else. -/
theorem arrive_dropped {m : Instr} {s t : State} (h : s.receive m = some t) (hd : t.drops m = true)
    (act : State → State) : arrive m s act = .next t := by
  simp [arrive, h, hd]

/-- A command that does not arrive changes nothing. -/
theorem arrive_absent {m : Instr} {s : State} (h : s.receive m = none) (act : State → State) :
    arrive m s act = .next s := by
  simp [arrive, h]

/-- With nothing on its way, RESET_N high and no block abandoned, every command takes effect where it is. -/
theorem takes_quiet {m : Instr} {s : State} (hw : s.wires = []) (hl : s.dev.low = false) (ha : s.abandoned = []) :
    Takes m s s := by
  refine ⟨by simp [State.receive, hl, hw, arrivalOf], ?_⟩
  unfold State.drops
  split <;> simp [ha]

/-- What arrives differs from what was sent by the wires alone. -/
theorem receive_frame {m : Instr} {s t : State} (h : s.receive m = some t) : t = { s with wires := t.wires } := by
  unfold State.receive at h
  split at h
  · exact absurd h (by simp)
  · split at h <;> simp at h <;> subst h <;> rfl

/-- An arrival answers the state unchanged, the state without the message, or that state with the command's effect. -/
theorem arrive_cases (m : Instr) (s : State) (act : State → State) :
    arrive m s act = .next s ∨
      ∃ t, s.receive m = some t ∧ (arrive m s act = .next t ∨ arrive m s act = .next (act t)) := by
  cases h : s.receive m with
  | none => exact .inl (arrive_absent h act)
  | some t =>
    refine .inr ⟨t, rfl, ?_⟩
    cases hd : t.drops m with
    | true => exact .inl (arrive_dropped h hd act)
    | false => exact .inr (arrive_takes ⟨h, hd⟩ act)

/-- An invariant of everything but the wires is kept by an arrival whose effect keeps it. -/
theorem arrive_keeps {P : State → Prop} {m : Instr} {s : State} {act : State → State}
    (wires : ∀ (s : State) (ws : List Wire), P s → P { s with wires := ws }) (effect : ∀ t, P t → P (act t)) (h : P s)
    {u : State} (hu : arrive m s act = .next u) : P u := by
  rcases arrive_cases m s act with e | ⟨t, ht, e | e⟩ <;> rw [e] at hu <;> cases hu
  · exact h
  · rw [receive_frame ht]; exact wires s _ h
  · exact effect t (by rw [receive_frame ht]; exact wires s _ h)

end Sys2Proof.Machine
end

