-- ==== Sys2Proof/Laws/Delivery.lean ====
section
/-! SUPPORT. The Delivery Engine: what the withdrawals and choices that follow every event leave as they were. -/

namespace Sys2Proof.Machine

/-- A step of DE that touches no cursor, view or deferral, and sends behind what has been sent. -/
def Calm (w v : Work DE) : Prop :=
  v.st.cursors = w.st.cursors ∧ v.st.views = w.st.views ∧ v.st.deferred = w.st.deferred ∧ ∃ ms, v.out = w.out ++ ms

theorem Calm.refl (w : Work DE) : Calm w w := ⟨rfl, rfl, rfl, [], by simp⟩

theorem Calm.trans {a b c : Work DE} (h : Calm a b) (k : Calm b c) : Calm a c := by
  obtain ⟨h1, h2, h3, ms, h4⟩ := h
  obtain ⟨k1, k2, k3, ns, k4⟩ := k
  exact ⟨k1.trans h1, k2.trans h2, k3.trans h3, ms ++ ns, by rw [k4, h4, List.append_assoc]⟩

theorem Calm.foldl {α : Type} (f : Work DE → α → Work DE) (h : ∀ w a, Calm w (f w a)) (l : List α) (w : Work DE) :
    Calm w (l.foldl f w) := by
  induction l generalizing w with
  | nil => exact Calm.refl w
  | cons a l ih => exact (h w a).trans (ih _)

theorem calm_send (w : Work DE) (m : Instr) : Calm w (w.send m) := ⟨rfl, rfl, rfl, [m], rfl⟩

theorem calm_changeBuffer (b : BufId) (f : Buffer → Buffer) (w : Work DE) : Calm w (DE.changeBuffer b f w) :=
  ⟨rfl, rfl, rfl, [], by simp [DE.changeBuffer]⟩

theorem calm_endDelivery (b : BufId) (w : Work DE) : Calm w (DE.endDelivery b w) := by
  unfold DE.endDelivery
  dsimp only
  split
  · exact (calm_changeBuffer b _ w).trans (calm_send _ _)
  · exact calm_changeBuffer b _ w

/-- The withdrawals touch no cursor. -/
theorem calm_withdraw (env : DeEnv) (w : Work DE) : Calm w (DE.withdraw env w) := by
  refine Calm.foldl _ (fun w b => ?_) _ w
  split
  · exact calm_endDelivery b w
  · exact Calm.refl w

theorem calm_askHold (b : BufId) (s : StreamId) (w : Work DE) : Calm w (DE.askHold b s w) :=
  (calm_changeBuffer b _ w).trans (calm_send _ _)

theorem calm_cross (b : BufId) (s : StreamId) (lpn : Lpn) (w : Work DE) : Calm w (DE.cross b s lpn w) :=
  (calm_changeBuffer b _ w).trans (calm_send _ _)

theorem calm_locateFirst (b : BufId) (s : StreamId) (c : Cursor) (w : Work DE) : Calm w (DE.locateFirst b s c w) := by
  unfold DE.locateFirst
  split
  · split
    · exact (calm_changeBuffer b _ w).trans (calm_askHold b s _)
    · exact calm_cross b s _ w
  · exact (calm_changeBuffer b _ w).trans (calm_send _ _)

theorem calm_locateAgain (b : BufId) (s : StreamId) (c : Cursor) (e : InFlight) (w : Work DE) :
    Calm w (DE.locateAgain b s c e w) := by
  unfold DE.locateAgain
  refine (calm_changeBuffer b (fun x => { x with lpn := e.lpn, offset := e.offset }) w).trans ?_
  dsimp only
  split
  · split
    · exact (calm_changeBuffer b _ _).trans (calm_askHold b s _)
    · exact (calm_changeBuffer b _ _).trans (calm_send _ _)
  · exact (calm_changeBuffer b _ _).trans (calm_send _ _)

theorem calm_last (b : BufId) (c : CursorId) (w : Work DE) : Calm w (w.mod fun d => { d with last := d.last.set b.port c }) :=
  ⟨rfl, rfl, rfl, [], by simp⟩

theorem calm_serve (b : BufId) (c : CursorId) (w : Work DE) : Calm w (DE.serve b c w) := by
  unfold DE.serve
  dsimp only
  split
  · exact Calm.refl w
  · split
    · exact ((calm_last b c w).trans (calm_changeBuffer b _ _)).trans (calm_locateAgain b _ _ _ _)
    · exact ((calm_last b c w).trans (calm_changeBuffer b _ _)).trans (calm_locateFirst b _ _ _)

/-- The choices touch no cursor. -/
theorem calm_choose (w : Work DE) : Calm w (DE.choose w) := by
  refine Calm.foldl _ (fun w b => ?_) _ w
  unfold DE.chooseFor
  split
  · split
    · exact calm_serve b _ w
    · exact Calm.refl w
  · exact Calm.refl w

/-- What follows an event at DE touches no cursor, view or deferral, and sends behind what the event has sent. -/
theorem calm_follow (env : DeEnv) (w : Work DE) : Calm w (DE.follow env w) :=
  (calm_withdraw env w).trans (calm_choose _)

/-- Everything an event at DE does beside the buffers: its own effect on the cursors, views and deferrals, and its own messages
ahead of those of the choices that follow. -/
theorem State.onDe_spec (t : State) (f : Work DE → Work DE) :
    OnlyDe t (t.onDe f) ∧ (t.onDe f).de.cursors = (f (Work.start t.de)).st.cursors ∧
      (t.onDe f).de.views = (f (Work.start t.de)).st.views ∧
      (t.onDe f).de.deferred = (f (Work.start t.de)).st.deferred ∧
      SendsFirst (.core .de) t (t.onDe f) (f (Work.start t.de)).out := by
  obtain ⟨h1, h2, h3, ms, h4⟩ := calm_follow t.deEnv (f (Work.start t.de))
  refine ⟨?_, ?_, ?_, ?_, ms, ?_⟩
  · unfold OnlyDe
    simp only [State.onDe, State.post]
  · rw [State.onDe_de, h1]
  · rw [State.onDe_de, h2]
  · rw [State.onDe_de, h3]
  · unfold Sends
    rw [State.onDe_wires, h4]

/-! ### A buffer at work is left alone -/

theorem DE.buffer_changeBuffer_self (b : BufId) (f : Buffer → Buffer) (w : Work DE) :
    (DE.changeBuffer b f w).st.buffer b = f (w.st.buffer b) := by
  simp [DE.changeBuffer, DE.buffer]

theorem DE.buffer_changeBuffer_ne {b c : BufId} (f : Buffer → Buffer) (w : Work DE) (h : c ≠ b) :
    (DE.changeBuffer b f w).st.buffer c = w.st.buffer c := by
  obtain ⟨p, i⟩ := b
  obtain ⟨q, j⟩ := c
  unfold DE.buffer DE.changeBuffer
  dsimp only [Work.mod_st]
  by_cases hp : q = p
  · subst hp
    rw [upd_self]
    refine upd_ne _ _ ?_
    rintro rfl
    exact h rfl
  · rw [upd_ne _ _ hp]

/-- The buffer is as it was. -/
def Untouched (b : BufId) (w v : Work DE) : Prop := v.st.buffer b = w.st.buffer b

theorem Untouched.change {b c : BufId} (h : b ≠ c) (f : Buffer → Buffer) (w : Work DE) :
    Untouched b w (DE.changeBuffer c f w) := DE.buffer_changeBuffer_ne f w h

theorem untouched_endDelivery {b c : BufId} (h : b ≠ c) (w : Work DE) : Untouched b w (DE.endDelivery c w) := by
  unfold DE.endDelivery Untouched
  dsimp only
  split <;> exact DE.buffer_changeBuffer_ne _ w h

theorem untouched_serve {b c : BufId} (h : b ≠ c) (k : CursorId) (w : Work DE) : Untouched b w (DE.serve c k w) := by
  unfold DE.serve Untouched
  dsimp only
  split
  · rfl
  · have base : ∀ f, (DE.changeBuffer c f (w.mod fun d => { d with last := d.last.set c.port k })).st.buffer b =
        w.st.buffer b := fun f => by rw [DE.buffer_changeBuffer_ne _ _ h]; rfl
    split
    · unfold DE.locateAgain DE.askHold
      dsimp only
      split
      · split <;> simp only [Work.send_st, DE.buffer_changeBuffer_ne _ _ h] <;> rfl
      · simp only [Work.send_st, DE.buffer_changeBuffer_ne _ _ h]; rfl
    · unfold DE.locateFirst DE.askHold DE.cross
      split
      · split <;> simp only [Work.send_st, DE.buffer_changeBuffer_ne _ _ h] <;> rfl
      · simp only [Work.send_st, DE.buffer_changeBuffer_ne _ _ h]; rfl

/-- A buffer that is not READY, or whose delivery is wanted, is not withdrawn. -/
theorem withdraw_untouched (env : DeEnv) (b : BufId) (w : Work DE)
    (h : (w.st.buffer b).state ≠ .ready ∨ w.st.wanted (w.st.buffer b) = true) : Untouched b w (DE.withdraw env w) := by
  unfold DE.withdraw
  suffices key : ∀ (l : List BufId) (v : Work DE), Calm w v → Untouched b w v →
      Untouched b w (l.foldl (fun w b => if (w.st.buffer b).state = .ready && !env.taken.contains b &&
        !w.st.wanted (w.st.buffer b) then DE.endDelivery b w else w) v) from key allBuffers w (Calm.refl w) rfl
  intro l
  induction l with
  | nil => intro v _ hv; exact hv
  | cons c l ih =>
    intro v hc hv
    rw [List.foldl_cons]
    by_cases hbc : b = c
    · subst hbc
      have hw : v.st.wanted (v.st.buffer b) = w.st.wanted (w.st.buffer b) := by
        unfold Untouched at hv
        rw [hv]
        unfold DE.wanted
        rw [hc.1]
      have hs : v.st.buffer b = w.st.buffer b := hv
      rw [if_neg]
      · exact ih v hc hv
      · rw [hw, hs]
        rcases h with h | h <;> simp [h]
    · split
      · exact ih _ (hc.trans (calm_endDelivery c v)) (by
          unfold Untouched at *
          rw [untouched_endDelivery hbc, hv])
      · exact ih v hc hv

/-- A buffer that is not IDLE is not given another delivery. -/
theorem choose_untouched (b : BufId) (w : Work DE) (h : (w.st.buffer b).state ≠ .idle) : Untouched b w (DE.choose w) := by
  unfold DE.choose
  suffices key : ∀ (l : List BufId) (v : Work DE), Untouched b w v →
      Untouched b w (l.foldl DE.chooseFor v) from key allBuffers w rfl
  intro l
  induction l with
  | nil => intro v hv; exact hv
  | cons c l ih =>
    intro v hv
    rw [List.foldl_cons]
    refine ih _ ?_
    unfold DE.chooseFor
    split
    · rename_i hi
      have hbc : b ≠ c := by
        rintro rfl
        unfold Untouched at hv
        rw [hv] at hi
        exact h hi
      split
      · unfold Untouched at *
        rw [untouched_serve hbc, hv]
      · exact hv
    · exact hv

/-- What follows an event leaves a buffer that is at work, and wanted where it is READY, as it was. -/
theorem follow_untouched (env : DeEnv) (b : BufId) (w : Work DE) (hi : (w.st.buffer b).state ≠ .idle)
    (hr : (w.st.buffer b).state ≠ .ready ∨ w.st.wanted (w.st.buffer b) = true) : Untouched b w (DE.follow env w) := by
  have h := withdraw_untouched env b w hr
  unfold DE.follow Untouched
  rw [choose_untouched b _ (by unfold Untouched at h; rw [h]; exact hi)]
  exact h

/-! ### The end of a delivery, and events that leave a buffer at work -/

/-- A raised event of class CURSOR is the one that the owner rule lets through (R103). -/
theorem DE.raise_eq (c : CursorId) (k : NoticeKind) (v : Option Nat) (w : Work DE) :
    DE.raise c k v w = w.sendAll (toOwner w.st.cursors[c] fun o =>
      ⟨k, if k = .cursorGap then w.st.cursors[c].stream else none, some c, v, some o⟩) := by
  unfold DE.raise toOwner Work.sendAll
  dsimp only
  split <;> rename_i h <;> simp only [h]
  · split <;> simp [Work.send]
  · simp

/-- The end of a delivery: the buffer is IDLE, its hold dropped. -/
theorem endDelivery_spec (b : BufId) (w : Work DE) :
    (DE.endDelivery b w).st.buffer b = idleBuffer ∧ (DE.endDelivery b w).st.cursors = w.st.cursors ∧
      (DE.endDelivery b w).st.deferred = w.st.deferred ∧
      (DE.endDelivery b w).out = w.out ++ droppedHold (w.st.buffer b) := by
  unfold DE.endDelivery droppedHold
  dsimp only
  split <;> refine ⟨by simp [DE.buffer_changeBuffer_self], rfl, rfl, ?_⟩
  · rfl
  · simp [DE.changeBuffer]

/-- The drop of a hold alone. -/
theorem dropHold_spec (b : BufId) (w : Work DE) :
    (DE.dropHold b w).st.buffer b = { w.st.buffer b with hold := false } ∧
      (DE.dropHold b w).st.cursors = w.st.cursors ∧ (DE.dropHold b w).st.deferred = w.st.deferred ∧
      (DE.dropHold b w).out = w.out ++ droppedHold (w.st.buffer b) := by
  unfold DE.dropHold droppedHold
  dsimp only
  split
  · exact ⟨by simp [DE.buffer_changeBuffer_self], rfl, rfl, rfl⟩
  · rename_i h
    refine ⟨?_, rfl, rfl, by simp⟩
    have : (w.st.buffer b).hold = false := by simpa using h
    cases e : w.st.buffer b
    rw [e] at this
    simp_all

/-- A buffer whose delivery has ended is IDLE or newly chosen when the choices are made. -/
theorem choose_ended (b : BufId) (w : Work DE) (h : AfterDelivery (w.st.buffer b)) :
    AfterDelivery ((DE.choose w).st.buffer b) := by
  unfold DE.choose
  suffices key : ∀ (l : List BufId) (v : Work DE), AfterDelivery (v.st.buffer b) →
      AfterDelivery ((l.foldl DE.chooseFor v).st.buffer b) from key allBuffers w h
  intro l
  induction l with
  | nil => intro v hv; exact hv
  | cons c l ih =>
    intro v hv
    rw [List.foldl_cons]
    refine ih _ ?_
    unfold DE.chooseFor
    split
    · split
      · by_cases hbc : b = c
        · subst hbc
          unfold DE.serve
          dsimp only
          split
          · exact hv
          · split
            · unfold DE.locateAgain DE.askHold
              dsimp only
              split
              · split <;> simp only [Work.send_st, DE.buffer_changeBuffer_self] <;> simp [AfterDelivery, idleBuffer]
              · simp only [Work.send_st, DE.buffer_changeBuffer_self]; simp [AfterDelivery, idleBuffer]
            · unfold DE.locateFirst DE.askHold DE.cross
              split
              · split <;> simp only [Work.send_st, DE.buffer_changeBuffer_self] <;> simp [AfterDelivery, idleBuffer]
              · simp only [Work.send_st, DE.buffer_changeBuffer_self]; simp [AfterDelivery, idleBuffer]
        · rw [untouched_serve hbc]; exact hv
      · exact hv
    · exact hv

/-- What follows an event leaves a buffer whose delivery has ended IDLE or newly chosen. -/
theorem follow_ended (env : DeEnv) (b : BufId) (w : Work DE) (h : AfterDelivery (w.st.buffer b)) :
    AfterDelivery ((DE.follow env w).st.buffer b) := by
  have u := withdraw_untouched env b w (.inl (by rcases h.1 with e | e | e <;> simp [e]))
  unfold Untouched at u
  exact choose_ended b _ (by rw [u]; exact h)

/-- An event at DE that ends the delivery of a buffer: everything it does, but for the choices that follow. -/
theorem State.onDe_ends (t : State) (f : Work DE → Work DE) {b : BufId} {g : Work DE}
    (hf : f (Work.start t.de) = DE.endDelivery b g) :
    OnlyDe t (t.onDe f) ∧ (t.onDe f).de.cursors = g.st.cursors ∧ (t.onDe f).de.deferred = g.st.deferred ∧
      AfterDelivery ((t.onDe f).de.buffer b) ∧
      SendsFirst (.core .de) t (t.onDe f) (g.out ++ droppedHold (g.st.buffer b)) := by
  obtain ⟨h1, h2, -, h4, h5⟩ := State.onDe_spec t f
  obtain ⟨e1, e2, e3, e4⟩ := endDelivery_spec b g
  rw [hf] at h2 h4 h5
  refine ⟨h1, h2.trans e2, h4.trans e3, ?_, by rw [e4] at h5; exact h5⟩
  rw [State.onDe_de]
  exact follow_ended _ b _ (by rw [hf, e1]; exact ⟨.inl rfl, rfl, rfl⟩)

/-- An event at DE that leaves a buffer at work: everything it does to the buffer, but for the choices that follow. -/
theorem State.onDe_works (t : State) (f : Work DE → Work DE) {b : BufId} {g : Work DE} (hf : f (Work.start t.de) = g)
    (hi : (g.st.buffer b).state ≠ .idle)
    (hr : (g.st.buffer b).state ≠ .ready ∨ g.st.wanted (g.st.buffer b) = true) :
    OnlyDe t (t.onDe f) ∧ (t.onDe f).de.cursors = g.st.cursors ∧ (t.onDe f).de.deferred = g.st.deferred ∧
      (t.onDe f).de.buffer b = g.st.buffer b ∧ SendsFirst (.core .de) t (t.onDe f) g.out := by
  obtain ⟨h1, h2, -, h4, h5⟩ := State.onDe_spec t f
  rw [hf] at h2 h4 h5
  refine ⟨h1, h2, h4, ?_, h5⟩
  rw [State.onDe_de, hf]
  exact follow_untouched _ b g hi hr

end Sys2Proof.Machine
end

