-- ==== Sys2Proof/Laws/Choice.lean ====
section
/-! SUPPORT. The Delivery Engine's withdrawals and its choice of what to deliver (R111 to R113, R119): which offers stay, which
cursor qualifies, which comes first, what a choice begins, and when the choices that follow an event are none or one. -/

namespace Sys2Proof.Machine

/-- The list of all buffers holds every buffer. -/
theorem mem_allBuffers (b : BufId) : b ∈ allBuffers := by
  obtain ⟨p, i⟩ := b
  simp [allBuffers]

/-- A buffer serves the cursor. -/
theorem DE.served_iff (d : DE) (c : CursorId) :
    d.served c = true ↔ ∃ b : BufId, (d.buffer b).state ≠ .idle ∧ (d.buffer b).cursor = c := by
  unfold DE.served
  rw [List.any_eq_true]
  exact ⟨fun ⟨b, _, h⟩ => ⟨b, by simpa using h⟩, fun ⟨b, h⟩ => ⟨b, mem_allBuffers b, by simpa using h⟩⟩

/-- No buffer serves the cursor. -/
theorem DE.not_served_iff (d : DE) (c : CursorId) :
    d.served c = false ↔ ∀ b : BufId, (d.buffer b).cursor = c → (d.buffer b).state = .idle := by
  rw [← Bool.not_eq_true, DE.served_iff]
  constructor
  · intro h b hc
    by_cases hi : (d.buffer b).state = .idle
    · exact hi
    · exact absurd ⟨b, hi, hc⟩ h
  · rintro h ⟨b, hi, hc⟩
    exact hi (h b hc)

/-- Which cursors a port may choose (R111, R112). -/
theorem DE.qualifies_iff (d : DE) (p : Port) (c : CursorId) : d.qualifies p c = true ↔ MayBeChosen d p c := by
  unfold DE.qualifies DE.eligible MayBeChosen
  rw [← DE.not_served_iff]
  cases ho : d.cursors[c].owner <;> cases hs : d.cursors[c].stream <;>
    simp only [ho, hs, Option.any_none, Option.any_some, Bool.false_and, Bool.and_false, Bool.false_eq_true, reduceCtorEq,
      false_and, exists_false, and_false, Bool.and_eq_true, Bool.or_eq_true, decide_eq_true_eq, List.any_eq_true,
      Bool.not_eq_true', Option.some.injEq, exists_eq_left']
  refine ⟨?_, ?_⟩
  · rintro ⟨⟨⟨h1, ⟨h2, h3⟩, h4⟩, h5⟩, h6⟩
    exact ⟨h1, h2, h3, h4, h6, h5⟩
  · rintro ⟨h1, h2, h3, h4, h6, h5⟩
    exact ⟨⟨⟨h1, ⟨h2, h3⟩, h4⟩, h5⟩, h6⟩

/-- The id that stands `n` places after the last one chosen has its turn `n` (R112). -/
theorem turn_idsAfter (last : CursorId) (n : Fin 64) : turn last (last + 1 + n) = n.val := by
  unfold turn
  simp only [Fin.val_add]
  omega

/-- Every id stands among those after the last one chosen, at its turn. -/
theorem idsAfter_turn (last c : CursorId) : ∃ n : Fin 64, last + 1 + n = c := by
  refine ⟨⟨turn last c, Nat.mod_lt _ (by decide)⟩, ?_⟩
  apply Fin.ext
  unfold turn
  simp only [Fin.val_add]
  omega

/-- The first one found among the ids after the last one chosen is the one whose turn comes first (R112). -/
theorem find_idsAfter {last c : CursorId} {p : CursorId → Bool} (h : p c = true)
    (hf : ∀ j, p j = true → turn last c ≤ turn last j) : (idsAfter last).find? p = some c := by
  obtain ⟨n, rfl⟩ := idsAfter_turn last c
  unfold idsAfter
  rw [List.find?_map]
  rw [List.find?_eq_some_iff_append.2 ?_]
  · rfl
  · refine ⟨h, (List.finRange 64).take n, (List.finRange 64).drop (n + 1), ?_, ?_⟩
    · have : (List.finRange 64)[n.val]'(by simp) = n := by simp
      conv => rhs; rhs; lhs; rw [← this]
      rw [List.getElem_cons_drop, List.take_append_drop]
    · intro m hm
      obtain ⟨k, hk, rfl⟩ := List.mem_take_iff_getElem.1 hm
      simp only [Function.comp, List.getElem_finRange, Bool.not_eq_eq_eq_not, Bool.not_true]
      rw [← Bool.not_eq_true]
      intro hp
      have := hf _ hp
      rw [turn_idsAfter, turn_idsAfter] at this
      simp at this hk
      omega

/-! ### What a choice begins -/

/-- The choice made: the buffer takes the cursor, and the delivery begins (R112, R113). -/
theorem serve_begins {b : BufId} {c : CursorId} {i : StreamId} {x : Buffer} {m : Instr} {w : Work DE}
    (hi : w.st.cursors[c].stream = some i) (h : BeginsDelivery b c i w.st.cursors[c] x m) :
    DE.serve b c w = ⟨{ w.st with last := w.st.last.set b.port c
                                  buffers := upd w.st.buffers b.port fun v => v.set b.idx x }, w.out ++ [m]⟩ := by
  unfold DE.serve
  rcases h with ⟨before, e, after, hl, hb, he, h⟩ | ⟨hn, h⟩
  · have hf : w.st.cursors[c].list.find? InFlight.due = some e :=
      List.find?_eq_some_iff_append.2 ⟨he, before, after, hl, fun y hy => by simpa using hb y hy⟩
    simp only [hi, hf, DE.locateAgain]
    rcases h with ⟨g, hg, hp, rfl, rfl⟩ | ⟨hg, rfl, rfl⟩
    · simp only [hg, hp, if_true]
      simp [DE.askHold, DE.changeBuffer, DE.buffer, Work.mod, Work.send, upd, idleBuffer]
    · cases hh : w.st.cursors[c].hint with
      | none => simp [DE.changeBuffer, Work.mod, Work.send, upd, idleBuffer]
      | some g =>
        simp only [if_neg (hg g hh)]
        simp [DE.changeBuffer, Work.mod, Work.send, upd, idleBuffer]
  · have hf : w.st.cursors[c].list.find? InFlight.due = none :=
      List.find?_eq_none.2 fun y hy => by simpa using hn y hy
    simp only [hi, hf, DE.locateFirst]
    rcases h with ⟨g, hg, hp, rfl, rfl⟩ | ⟨g, hg, hp, rfl, rfl⟩ | ⟨hg, rfl, rfl⟩
    · simp only [hg, hp, if_true]
      simp [DE.askHold, DE.changeBuffer, DE.buffer, Work.mod, Work.send, upd, idleBuffer]
    · simp only [hg, if_neg (Nat.not_le.2 hp)]
      simp [DE.cross, DE.changeBuffer, Work.mod, Work.send, upd, idleBuffer]
    · simp only [hg]
      simp [DE.changeBuffer, Work.mod, Work.send, upd, idleBuffer]

/-! ### What follows an event -/

/-- Where every offered delivery is wanted, nothing is withdrawn (R119). -/
theorem withdraw_nothing (env : DeEnv) (w : Work DE)
    (h : ∀ b : BufId, (w.st.buffer b).state = .ready → w.st.wanted (w.st.buffer b) = true) : DE.withdraw env w = w := by
  unfold DE.withdraw
  generalize allBuffers = l
  induction l with
  | nil => rfl
  | cons b l ih =>
    rw [List.foldl_cons, if_neg, ih]
    by_cases hr : (w.st.buffer b).state = .ready <;> simp_all

/-- The test of R118 reads the cursors and the buffer alone. -/
theorem DE.wanted_congr {d e : DE} (h : d.cursors = e.cursors) (x : Buffer) : d.wanted x = e.wanted x := by
  unfold DE.wanted; rw [h]

/-- What the withdrawals do to a buffer whose offer has not been taken (R119). -/
theorem withdraw_buffer (env : DeEnv) (b : BufId) (w : Work DE) (ht : env.taken.contains b = false) :
    (DE.withdraw env w).st.buffer b =
      if (w.st.buffer b).state = .ready ∧ w.st.wanted (w.st.buffer b) = false then idleBuffer else w.st.buffer b := by
  unfold DE.withdraw
  have key : ∀ (l : List BufId) (v : Work DE), Calm w v →
      (v.st.buffer b = w.st.buffer b ∨
        (v.st.buffer b = idleBuffer ∧ (w.st.buffer b).state = .ready ∧ w.st.wanted (w.st.buffer b) = false)) →
      (l.foldl (fun w b => if (w.st.buffer b).state = .ready && !env.taken.contains b &&
        !w.st.wanted (w.st.buffer b) then DE.endDelivery b w else w) v).st.buffer b =
        if (w.st.buffer b).state = .ready ∧ w.st.wanted (w.st.buffer b) = false ∧ (b ∈ l ∨ v.st.buffer b = idleBuffer)
        then idleBuffer else w.st.buffer b := by
    intro l
    induction l with
    | nil =>
      intro v hc hv
      simp only [List.foldl_nil, List.not_mem_nil, false_or]
      rcases hv with e | ⟨e, h1, h2⟩
      · rw [e]
        split
        · rename_i h; exact h.2.2
        · rfl
      · rw [if_pos ⟨h1, h2, e⟩, e]
    | cons c l ih =>
      intro v hc hv
      rw [List.foldl_cons]
      by_cases hcond :
          ((v.st.buffer c).state = .ready && !env.taken.contains c && !v.st.wanted (v.st.buffer c)) = true
      · rw [if_pos hcond]
        have hcalm := hc.trans (calm_endDelivery c v)
        by_cases hbc : b = c
        · subst hbc
          have hi : (DE.endDelivery b v).st.buffer b = idleBuffer := (endDelivery_spec b v).1
          simp only [Bool.and_eq_true, decide_eq_true_eq, Bool.not_eq_true'] at hcond
          rcases hv with e | ⟨e, h1, h2⟩
          · have h1 := hcond.1.1; have h2 := hcond.2
            rw [e] at h1 h2
            rw [DE.wanted_congr hc.1] at h2
            rw [ih _ hcalm (.inr ⟨hi, h1, h2⟩), if_pos ⟨h1, h2, .inr hi⟩, if_pos ⟨h1, h2, .inl (by simp)⟩]
          · have h3 := hcond.1.1; rw [e] at h3; cases h3
        · have e : (DE.endDelivery c v).st.buffer b = v.st.buffer b := untouched_endDelivery hbc v
          rw [ih _ hcalm (by rw [e]; exact hv), e]
          simp [hbc]
      · rw [if_neg hcond, ih v hc hv]
        by_cases hbc : b = c
        · subst hbc
          rcases hv with e | ⟨e, h1, h2⟩
          · have : ¬ ((w.st.buffer b).state = .ready ∧ w.st.wanted (w.st.buffer b) = false) := by
              rintro ⟨h1, h2⟩
              apply hcond
              rw [e, DE.wanted_congr hc.1, h1, h2, ht]; rfl
            rw [if_neg (fun h => this ⟨h.1, h.2.1⟩), if_neg (fun h => this ⟨h.1, h.2.1⟩)]
          · rw [if_pos ⟨h1, h2, .inr e⟩, if_pos ⟨h1, h2, .inr e⟩]
        · simp [hbc]
  rw [key allBuffers w (Calm.refl w) (.inl rfl)]
  simp [mem_allBuffers]

/-- An offer that has been taken is not withdrawn (R119). -/
theorem withdraw_taken (env : DeEnv) (b : BufId) (w : Work DE) (ht : env.taken.contains b = true) :
    Untouched b w (DE.withdraw env w) := by
  unfold DE.withdraw Untouched
  generalize allBuffers = l
  induction l generalizing w with
  | nil => rfl
  | cons c l ih =>
    rw [List.foldl_cons, ih]
    split
    · rename_i h
      refine untouched_endDelivery ?_ w
      rintro rfl
      rw [ht] at h
      simp at h
    · rfl

/-- The offers that have been taken, as messages on their way. -/
theorem mem_takenOffers (ws : List Wire) (b : BufId) : b ∈ takenOffers ws ↔ ∃ w ∈ ws, w.msg = .deliverTaken b := by
  unfold takenOffers
  rw [List.mem_filterMap]
  refine exists_congr fun w => and_congr Iff.rfl ?_
  split <;> rename_i h <;> simp_all

/-- Buffers of a list that are not IDLE, or for which no cursor may be chosen, begin nothing. -/
theorem choose_nothing_of (l : List BufId) (w : Work DE)
    (h : ∀ b ∈ l, (w.st.buffer b).state = .idle → ∀ k, ¬ MayBeChosen w.st b.port k) :
    l.foldl DE.chooseFor w = w := by
  induction l with
  | nil => rfl
  | cons b l ih =>
    rw [List.foldl_cons]
    have hb : DE.chooseFor w b = w := by
      unfold DE.chooseFor
      split
      · rename_i hi
        have : (idsAfter w.st.last[b.port]).find? (w.st.qualifies b.port) = none :=
          List.find?_eq_none.2 fun k _ hk => h b (by simp) hi k ((DE.qualifies_iff _ _ _).1 hk)
        rw [this]
      · rfl
    rw [hb]
    exact ih fun x hx => h x (by simp [hx])

/-- Where no cursor may be chosen for a port with an IDLE buffer, nothing is chosen (R112). -/
theorem choose_nothing (w : Work DE)
    (h : ∀ b : BufId, (w.st.buffer b).state = .idle → ∀ k, ¬ MayBeChosen w.st b.port k) : DE.choose w = w :=
  choose_nothing_of allBuffers w fun b _ => h b

/-- The buffers stand in the list by port, buffer 0 of a port before buffer 1 (log entry 57). -/
theorem allBuffers_split (b : BufId) : ∃ l r, allBuffers = l ++ b :: r ∧
    (∀ y ∈ l, y ≠ b ∧ (y.port = b.port → y.idx < b.idx)) ∧ ∀ y ∈ r, y ≠ b := by
  have key : ∀ b ∈ allBuffers, (∃ n : Fin 8, allBuffers = allBuffers.take n ++ b :: allBuffers.drop (n + 1) ∧
      (∀ y ∈ allBuffers.take n, y ≠ b ∧ (y.port = b.port → y.idx < b.idx)) ∧
      ∀ y ∈ allBuffers.drop (n + 1), y ≠ b) := by
    decide
  obtain ⟨n, h⟩ := key b (mem_allBuffers b)
  exact ⟨_, _, h⟩

/-- Where one buffer is to take a cursor, and no other IDLE buffer may choose any but that one, the choices are that one
(R112). -/
theorem choose_one {b : BufId} {k : CursorId} {i : StreamId} {x : Buffer} {m : Instr} {w : Work DE}
    (hb : (w.st.buffer b).state = .idle) (hk : MayBeChosen w.st b.port k)
    (hf : ∀ j, MayBeChosen w.st b.port j → turn w.st.last[b.port] k ≤ turn w.st.last[b.port] j)
    (ho : ∀ y : BufId, y ≠ b → (w.st.buffer y).state = .idle →
      (y.port = b.port → b.idx < y.idx) ∧ ∀ j, j ≠ k → ¬ MayBeChosen w.st y.port j)
    (hi : w.st.cursors[k].stream = some i) (h : BeginsDelivery b k i w.st.cursors[k] x m) :
    DE.choose w = ⟨{ w.st with last := w.st.last.set b.port k
                               buffers := upd w.st.buffers b.port fun v => v.set b.idx x }, w.out ++ [m]⟩ := by
  obtain ⟨l, r, hl, hbefore, hafter⟩ := allBuffers_split b
  have hx : x.state ≠ .idle ∧ x.cursor = k := by
    rcases h with ⟨_, _, _, _, _, _, h⟩ | ⟨_, h⟩
    · rcases h with ⟨_, _, _, _, rfl⟩ | ⟨_, _, rfl⟩ <;> exact ⟨by simp, rfl⟩
    · rcases h with ⟨_, _, _, _, rfl⟩ | ⟨_, _, _, _, rfl⟩ | ⟨_, _, rfl⟩ <;> exact ⟨by simp, rfl⟩
  unfold DE.choose
  rw [hl, List.foldl_append, List.foldl_cons]
  rw [choose_nothing_of l w]
  · have hq : (idsAfter w.st.last[b.port]).find? (w.st.qualifies b.port) = some k :=
      find_idsAfter ((DE.qualifies_iff _ _ _).2 hk) fun j hj => hf j ((DE.qualifies_iff _ _ _).1 hj)
    have hs : DE.chooseFor w b = DE.serve b k w := by
      unfold DE.chooseFor
      rw [if_pos hb, hq]
    rw [hs, serve_begins hi h]
    have hbuf : ∀ y : BufId,
        DE.buffer { w.st with last := w.st.last.set b.port k
                              buffers := upd w.st.buffers b.port fun v => v.set b.idx x } y =
          if y = b then x else w.st.buffer y := by
      intro y
      split
      · rename_i e; subst e
        exact DE.buffer_changeBuffer_self y (fun _ => x) w
      · rename_i e
        exact DE.buffer_changeBuffer_ne (fun _ => x) w e
    refine choose_nothing_of r _ fun y hy hyi j hj => ?_
    have hne := hafter y hy
    rw [hbuf, if_neg hne] at hyi
    obtain ⟨h1, h2, h3, h4, h5, h6⟩ := hj
    have hjk : j ≠ k := by
      rintro rfl
      have := h6 b
      rw [hbuf, if_pos rfl] at this
      exact hx.1 (this hx.2)
    refine (ho y hne hyi).2 j hjk ⟨h1, h2, h3, h4, h5, fun z hz => ?_⟩
    have := h6 z
    rw [hbuf] at this
    by_cases e : z = b
    · subst e; exact hb
    · rw [if_neg e] at this; exact this hz
  · intro y hy hyi j hj
    obtain ⟨hne, hlt⟩ := hbefore y hy
    obtain ⟨h1, h2⟩ := ho y hne hyi
    by_cases hjk : j = k
    · subst hjk
      obtain ⟨⟨o, e1, e2⟩, -⟩ := hj
      obtain ⟨⟨o', e1', e2'⟩, -⟩ := hk
      rw [e1] at e1'
      cases e1'
      have hp : y.port = b.port := e2.symm.trans e2'
      have a1 := h1 hp
      have a2 := hlt hp
      exact absurd (Nat.lt_trans a1 a2) (Nat.lt_irrefl _)
    · exact h2 j hjk hj

/-- A choice makes no buffer READY. -/
theorem choose_not_ready (b : BufId) (w : Work DE) (h : (w.st.buffer b).state ≠ .ready) :
    ((DE.choose w).st.buffer b).state ≠ .ready := by
  unfold DE.choose
  generalize allBuffers = l
  induction l generalizing w with
  | nil => exact h
  | cons c l ih =>
    rw [List.foldl_cons]
    refine ih _ ?_
    unfold DE.chooseFor
    split
    · split
      · rename_i k hk
        by_cases hbc : b = c
        · subst hbc
          unfold DE.serve DE.locateAgain DE.locateFirst DE.askHold DE.cross
          dsimp only
          repeat' split
          all_goals first
            | exact h
            | simp only [Work.send_st, DE.buffer_changeBuffer_self]; simp
        · rw [untouched_serve hbc]; exact h
      · exact h
    · exact h

/-- What follows an event at DE leaves an offer wanted, or taken (R119). -/
theorem follow_wanted {env : DeEnv} {b : BufId} {w : Work DE} (ht : env.taken.contains b = false)
    (h : ((DE.follow env w).st.buffer b).state = .ready) :
    (DE.follow env w).st.wanted ((DE.follow env w).st.buffer b) = true := by
  have hb := withdraw_buffer env b w ht
  have hc := (calm_follow env w).1
  unfold DE.follow at *
  by_cases hr : ((DE.withdraw env w).st.buffer b).state = .ready
  · have e := choose_untouched b (DE.withdraw env w) (by rw [hr]; decide)
    unfold Untouched at e
    rw [e, DE.wanted_congr hc, hb]
    rw [hb] at hr
    split at hr
    · cases hr
    · rename_i hn
      rw [if_neg hn]
      simpa using fun hw => hn ⟨hr, hw⟩
  · exact absurd h (choose_not_ready b _ hr)

/-- An event at DE that withdraws nothing: its own effect, then the choices (R112). -/
theorem State.onDe_choose {t : State} {f : Work DE → Work DE} {w : Work DE} (hf : f (Work.start t.de) = w)
    (hr : ∀ b : BufId, (w.st.buffer b).state = .ready → w.st.wanted (w.st.buffer b) = true) :
    t.onDe f = { t with de := (DE.choose w).st }.post (.core .de) (DE.choose w).out := by
  unfold State.onDe DE.follow
  rw [hf, withdraw_nothing _ _ hr]

/-! ### The records that an open asks of (R85, R86) -/

/-- Which cursors count for a session (R86). -/
theorem Cursor.countsFor_iff (sess : SessId) (c : Cursor) : c.countsFor sess = true ↔ CountsFor sess c := by
  obtain ⟨state⟩ := c
  unfold Cursor.countsFor CountsFor
  rename_i work _ _ _ _ req _ _ _ _
  cases state <;> cases work <;> cases req <;> simp

/-- Which records nothing reserves (R85). -/
theorem DE.unreserved_iff (d : DE) (c : CursorId) :
    (decide (d.cursors[c].state = .free) && !d.reserved c) = true ↔ Unreserved d c := by
  unfold DE.reserved Unreserved
  simp only [Bool.and_eq_true, Bool.not_eq_true', Bool.or_eq_false_iff, decide_eq_true_eq, decide_eq_false_iff_not, ne_eq,
    Decidable.not_not, List.any_eq_false, Bool.or_eq_true, not_and, not_or, and_assoc]
  refine and_congr Iff.rfl (and_congr Iff.rfl (and_congr Iff.rfl ?_))
  exact ⟨fun h b => h b (mem_allBuffers b), fun h b _ => h b⟩

end Sys2Proof.Machine
end

