-- ==== Sys2Proof/Laws/Cursor.lean ====
section
/-! SUPPORT. Cursors at the Delivery Engine: what a step on one cursor leaves as it was, and the end of a cursor's work. -/

namespace Sys2Proof.Machine

/-- A command whose meaning is an event at DE: its own effect on cursors, views and deferrals, and its own messages first. -/
theorem de_event {m : Instr} {s t : State} (f : Work DE → Work DE) (h : Takes m s t)
    (he : exec m s = arrive m s fun t => t.onDe f) :
    ∃ u, exec m s = .next u ∧ OnlyDe t u ∧ u.de.cursors = (f (Work.start t.de)).st.cursors ∧
      u.de.views = (f (Work.start t.de)).st.views ∧ u.de.deferred = (f (Work.start t.de)).st.deferred ∧
      SendsFirst (.core .de) t u (f (Work.start t.de)).out :=
  ⟨_, he.trans (arrive_takes h _), State.onDe_spec t f⟩

/-- What is sent first begins with any part of it that stands at its front. -/
theorem SendsFirst.front {b : Block} {t u : State} {ms front : List Instr} (h : SendsFirst b t u ms)
    (e : ∃ rest, ms = front ++ rest) : SendsFirst b t u front := by
  obtain ⟨more, hm⟩ := h
  obtain ⟨rest, rfl⟩ := e
  exact ⟨rest ++ more, by rw [← List.append_assoc]; exact hm⟩

/-- The drain test changes nothing, and sends at most one notice. -/
theorem calm_drained (c : CursorId) (w : Work DE) : Calm w (DE.drained c w) := by
  unfold DE.drained; dsimp only; split
  · split
    · unfold DE.raise; dsimp only; split
      · split
        · exact Calm.refl _
        · exact calm_send _ _
      · exact Calm.refl _
    · exact Calm.refl _
  · exact Calm.refl _

/-- The end of a cursor's work where no request waits and no session end is due. -/
theorem endWork_idle (c : CursorId) (w : Work DE) (h1 : w.st.cursors[c].waiting = []) (h2 : w.st.cursors[c].endDue = false) :
   DE.endWork c w = DE.change c (fun x => { x with waiting := [] }) (DE.change c (fun x => { x with work := .none }) w) := by
  unfold DE.endWork
  rw [h1]
  unfold DE.takeWaiting
  unfold DE.settleDue
  rw [if_neg]
  simp [-Fin.getElem_fin, DE.change, h2]

/-- A step of DE that changes no cursor but `c` and no view, and sends behind what has been sent. -/
def Near (c : CursorId) (w v : Work DE) : Prop :=
  v.st.views = w.st.views ∧ (∀ d, d ≠ c → v.st.cursors[d] = w.st.cursors[d]) ∧ ∃ ms, v.out = w.out ++ ms

theorem Near.refl (c w) : Near c w w := ⟨rfl, fun _ _ => rfl, [], by simp⟩

theorem Near.trans {c a b d} (h : Near c a b) (k : Near c b d) : Near c a d := by
  obtain ⟨h1, h2, ms, h3⟩ := h; obtain ⟨k1, k2, ns, k3⟩ := k
  exact ⟨k1.trans h1, fun d hd => (k2 d hd).trans (h2 d hd), ms ++ ns, by rw [k3, h3, List.append_assoc]⟩

theorem Near.of_calm {c w v} (h : Calm w v) : Near c w v := ⟨h.2.1, fun d _ => by rw [h.1], h.2.2.2⟩

theorem near_change (c f w) : Near c w (DE.change c f w) := ⟨rfl, fun d hd => upd_ne _ _ hd, [], by simp [DE.change]⟩

theorem near_send (c) (w : Work DE) (m) : Near c w (w.send m) := ⟨rfl, fun _ _ => rfl, [m], rfl⟩

theorem near_sendAll (c) (w : Work DE) (m) : Near c w (w.sendAll m) := ⟨rfl, fun _ _ => rfl, m, rfl⟩

theorem near_abandon (c) (w : Work DE) (c') : Near c w (DE.abandon c' w) := ⟨rfl, fun _ _ => rfl, [], by simp [DE.abandon]⟩

theorem near_raise (c) (w : Work DE) (c' k v) : Near c w (DE.raise c' k v w) := by
  unfold DE.raise; dsimp only; split
  · split
    · exact Near.refl _ _
    · exact near_send _ _ _
  · exact Near.refl _ _

theorem near_exhaust (c) (w : Work DE) : Near c w (DE.exhaust c w) := by
  unfold DE.exhaust; dsimp only; split
  · exact Near.refl _ _
  · exact (near_change _ _ _).trans (near_raise _ _ _ _ _)

theorem near_free (c) (w : Work DE) : Near c w (DE.free c w) := (near_change _ _ _).trans (near_abandon _ _ _)

theorem near_leave (c) (w : Work DE) : Near c w (DE.leave c w) := by
  unfold DE.leave; split
  · exact Near.refl _ _
  · exact near_sendAll _ _ _

theorem near_settle (c) (w : Work DE) : Near c w (DE.settle c w) := by
  unfold DE.settle; dsimp only; split
  · exact near_change _ _ _
  · exact near_change _ _ _
  · exact near_free _ _
  all_goals split
  all_goals first | exact (near_change _ _ _).trans (near_abandon _ _ _) | exact (near_leave _ _).trans (near_free _ _)

theorem near_begin (c i st) (w : Work DE) : Near c w (DE.beginPositioning c i st w) := by
  unfold DE.beginPositioning; split <;> exact (near_change _ _ _).trans (near_send _ _ _)

theorem near_ref (c) (w : Work DE) (r st d) : Near c w (w.refuse r st d) := near_send _ _ _

theorem near_ans (c) (w : Work DE) (r a) : Near c w (w.answer r a) := near_send _ _ _

/-- A request of a cursor, its turn come, touches no other cursor. -/
theorem near_perform (c q) (w : Work DE) : Near c w (DE.perform c q w) := by
  unfold DE.perform; split
  · exact near_ref _ _ _ _ _
  · split
    · unfold DE.owned; dsimp only; split
      · exact near_ref _ _ _ _ _
      · split
        · exact near_ref _ _ _ _ _
        · unfold DE.seekNow; dsimp only; split
          · split
            · exact near_ref _ _ _ _ _
            · exact (near_change _ _ _).trans (near_begin _ _ _ _)
          · split
            · exact near_ref _ _ _ _ _
            · exact (near_change _ _ _).trans (near_begin _ _ _ _)
          · exact near_ref _ _ _ _ _
    · unfold DE.owned; dsimp only; split
      · exact near_ref _ _ _ _ _
      · split
        · exact near_ref _ _ _ _ _
        · unfold DE.pauseNow; split
          · exact (near_change _ _ _).trans (near_ans _ _ _ _)
          · exact (near_ans _ _ _ _)
          · exact near_ref _ _ _ _ _
    · unfold DE.owned; dsimp only; split
      · exact near_ref _ _ _ _ _
      · split
        · exact near_ref _ _ _ _ _
        · unfold DE.resumeNow; split
          · exact ((near_change _ _ _).trans (near_ans _ _ _ _)).trans (near_exhaust _ _)
          · exact (near_change _ _ _).trans (near_ans _ _ _ _)
          · exact (near_ans _ _ _ _)
          · exact near_ref _ _ _ _ _
    · unfold DE.closeNow; dsimp only; split
      · split
        · exact near_ref _ _ _ _ _
        · exact ((near_leave _ _).trans (near_free _ _)).trans (near_ans _ _ _ _)
      · split
        · exact near_ref _ _ _ _ _
        · exact ((near_leave _ _).trans (near_free _ _)).trans (near_ans _ _ _ _)
    · unfold DE.attachNow; dsimp only; split
      · split
        · exact near_ref _ _ _ _ _
        · split
          · exact near_ref _ _ _ _ _
          · exact (near_change _ _ _).trans (near_send _ _ _)
      · split
        · exact near_ref _ _ _ _ _
        · split
          · exact near_ref _ _ _ _ _
          · exact near_ref _ _ _ _ _

theorem near_takeWaiting (c q) (w : Work DE) : Near c w (DE.takeWaiting c q w) := by
  induction q generalizing w with
  | nil =>
    unfold DE.takeWaiting DE.settleDue; split
    · exact (near_change _ _ _).trans (near_settle _ _)
    · exact near_change _ _ _
  | cons x q ih =>
    unfold DE.takeWaiting; split
    · exact near_change _ _ _
    · exact (near_perform _ _ _).trans (ih _)

/-- The end of a cursor's work touches no other cursor. -/
theorem near_endWork (c) (w : Work DE) : Near c w (DE.endWork c w) := (near_change _ _ _).trans (near_takeWaiting _ _ _)

end Sys2Proof.Machine
end

