-- ==== Sys2Proof/Laws/Directory.lean ====
section
/-! SUPPORT. The Stream Directory: the claims that a stream has outstanding, and what becomes of the tunes that wait for them. -/

namespace Sys2Proof.Machine

@[simp] theorem SD.onWork_streams (sd : SD) (s : StreamId) (f : StreamWork → StreamWork) :
    (sd.onWork s f).streams = sd.streams := rfl

@[simp] theorem SD.onWork_work (sd : SD) (s : StreamId) (f : StreamWork → StreamWork) :
    (sd.onWork s f).works[s] = f sd.works[s] := upd_self _ _ _

theorem SD.onWork_onWork (sd : SD) (s : StreamId) (f g : StreamWork → StreamWork) :
    (sd.onWork s f).onWork s g = sd.onWork s fun k => g (f k) := by
  simp only [SD.onWork, upd_upd]

/-- Two changes of what is under way for an id that come to the same there are the same. -/
theorem SD.onWork_congr {sd : SD} {s : StreamId} {f g : StreamWork → StreamWork} (h : f sd.works[s] = g sd.works[s]) :
    sd.onWork s f = sd.onWork s g := by
  simp only [SD.onWork, upd_congr h]

theorem SD.onWork_id (sd : SD) (s : StreamId) : (sd.onWork s fun k => k) = sd := by
  simp [SD.onWork, upd]

/-- A claim is outstanding where SD has noted it (R13). -/
theorem StreamWork.mem_outstanding (k : StreamWork) (c : ClaimKind) : c ∈ k.outstanding ↔
    match c with
    | .create => k.create ≠ none
    | .tune => k.tune ≠ none
    | .delete => k.deleteClaim = true := by
  unfold StreamWork.outstanding
  cases c <;> simp [Option.isSome_iff_ne_none]

/-- Nothing is outstanding where SD has noted none of the three claims (R13). -/
theorem StreamWork.outstanding_nil (k : StreamWork) :
    k.outstanding = [] ↔ k.create = none ∧ k.tune = none ∧ k.deleteClaim = false := by
  unfold StreamWork.outstanding
  cases k.create <;> cases k.tune <;> cases k.deleteClaim <;> simp

/-- A tune that is taken changes no descriptor, nothing of another id and of its own the tune claim alone, and sends one message
(R13, R14). -/
theorem SD.tuneNow_frame (s : StreamId) (r : Req) (f : QuotaFields) (w : Work SD) :
    (∃ x : Option Tune, (SD.tuneNow s r f w).st = w.st.onWork s fun k => { k with tune := x }) ∧
      ∃ m, (SD.tuneNow s r f w).out = w.out ++ [m] := by
  have same : ∃ x : Option Tune, w.st = w.st.onWork s fun k => { k with tune := x } :=
    ⟨w.st.works[s].tune, (SD.onWork_id _ s).symm.trans (SD.onWork_congr rfl)⟩
  unfold SD.tuneNow
  split
  · exact ⟨same, _, rfl⟩
  · exact ⟨same, _, rfl⟩
  all_goals
    split
    · exact ⟨same, _, rfl⟩
    · exact ⟨⟨_, rfl⟩, _, rfl⟩

/-- Taking waiting tunes changes no descriptor, nothing of another id and of its own the tune claim and the tunes that wait, and
sends behind what has been sent (R13). -/
theorem SD.takeTunes_frame (s : StreamId) (l : List WaitingTune) (w : Work SD) :
    (∃ (x : Option Tune) (ws : List WaitingTune),
      (SD.takeTunes s l w).st = w.st.onWork s fun k => { k with tune := x, waiting := ws }) ∧
      ∃ more, (SD.takeTunes s l w).out = w.out ++ more := by
  induction l generalizing w with
  | nil =>
    exact ⟨⟨w.st.works[s].tune, w.st.works[s].waiting, (SD.onWork_id _ s).symm.trans (SD.onWork_congr rfl)⟩, [],
      (List.append_nil _).symm⟩
  | cons x rest ih =>
    unfold SD.takeTunes
    split
    · obtain ⟨⟨a, ha⟩, m, hm⟩ := SD.tuneNow_frame s x.req x.fields w
      obtain ⟨⟨b, ws, hb⟩, more, hmore⟩ := ih (SD.tuneNow s x.req x.fields w)
      exact ⟨⟨b, ws, by rw [hb, ha, SD.onWork_onWork]⟩, m :: more, by simp [hmore, hm]⟩
    · obtain ⟨⟨b, ws, hb⟩, more, hmore⟩ := ih (w.mod fun sd => sd.onWork s fun k => { k with waiting := k.waiting ++ [x] })
      exact ⟨⟨b, ws, by rw [hb, Work.mod_st, SD.onWork_onWork]⟩, more, hmore⟩

/-- While a tune claim is out every waiting tune waits on (R13). -/
theorem SD.takeTunes_claimed {s : StreamId} (l : List WaitingTune) {w : Work SD} (h : w.st.works[s].tune ≠ none) :
    SD.takeTunes s l w = w.mod fun sd => sd.onWork s fun k => { k with waiting := k.waiting ++ l } := by
  induction l generalizing w with
  | nil => simp [SD.takeTunes, Work.mod, SD.onWork_id]
  | cons x rest ih =>
    unfold SD.takeTunes
    rw [if_neg (fun e => h e.2), ih (by simpa [-Fin.getElem_fin] using h)]
    simp [Work.mod, SD.onWork_onWork]

/-- On a stream that is ABSENT or DELETING the waiting tunes that wait for no claim are refused, and the others wait on (R4,
R13). -/
theorem SD.takeTunes_ended {s : StreamId} {st : Status} (l : List WaitingTune) {w : Work SD}
    (hs : (w.st.streams[s].state = .absent ∧ st = .noStream) ∨ (w.st.streams[s].state = .deleting ∧ st = .wrongState))
    (h : w.st.works[s].tune = none) :
    SD.takeTunes s l w =
      ⟨w.st.onWork s fun k => { k with waiting := k.waiting ++ l.filter fun x => x.awaits ≠ [] },
        w.out ++ (l.filter fun x => x.awaits = []).map fun x => reply x.req (refusal st 0)⟩ := by
  induction l generalizing w with
  | nil => simp [SD.takeTunes, SD.onWork_id]
  | cons x rest ih =>
    unfold SD.takeTunes
    by_cases hx : x.awaits = []
    · have e : SD.tuneNow s x.req x.fields w = w.refuse x.req st := by
        unfold SD.tuneNow
        rcases hs with ⟨hs, rfl⟩ | ⟨hs, rfl⟩ <;> rw [hs]
      rw [if_pos ⟨hx, h⟩, e, ih (w := w.refuse x.req st) hs h]
      simp [hx]
    · rw [if_neg (fun e => hx e.1), ih (w := w.mod fun sd => sd.onWork s fun k => { k with waiting := k.waiting ++ [x] }) hs
        (by simpa [-Fin.getElem_fin] using h)]
      simp [hx, SD.onWork_onWork]

/-- A tune of an OPEN or SEALED stream whose values pass sends its claim (R13, R14). -/
theorem SD.tuneNow_claims {s : StreamId} {r : Req} {f : QuotaFields} {v : QuotaValues} {w : Work SD}
    (hl : w.st.streams[s].live = true) (hv : checkQuota 3 w.st.streams[s].values f = .ok v) :
    SD.tuneNow s r f w = (w.mod fun sd => sd.onWork s fun k => { k with tune := some ⟨r, v⟩ }).send
      (.tuneClaim s v.reservation v.ceiling) := by
  unfold SD.tuneNow
  cases hst : w.st.streams[s].state <;> simp [-Fin.getElem_fin, Descriptor.live, hst, hv] at hl ⊢

/-- On a stream that is ABSENT or DELETING a claim's answer has the tunes that wait for no other refused (R4, R13). -/
theorem SD.resumeTunes_ended {s : StreamId} {st : Status} {w : Work SD}
    (hs : (w.st.streams[s].state = .absent ∧ st = .noStream) ∨ (w.st.streams[s].state = .deleting ∧ st = .wrongState))
    (h : w.st.works[s].tune = none) :
    SD.resumeTunes s w =
      ⟨w.st.onWork s fun k => { k with waiting := k.waiting.filter fun x => x.awaits ≠ [] },
        w.out ++ (w.st.works[s].waiting.filter fun x => x.awaits = []).map fun x => reply x.req (refusal st 0)⟩ := by
  unfold SD.resumeTunes
  rw [SD.takeTunes_ended (w := w.mod fun sd => sd.onWork s fun k => { k with waiting := [] }) _ hs
    (by simpa [-Fin.getElem_fin] using h), Work.mod_st, SD.onWork_onWork]
  refine congrArg (Work.mk · _) (SD.onWork_congr ?_)
  simp [-Fin.getElem_fin]

/-- On a stream that is OPEN or SEALED a claim's answer has the first waiting tune, where it waits for no other and passes its
checks, send its claim, and those behind it wait on (R13, R14). -/
theorem SD.resumeTunes_claims {s : StreamId} {x : WaitingTune} {rest : List WaitingTune} {v : QuotaValues} {w : Work SD}
    (hw : w.st.works[s].waiting = x :: rest) (hx : x.awaits = []) (ht : w.st.works[s].tune = none)
    (hl : w.st.streams[s].live = true) (hv : checkQuota 3 w.st.streams[s].values x.fields = .ok v) :
    SD.resumeTunes s w =
      ⟨w.st.onWork s fun k => { k with tune := some ⟨x.req, v⟩, waiting := rest },
        w.out ++ [.tuneClaim s v.reservation v.ceiling]⟩ := by
  unfold SD.resumeTunes
  rw [hw, SD.takeTunes.eq_2, if_pos ⟨hx, by simpa [-Fin.getElem_fin] using ht⟩,
    SD.tuneNow_claims (w := w.mod fun sd => sd.onWork s fun k => { k with waiting := [] }) hl hv,
    SD.takeTunes_claimed _ (by simp [-Fin.getElem_fin])]
  simp [Work.mod, Work.send, SD.onWork_onWork]

end Sys2Proof.Machine
end

