-- ==== Sys2Proof/Laws/Map.lean ====
section
/-! SUPPORT. The Map Unit: the walk tracker that takes a key, the keys of the lookup queue, and what answering waiters leaves
as it was. -/

namespace Sys2Proof.Machine

/-- An event at MU touches MU and the messages on their way. -/
theorem State.onMu_only (t : State) (f : Work MU → Work MU) : OnlyMu t (t.onMu f) := by
  simp [OnlyMu, State.onMu, State.post]

/-- The lowest IDLE tracker is the one that takes a key. -/
theorem MU.idleTracker_some {m : MU} {w : TrackerId} (h : m.trackers[w] = none)
    (low : ∀ j < w, m.trackers[j] ≠ none) : m.idleTracker = some w := by
  unfold MU.idleTracker
  rw [List.find?_eq_some_iff_getElem]
  refine ⟨by simp [-Fin.getElem_fin, h], w.val, by simp, by simp, fun j hj => ?_⟩
  have hl := low ⟨j, by omega⟩ (by simpa [Fin.lt_def] using hj)
  cases hh : m.trackers[j] with
  | none => exact absurd hh hl
  | some x => simp [hh]

/-- With every tracker at work there is none to take a key. -/
theorem MU.idleTracker_none {m : MU} (h : ∀ w : TrackerId, m.trackers[w] ≠ none) : m.idleTracker = none := by
  unfold MU.idleTracker
  rw [List.find?_eq_none]
  intro w _
  simpa [Option.isNone_iff_eq_none] using h w

/-- A key that no entry of the queue has is not found in it. -/
theorem queue_any_isFor {q : List QueueEntry} {i : StreamId} {lpn : Lpn} (h : ∀ e ∈ q, e.stream ≠ i ∨ e.lpn ≠ lpn) :
    q.any (QueueEntry.isFor i lpn) = false := by
  rw [List.any_eq_false]
  intro e he
  simp only [QueueEntry.isFor, Bool.and_eq_true, decide_eq_true_eq]
  rintro ⟨a, b⟩
  exact (h e he).elim (· a) (· b)

/-- A change of the entries of a key leaves a queue without that key. -/
theorem queue_map_isFor {q : List QueueEntry} {i : StreamId} {lpn : Lpn} (f : QueueEntry → QueueEntry)
    (h : ∀ e ∈ q, e.stream ≠ i ∨ e.lpn ≠ lpn) : (q.map fun e => if e.isFor i lpn then f e else e) = q := by
  conv => rhs; rw [← List.map_id q]
  refine List.map_congr_left fun e he => if_neg ?_
  simp only [QueueEntry.isFor, Bool.and_eq_true, decide_eq_true_eq]
  rintro ⟨a, b⟩
  exact (h e he).elim (· a) (· b)

/-- The queue moves no further where no entry has its answer. -/
theorem MU.resolveFront_stops (n : Nat) {w : Work MU} (h : ∀ e ∈ w.st.queue, e.answer = none) :
    MU.resolveFront n w = w := by
  cases n with
  | zero => rfl
  | succ n =>
    unfold MU.resolveFront
    split
    · rfl
    · rename_i e r hq
      rw [h e (by rw [hq]; simp)]

/-- A search's end leaves the lookup queue. -/
@[simp] theorem MU.finish_queue (r : Searcher) (a : MapAnswer) (w : Work MU) : (MU.finish r a w).st.queue = w.st.queue := rfl

/-- A halving leaves the lookup queue. -/
@[simp] theorem MU.halve_queue (x : Search) (w : Work MU) : (MU.halve x w).st.queue = w.st.queue := by
  unfold MU.halve
  split
  · rfl
  · split <;> rfl

/-- A probe's answer leaves the lookup queue. -/
@[simp] theorem MU.probed_queue (r : Searcher) (i : StreamId) (lpn : Lpn) (a : MapAnswer) (w : Work MU) :
    (MU.probed r i lpn a w).st.queue = w.st.queue := by
  unfold MU.probed
  split
  · rfl
  · split
    · split
      · exact MU.halve_queue _ _
      · rfl
      · rfl
    · rfl

/-- An answer to a looker leaves the lookup queue. -/
@[simp] theorem MU.tell_queue (i : StreamId) (lpn : Lpn) (a : MapAnswer) (r : Looker) (w : Work MU) :
    (MU.tell i lpn a r w).st.queue = w.st.queue := by
  unfold MU.tell
  split
  · rfl
  · exact MU.probed_queue _ _ _ _ _

/-- The answers to a list of waiters leave the lookup queue. -/
@[simp] theorem MU.tellAll_queue (i : StreamId) (lpn : Lpn) (a : MapAnswer) (rs : List Looker) (w : Work MU) :
    (MU.tellAll i lpn a rs w).st.queue = w.st.queue := by
  unfold MU.tellAll
  induction rs generalizing w with
  | nil => rfl
  | cons r rs ih => rw [List.foldl_cons, ih, MU.tell_queue]

end Sys2Proof.Machine
end

