-- ==== Sys2Proof/Laws/Memory.lean ====
section
/-! SUPPORT. The DRAM: what a write and a loss leave readable, and that every operation keeps the canonical form. -/

namespace Sys2Proof.Machine

/-! ### Reading after a change -/

theorem find_append_left {α : Type} (p : α → Bool) (l m : List α) (h : ∀ x ∈ l, p x = false) :
    (l ++ m).find? p = m.find? p := by
  rw [List.find?_append, List.find?_eq_none.2 (by simpa using h)]; rfl

theorem find_filter_outside (l : List Host.Cell) (keep : Host.Cell → Bool) (a : Nat)
    (h : ∀ c ∈ l, c.1 = a → keep c = true) : (l.filter keep).find? (fun c => c.1 == a) = l.find? fun c => c.1 == a := by
  induction l with
  | nil => rfl
  | cons c l ih =>
    have ih := ih fun x hx => h x (by simp [hx])
    by_cases hk : keep c = true
    · simp [List.filter_cons_of_pos hk, List.find?_cons, ih]
    · have : (c.1 == a) = false := by
        simp; intro e; exact hk (h c (by simp) e)
      simp [List.filter_cons_of_neg hk, this, ih]

theorem cellsFrom_key {a : Nat} {bs : List Byte} {c : Host.Cell} (h : c ∈ cellsFrom a bs) :
    a ≤ c.1 ∧ c.1 < a + bs.length := by
  induction bs generalizing a with
  | nil => simp [cellsFrom] at h
  | cons b bs ih =>
    simp only [cellsFrom, List.mem_cons] at h
    rcases h with rfl | h
    · simp
    · have := ih h; simp; omega

theorem cellsFrom_find (a : Nat) (bs : List Byte) (k : Nat) (h : k < bs.length) :
    (cellsFrom a bs).find? (fun c => c.1 == a + k) = some (a + k, bs[k]) := by
  induction bs generalizing a k with
  | nil => simp at h
  | cons b bs ih =>
    cases k with
    | zero => simp [cellsFrom]
    | succ k =>
      have := ih (a + 1) k (by simpa using h)
      rw [show a + (k + 1) = a + 1 + k by omega]
      rw [cellsFrom, List.find?_cons_of_neg (by simp; omega), this]
      simp

/-- A byte that a write stores reads as the byte written. -/
theorem Dram.byte_write_inside (d : Dram) (a : Nat) (bs : List Byte) (k : Nat) (h : k < bs.length) :
    (d.write a bs).byte (a + k) = bs[k] := by
  have : (d.write a bs).written (a + k) = some bs[k] := by
    unfold Dram.written Dram.write
    rw [List.append_assoc, find_append_left _ _ _ (by simp; omega), List.find?_append, cellsFrom_find a bs k h]
    rfl
  simp [Dram.byte, this]

/-- A byte outside a write reads as before. -/
theorem Dram.byte_write_outside (d : Dram) (a : Nat) (bs : List Byte) (x : Nat) (h : x < a ∨ a + bs.length ≤ x) :
    (d.write a bs).byte x = d.byte x := by
  have : (d.write a bs).written x = d.written x := by
    unfold Dram.written Dram.write
    congr 1
    rw [List.append_assoc]
    have hc : ∀ c ∈ cellsFrom a bs, (fun c : Host.Cell => c.1 == x) c = false := by
      intro c hc; have := cellsFrom_key hc; simp; omega
    rcases h with h | h
    · rw [List.find?_append, find_filter_outside _ _ _ (by simp; intro _ _ _ e; omega),
        find_append_left _ _ _ hc]
      have : (d.cells.filter fun c => decide (a + bs.length ≤ c.1)).find? (fun c => c.1 == x) = none := by
        simp; intro _ _ _ _ e; omega
      rw [this]; simp
    · rw [find_append_left _ _ _ (by simp; intro _ _ _ _ e; omega), find_append_left _ _ _ hc,
        find_filter_outside _ _ _ (by simp; intro _ _ _ e; omega)]
  unfold Dram.byte; rw [this]; rfl

/-- A byte outside a run made undefined reads as before. -/
theorem Dram.byte_spoil_outside (d : Dram) (a n x : Nat) (h : x < a ∨ a + n ≤ x) : (d.spoil a n).byte x = d.byte x := by
  have : (d.spoil a n).written x = d.written x := by
    unfold Dram.written Dram.spoil
    congr 1
    exact find_filter_outside _ _ _ (by simp; intro c _ _ e; subst e; omega)
  unfold Dram.byte; rw [this]; rfl

/-- A read gives the bytes at the addresses it names. -/
theorem Dram.read_getElem (d : Dram) (a n k : Nat) (h : k < n) :
    (d.read a n)[k]'(by simpa [Dram.read] using h) = d.byte (a + k) := by
  simp [Dram.read]

/-- Bytes that a write stores read back as they were written. -/
theorem Dram.read_write_inside (d : Dram) (a : Nat) (bs : List Byte) : (d.write a bs).read a bs.length = bs := by
  refine List.ext_getElem (by simp [Dram.read]) fun k h _ => ?_
  rw [Dram.read_getElem _ _ _ _ (by simpa [Dram.read] using h), Dram.byte_write_inside]

/-- A read away from a write gives what it gave before. -/
theorem Dram.read_write_outside (d : Dram) (a x n : Nat) (bs : List Byte) (h : x + n ≤ a ∨ a + bs.length ≤ x) :
    (d.write a bs).read x n = d.read x n := by
  refine List.map_congr_left fun k hk => Dram.byte_write_outside _ _ _ _ ?_
  have := List.mem_range.1 hk
  omega

/-! ### The start-up check (R202) -/

@[simp] theorem passOne_length : passOne.length = 512 := by simp [passOne, areaBytes]

@[simp] theorem passTwo_length : passTwo.length = 512 := by simp [passTwo, areaBytes]

/-- The second area lies behind the first. -/
theorem areas_apart (memsize : Bool) : 512 ≤ lastArea memsize := by cases memsize <;> decide

/-- The DRAM with one pattern in both areas. -/
def Dram.filled (d : Dram) (memsize : Bool) (p : List Byte) : Dram := (d.write 0 p).write (lastArea memsize) p

/-- What a pass comes to: a comparison that is to fail in it ends the check with the pass's pattern in both areas; otherwise the
check goes on behind it. -/
theorem Dram.check_pass (d : Dram) (f : Option Nat) (memsize : Bool) (p : List Byte) (rest : List CheckStep)
    (hp : p.length = 512) :
    d.check f (passSteps memsize p ++ rest) =
      if f = some 0 ∨ f = some 1 then (d.filled memsize p, false)
      else (d.filled memsize p).check (f.map (· - 2)) rest := by
  have h0 : (d.filled memsize p).read 0 p.length = p := by
    rw [Dram.filled, Dram.read_write_outside _ _ _ _ _ (.inl (by have := areas_apart memsize; omega)),
      Dram.read_write_inside]
  have h1 : (d.filled memsize p).read (lastArea memsize) p.length = p := by rw [Dram.filled, Dram.read_write_inside]
  unfold Dram.filled at *
  rcases f with _ | _ | _ | n <;> simp [passSteps, Dram.check, h0, h1]

/-- A check whose every comparison comes out equal leaves pass 2's pattern in both areas. -/
theorem Dram.check_equal (d : Dram) (memsize : Bool) :
    d.check none (checkSteps memsize) = ((d.filled memsize passOne).filled memsize passTwo, true) := by
  have := Dram.check_pass (d.filled memsize passOne) none memsize passTwo [] passTwo_length
  rw [List.append_nil] at this
  rw [checkSteps, Dram.check_pass _ _ _ _ _ passOne_length]
  simp [this, Dram.check]

/-- A check that fails leaves in both areas the pattern of the pass in which it fails. -/
theorem Dram.check_unequal (d : Dram) (memsize : Bool) (n : Fin 4) :
    d.check (some n.val) (checkSteps memsize) =
      (if n.val < 2 then d.filled memsize passOne else (d.filled memsize passOne).filled memsize passTwo, false) := by
  have hn := n.isLt
  have := Dram.check_pass (d.filled memsize passOne) (some (n.val - 2)) memsize passTwo [] passTwo_length
  rw [List.append_nil] at this
  rw [checkSteps, Dram.check_pass _ _ _ _ _ passOne_length]
  by_cases h : n.val < 2
  · rw [if_pos (by rw [Option.some.injEq, Option.some.injEq]; omega), if_pos h]
  · rw [if_neg (by rw [Option.some.injEq, Option.some.injEq]; omega), if_neg h, Option.map_some, this,
      if_pos (by rw [Option.some.injEq, Option.some.injEq]; omega)]

/-- A byte of the first area after both are filled. -/
theorem Dram.filled_first (d : Dram) (memsize : Bool) (p : List Byte) (hp : p.length = 512) (k : Nat) (hk : k < 512) :
    (d.filled memsize p).byte k = p[k] := by
  have := areas_apart memsize
  rw [Dram.filled, Dram.byte_write_outside _ _ _ _ (.inl (by omega))]
  have := Dram.byte_write_inside d 0 p k (by omega)
  rwa [Nat.zero_add] at this

/-- A byte of the second area after both are filled. -/
theorem Dram.filled_last (d : Dram) (memsize : Bool) (p : List Byte) (hp : p.length = 512) (k : Nat) (hk : k < 512) :
    (d.filled memsize p).byte (lastArea memsize + k) = p[k] := Dram.byte_write_inside _ _ _ _ (by omega)

/-- A byte outside both areas reads as before. -/
theorem Dram.filled_outside (d : Dram) (memsize : Bool) (p : List Byte) (hp : p.length = 512) (a : Nat) (h0 : 512 ≤ a)
    (h1 : a < lastArea memsize ∨ lastArea memsize + 512 ≤ a) : (d.filled memsize p).byte a = d.byte a := by
  rw [Dram.filled, Dram.byte_write_outside _ _ _ _ (by omega), Dram.byte_write_outside _ _ _ _ (.inr (by omega))]

/-! ### The canonical form -/

theorem rising_mono {a b : Nat} {l : List Host.Cell} (hab : a ≤ b) (h : rising b l = true) : rising a l = true := by
  cases l with
  | nil => rfl
  | cons c l => simp [rising] at h ⊢; exact ⟨by omega, h.2⟩

theorem rising_filter (p : Host.Cell → Bool) {a : Nat} {l : List Host.Cell} (h : rising a l = true) :
    rising a (l.filter p) = true := by
  induction l generalizing a with
  | nil => rfl
  | cons c l ih =>
    simp [rising] at h
    by_cases hp : p c = true
    · simp [List.filter_cons_of_pos hp, rising, h.1, ih h.2]
    · rw [List.filter_cons_of_neg hp]
      exact rising_mono (by omega) (ih h.2)

theorem rising_append {a b : Nat} {l m : List Host.Cell} (hl : rising a l = true) (hb : ∀ c ∈ l, c.1 < b) (hab : a ≤ b)
    (hm : rising b m = true) : rising a (l ++ m) = true := by
  induction l generalizing a with
  | nil => exact rising_mono hab hm
  | cons c l ih =>
    simp [rising] at hl ⊢
    have := hb c (by simp)
    exact ⟨hl.1, ih hl.2 (fun x hx => hb x (by simp [hx])) (by omega)⟩

theorem rising_bound {a : Nat} {l : List Host.Cell} (h : ∀ c ∈ l, a ≤ c.1) (hr : rising 0 l = true) : rising a l = true := by
  cases l with
  | nil => rfl
  | cons c l => simp [rising] at hr ⊢; exact ⟨h c (by simp), hr⟩

theorem rising_cellsFrom (a : Nat) (bs : List Byte) : rising a (cellsFrom a bs) = true := by
  induction bs generalizing a with
  | nil => rfl
  | cons b bs ih => simp [cellsFrom, rising, ih]

/-- A write keeps the canonical form. -/
theorem Dram.write_wf {d : Dram} (h : d.wf = true) (a : Nat) (bs : List Byte) : (d.write a bs).wf = true := by
  unfold Dram.wf Dram.write at *
  refine rising_append (b := a + bs.length) (rising_append (b := a) (rising_filter _ h) ?_ (by omega) (rising_cellsFrom a bs))
    ?_ (by omega) (rising_bound ?_ (rising_filter _ h))
  · simp
  · intro c hc
    rcases List.mem_append.1 hc with hc | hc
    · simp at hc; omega
    · exact (cellsFrom_key hc).2
  · simp

/-- Making bytes undefined keeps the canonical form. -/
theorem Dram.spoil_wf {d : Dram} (h : d.wf = true) (a n : Nat) : (d.spoil a n).wf = true := rising_filter _ h

/-- The loss of all contents leaves the canonical form. -/
theorem Dram.lose_wf (d : Dram) : d.lose.wf = true := rfl

/-- An operation keeps the canonical form. -/
theorem Dram.perform_wf {d : Dram} (h : d.wf = true) (op : MpOp) : (Dram.perform op d).wf = true := by
  unfold Dram.perform; split
  · exact Dram.write_wf h _ _
  · exact h

/-- The start-up check keeps the canonical form, wherever it ends. -/
theorem Dram.check_wf (f : Option Nat) (steps : List CheckStep) {d : Dram} (h : d.wf = true) :
    (d.check f steps).1.wf = true := by
  fun_induction Dram.check f steps d with
  | case1 => exact h
  | case2 _ _ _ _ _ ih => exact ih (Dram.write_wf h _ _)
  | case3 => exact h
  | case4 _ _ _ _ _ _ _ ih => exact ih h
  | case5 => exact h

/-! ### The Memory Port -/

@[simp] theorem MP.setQueue_dram (m : MP) (c : MpClass) (q : List MpOp) : (m.setQueue c q).dram = m.dram := by
  cases c <;> rfl

/-- A grant moves no byte. -/
@[simp] theorem MP.grant_dram (m : MP) : m.grant.dram = m.dram := by
  unfold MP.grant
  split
  · rfl
  · split
    · rfl
    · exact MP.setQueue_dram _ _ _

/-- An issue moves no byte. -/
@[simp] theorem MP.issue_dram (op : MpOp) (m : MP) : (MP.issue op m).dram = m.dram := by simp [MP.issue]

/-- A finished operation leaves the DRAM as the operation makes it. -/
@[simp] theorem MP.finish_dram (op : MpOp) (w : Work MP) : (MP.finish op w).st.dram = Dram.perform op w.st.dram := by
  simp [MP.finish, Work.mod, Work.send]

/-- A write moves no more bytes than it is long. -/
theorem writtenBytes_length (op : MpOp) : (writtenBytes op).length ≤ op.len := by
  rw [writtenBytes, List.length_take]
  exact Nat.min_le_left _ _

/-- An operation changes no byte outside the run that it is long. -/
theorem Dram.perform_outside (op : MpOp) (d : Dram) (a : Nat) (h : a < addressOf op ∨ addressOf op + op.len ≤ a) :
    (Dram.perform op d).byte a = d.byte a := by
  have := writtenBytes_length op
  unfold Dram.perform
  split
  · exact Dram.byte_write_outside _ _ _ _ (by omega)
  · rfl

/-- An operation that lies in the DRAM changes bytes of its own page alone (R194). -/
theorem Dram.perform_page {memsize : Bool} {op : MpOp} (h : reaches memsize op = true) (d : Dram) (a : Nat)
    (ha : (Dram.perform op d).byte a ≠ d.byte a) : a / 2048 = op.page ∧ op.page < Config.pages memsize := by
  have hin := mt (Dram.perform_outside op d a) ha
  simp only [reaches, Bool.and_eq_true, decide_eq_true_eq] at h
  have hb : Config.pageBytes = 2048 := rfl
  rw [addressOf, hb] at hin
  rw [hb] at h
  exact ⟨by omega, h.1⟩

/-- What an operation that is cut off leaves: the DRAM as it was, or a first part of its bytes written inside the DRAM. -/
theorem MP.cut_dram (memsize : Bool) (n : Nat) (m : MP) : (m.cut memsize n).dram = m.dram ∨
    ∃ op, m.busy = some op ∧ writes op.ref = true ∧ reaches memsize op = true ∧
      (m.cut memsize n).dram = m.dram.write (addressOf op) ((writtenBytes op).take n) := by
  unfold MP.cut
  split
  · exact .inl rfl
  · rename_i op hop
    dsimp only
    split
    · rename_i h
      exact .inr ⟨op, hop, by simpa using h⟩
    · exact .inl rfl

/-- An operation cut off keeps the canonical form. -/
theorem MP.cut_wf (memsize : Bool) (n : Nat) {m : MP} (h : m.dram.wf = true) : (m.cut memsize n).dram.wf = true := by
  rcases MP.cut_dram memsize n m with e | ⟨op, -, -, -, e⟩ <;> rw [e]
  · exact h
  · exact Dram.write_wf h _ _

/-- An operation cut off changes no byte outside it. -/
theorem MP.cut_outside (memsize : Bool) (n : Nat) (m : MP) (a : Nat)
    (h : ∀ op, m.busy = some op → writes op.ref = true → reaches memsize op = true →
      a < addressOf op ∨ addressOf op + (writtenBytes op).length ≤ a) :
    (m.cut memsize n).dram.byte a = m.dram.byte a := by
  rcases MP.cut_dram memsize n m with e | ⟨op, hop, hw, hr, e⟩ <;> rw [e]
  refine Dram.byte_write_outside _ _ _ _ ?_
  have := h op hop hw hr
  have : ((writtenBytes op).take n).length ≤ (writtenBytes op).length := by
    rw [List.length_take]
    exact Nat.min_le_right _ _
  omega

/-- Nothing is performed after a cut. -/
theorem MP.cut_busy (memsize : Bool) (n : Nat) (m : MP) : (m.cut memsize n).busy = none := by
  unfold MP.cut; split <;> simp_all

@[simp] theorem MP.cut_calibrated (memsize : Bool) (n : Nat) (m : MP) : (m.cut memsize n).calibrated = m.calibrated := by
  unfold MP.cut; split <;> rfl

end Sys2Proof.Machine
end

