-- ==== Sys2Proof/Laws/Pool.lean ====
section
/-! SUPPORT. The Page Pool: the free list as a list of pages, what a change of the accounting can do, and that every event
keeps the pages partitioned. -/

namespace Sys2Proof.Machine

/-! ### The free list -/

@[simp] theorem freeList_nil : freeList [] = [] := rfl

@[simp] theorem freeList_cons (r : Run) (l : List Run) : freeList (r :: l) = List.range' r.first r.count ++ freeList l := by
  simp [freeList]

/-- The count of a free list is its length. -/
theorem freeCount_eq (l : List Run) : freeCount l = (freeList l).length := by
  induction l with
  | nil => rfl
  | cons r l ih => simp [freeCount, freeList] at ih ⊢

/-- What is taken is the head of the list. -/
theorem takeFree_some {l rest : List Run} {p : Ppn} (h : takeFree l = some (p, rest)) : freeList l = p :: freeList rest := by
  induction l with
  | nil => simp [takeFree] at h
  | cons r l ih =>
    obtain ⟨q, n⟩ := r
    cases n with
    | zero => simp [takeFree] at h; simp [ih h]
    | succ n =>
      simp [takeFree] at h
      obtain ⟨rfl, rfl⟩ := h
      cases n <;> simp [List.range'_succ]

/-- Nothing is taken from an empty list alone. -/
theorem takeFree_none {l : List Run} (h : takeFree l = none) : freeList l = [] := by
  induction l with
  | nil => rfl
  | cons r l ih =>
    obtain ⟨q, n⟩ := r
    cases n with
    | zero => simp [takeFree] at h; simp [ih h]
    | succ n => simp [takeFree] at h

/-- A list that is not empty gives its head. -/
theorem takeFree_of_cons {l : List Run} {p : Ppn} {rest : List Ppn} (h : freeList l = p :: rest) :
    ∃ r, takeFree l = some (p, r) ∧ freeList r = rest := by
  cases ht : takeFree l with
  | none => rw [takeFree_none ht] at h; cases h
  | some x =>
    obtain ⟨q, r⟩ := x
    have := takeFree_some ht
    rw [h] at this
    cases this
    exact ⟨r, rfl, rfl⟩

/-- What is put back stands at the tail. -/
theorem freeList_putFree (p : Ppn) (l : List Run) : freeList (putFree p l) = freeList l ++ [p] := by
  induction l with
  | nil => simp [putFree]
  | cons r l ih =>
    cases l with
    | nil =>
      unfold putFree
      split
      · rename_i h; subst h; simp [List.range'_concat]
      · simp
    | cons r' l => simp only [putFree, freeList_cons] at ih ⊢; rw [ih]; simp

/-! ### Page records -/

/-- A page found has the number looked for. -/
theorem PP.page_ppn {p : PP} {ppn : Ppn} {r : PageRec} (h : p.page ppn = some r) : r.ppn = ppn ∧ r ∈ p.pages := by
  unfold PP.page at h
  exact ⟨by simpa using List.find?_some h, List.mem_of_find?_eq_some h⟩

theorem find_map_ppn {f : PageRec → PageRec} (hf : ∀ r, (f r).ppn = r.ppn) (l : List PageRec) (q : Ppn) :
    (l.map f).find? (fun r => r.ppn == q) = (l.find? fun r => r.ppn == q).map f := by
  induction l with
  | nil => rfl
  | cons r l ih => by_cases h : (r.ppn == q) = true <;> simp_all

/-- Another page's record stays. -/
theorem PP.onPage_ne {p : PP} {ppn q : Ppn} {f : PageRec → PageRec} (hf : ∀ r, (f r).ppn = r.ppn) (h : q ≠ ppn) :
    (p.onPage ppn f).page q = p.page q := by
  unfold PP.page PP.onPage
  dsimp only
  rw [find_map_ppn (f := fun r => if r.ppn = ppn then f r else r) (by intro r; split <;> simp [hf])]
  cases hx : p.pages.find? (fun r => r.ppn == q) with
  | none => rfl
  | some r =>
    have : r.ppn = q := by simpa using List.find?_some hx
    simp [this, h]

/-- The record of the page changed. -/
theorem PP.onPage_self {p : PP} {ppn : Ppn} {r : PageRec} {f : PageRec → PageRec} (hf : ∀ r, r.ppn = ppn → (f r).ppn = ppn)
    (h : p.page ppn = some r) : (p.onPage ppn f).page ppn = some (f r) := by
  unfold PP.page PP.onPage at *
  dsimp only
  rw [find_map_ppn (f := fun r => if r.ppn = ppn then f r else r) (by intro x; split <;> simp_all), h]
  have : r.ppn = ppn := by simpa using List.find?_some h
  simp [this]

/-! ### Changes of the accounting -/

/-- An evaluation changes the pressure alone, and sends pressure events alone. -/
theorem PP.evaluate_frame (w : Work PP) :
    ∃ b ev, PP.evaluate w = ⟨{ w.st with pressure := b }, w.out ++ ev⟩ ∧ PressureEvents ev := by
  unfold PP.evaluate
  dsimp only
  split
  · exact ⟨w.st.pressure, [], by simp, by simp [PressureEvents]⟩
  · split
    · split
      · exact ⟨false, [poolEvent .pressureOff w.st.sharedFree], rfl, by simp [PressureEvents]; exact ⟨_, .inr rfl⟩⟩
      · exact ⟨w.st.pressure, [], by simp, by simp [PressureEvents]⟩
    · split
      · exact ⟨true, [poolEvent .pressureOn w.st.sharedFree], rfl, by simp [PressureEvents]; exact ⟨_, .inl rfl⟩⟩
      · exact ⟨w.st.pressure, [], by simp, by simp [PressureEvents]⟩

/-- What follows a change of the accounting changes the pressure and the lowest shared_free seen, and sends pressure events
alone. -/
theorem PP.settle_frame (n : Nat) (w : Work PP) :
    ∃ b k ev, PP.settle n w =
      ⟨{ w.st with pressure := b, counters := { w.st.counters with lowestShared := k } }, w.out ++ ev⟩ ∧
      PressureEvents ev := by
  unfold PP.settle
  dsimp only
  split
  · exact ⟨w.st.pressure, w.st.counters.lowestShared, [], by simp, by simp [PressureEvents]⟩
  · obtain ⟨b, ev, h, hev⟩ := PP.evaluate_frame
      (w.mod fun p => p.onCounters fun c => { c with lowestShared := min c.lowestShared w.st.sharedFree })
    exact ⟨b, _, ev, h, hev⟩

/-- A change of the accounting does what it says, then settles. -/
theorem PP.account_frame (w : Work PP) (f : PP → PP) :
    ∃ b k ev, PP.account w f =
      ⟨{ f w.st with pressure := b, counters := { (f w.st).counters with lowestShared := k } }, w.out ++ ev⟩ ∧
      PressureEvents ev := PP.settle_frame _ (w.mod f)

/-! ### The accounting of an event -/

/-- The counters play no part in the evaluation of pressure (R38). -/
theorem PP.evaluate_counters (p : PP) (c : PoolCounters) (o : List Instr) :
    PP.evaluate ⟨{ p with counters := c }, o⟩ = (PP.evaluate ⟨p, o⟩).mod fun p => { p with counters := c } := by
  obtain ⟨f, g, q, l, m, b, r, k⟩ := p
  have h : (⟨f, g, q, l, m, b, r, c⟩ : PP).sharedFree = (⟨f, g, q, l, m, b, r, k⟩ : PP).sharedFree := rfl
  unfold PP.evaluate
  dsimp only
  revert h
  generalize (⟨f, g, q, l, m, b, r, k⟩ : PP).sharedFree = v'
  generalize (⟨f, g, q, l, m, b, r, c⟩ : PP).sharedFree = v
  rintro rfl
  cases r <;> cases b
  · rfl
  · rfl
  · by_cases hv : v < l <;> simp [hv, Work.mod, Work.send]
  · by_cases hv : (decide (m ≤ v) || decide (l = 0)) = true
    · simp only [hv, Bool.not_true, Bool.false_eq_true, if_true, if_false]
      rfl
    · simp only [hv, Bool.not_true, Bool.false_eq_true, if_true, if_false]
      rfl

/-- An event that settles the accounting and then answers. -/
theorem State.onPp_accounted {t : State} {f : Work PP → Work PP} {p : PP} {answers : List Instr}
    (h : f (Work.start t.pp) = (PP.settle t.pp.sharedFree ⟨p, []⟩).sendAll answers) :
    t.onPp f = t.accounted p answers := by
  unfold State.onPp State.accounted
  rw [h]
  unfold PP.settle
  dsimp only
  split
  · simp [Work.start, Work.sendAll]
  · rfl

/-- The accounting of an event leaves the page records. -/
theorem State.accounted_pages (t : State) (p : PP) (answers : List Instr) : (t.accounted p answers).pp.pages = p.pages := by
  unfold State.accounted
  dsimp only
  split
  · rfl
  · obtain ⟨b, ev, h, _⟩ := PP.evaluate_frame (Work.start { p with counters :=
      { p.counters with lowestShared := min p.counters.lowestShared p.sharedFree } })
    rw [h]
    rfl

/-! ### The table of R28 -/

theorem sum_set (l : List Nat) (i x : Nat) (h : i < l.length) : (l.set i x).sum + l[i] = l.sum + x := by
  induction l generalizing i with
  | nil => simp at h
  | cons a l ih =>
    cases i with
    | zero => simp; omega
    | succ i =>
      have := ih i (by simpa using h)
      simp
      omega

/-- U after a change of one quota record (R28). -/
theorem PP.unused_onQuota (p : PP) (s : StreamId) (f : Quota → Quota) :
    (p.onQuota s f).unused + p.quotas[s].unused = p.unused + (f p.quotas[s]).unused := by
  have h := sum_set (p.quotas.toList.map Quota.unused) s.val (f p.quotas[s]).unused (by simp)
  unfold PP.unused PP.onQuota upd
  simpa [Vector.toList_set, List.map_set] using h

/-- shared_free, from the length of the free list (R28). -/
theorem PP.sharedFree_eq (p : PP) : p.sharedFree = (freeList p.free).length - p.unused := by
  unfold PP.sharedFree
  rw [freeCount_eq]

/-- What a change of the accounting leaves of the free list, of U and of shared_free is what the change says. -/
theorem PP.account_accounting (w : Work PP) (f : PP → PP) :
    (PP.account w f).st.free = (f w.st).free ∧ (PP.account w f).st.quotas = (f w.st).quotas ∧
      (PP.account w f).st.unused = (f w.st).unused ∧ (PP.account w f).st.sharedFree = (f w.st).sharedFree := by
  obtain ⟨b, k, ev, h, -⟩ := PP.account_frame w f
  rw [h]
  exact ⟨rfl, rfl, rfl, rfl⟩

/-- Everything an allocation request can do: a refusal, or the grant of the page at the head of the free list (R32). -/
theorem PP.allocate_cases (s : StreamId) (w : Work PP) :
    (∃ c, PP.allocate s w = PP.refuseAllocation s c w) ∨
      ∃ ppn rest, takeFree w.st.free = some (ppn, rest) ∧ w.st.quotas[s].held < w.st.quotas[s].ceiling ∧
        (w.st.quotas[s].reservation ≤ w.st.quotas[s].held → w.st.sharedFree ≠ 0) ∧
        PP.allocate s w = ((PP.account w fun p =>
            { (p.onQuota s fun q => { q with held := q.held + 1 }) with
              free := rest, pages := ⟨ppn, false, s, 0, false⟩ :: p.pages }).mod fun p =>
            p.onCounters fun k => { k with allocations := count k.allocations 1 }).send (.allocationGrant s ppn) := by
  unfold PP.allocate
  dsimp only
  split
  · exact .inl ⟨_, rfl⟩
  · rename_i h1
    split
    · exact .inl ⟨_, rfl⟩
    · rename_i h2
      split
      · exact .inl ⟨_, rfl⟩
      · rename_i ppn rest h3
        exact .inr ⟨ppn, rest, h3, Nat.not_le.1 h1, fun a b => h2 (by simp only [a, b, decide_true]; rfl), rfl⟩

end Sys2Proof.Machine
end

