-- ==== Sys2Proof/Laws/Port.lean ====
section
/-! SUPPORT. The Port Engine: everything an answer for a slot does, and that the teardown leaves no slot HELD. -/

namespace Sys2Proof.Machine

/-- A counted refusal, as the counters come out of it (R161). -/
theorem PE.countRefused_eq (k : SlotId) (a : Answer) (e : PE) :
    e.countRefused a = { e with counters := (answeredFrom e k a).counters } := by
  unfold PE.countRefused
  split <;> simp [answeredFrom, PE.onCounters, count, satAdd, maxCount, *]

/-- An answer for a slot, case by case (R188). -/
theorem PE.answered_eq (p : Port) (k : SlotId) (a : Answer) (e : PE) : e.answered p k a = afterAnswer p k a e := by
  have hs : ∀ o : Option SessId, (o.all fun x => decide (x.port = p) && e.has x) = true ↔
      (o = none ∨ (o = some ⟨p, e.sess.number⟩ ∧ e.sess.isOpen = true)) := by
    intro o
    cases o with
    | none => simp
    | some x =>
      obtain ⟨q, n⟩ := x
      simp only [Option.all_some, PE.has, Bool.and_eq_true, decide_eq_true_eq, reduceCtorEq, false_or, Option.some.injEq,
        SessId.mk.injEq]
      constructor
      · rintro ⟨rfl, h, rfl⟩
        exact ⟨⟨rfl, rfl⟩, h⟩
      · rintro ⟨⟨rfl, rfl⟩, h⟩
        exact ⟨rfl, h, rfl⟩
  unfold PE.answered afterAnswer
  rw [PE.countRefused_eq k a e]
  dsimp only
  by_cases h : e.slots[k].state = .held
  · simp only [h, ne_eq, not_true_eq_false, if_false]
    have hv : PE.serves p { e with counters := (answeredFrom e k a).counters } e.slots[k] = true ↔
        (e.slots[k].isVoid = false ∧
          (e.slots[k].owner = none ∨ (e.slots[k].owner = some ⟨p, e.sess.number⟩ ∧ e.sess.isOpen = true))) := by
      unfold PE.serves
      rw [Bool.and_eq_true]
      exact and_congr (by simp [-Fin.getElem_fin]) (hs _)
    by_cases c : PE.serves p { e with counters := (answeredFrom e k a).counters } e.slots[k] = true
    · rw [if_pos c, if_pos (hv.1 c)]
      rfl
    · rw [if_neg c, if_neg (fun x => c (hv.2 x))]
      rfl
  · simp only [h, ne_eq, not_false_eq_true, if_true]

/-- An answer leaves the session record. -/
@[simp] theorem PE.answered_sess (p : Port) (k : SlotId) (a : Answer) (e : PE) : (e.answered p k a).sess = e.sess := by
  rw [PE.answered_eq]
  unfold afterAnswer
  split
  · rfl
  · split <;> rfl

/-- An answer leaves the link side's other fields that the teardown reads. -/
theorem PE.answered_dev (p : Port) (k : SlotId) (a : Answer) (e : PE) :
    (e.answered p k a).dev = e.dev ∧ (e.answered p k a).settled = e.settled := by
  rw [PE.answered_eq]
  unfold afterAnswer
  split
  · exact ⟨rfl, rfl⟩
  · split <;> exact ⟨rfl, rfl⟩

/-- A slot that is answered is HELD no longer. -/
theorem PE.answered_slot (p : Port) (k : SlotId) (a : Answer) (e : PE) : (e.answered p k a).slots[k].state ≠ .held := by
  rw [PE.answered_eq]
  unfold afterAnswer
  split
  · assumption
  · split <;> simp [answeredFrom]

/-- An answer leaves the other slots. -/
theorem PE.answered_slot_ne (p : Port) {k j : SlotId} (a : Answer) (e : PE) (h : j ≠ k) :
    (e.answered p k a).slots[j] = e.slots[j] := by
  rw [PE.answered_eq]
  unfold afterAnswer
  split
  · rfl
  · split
    · exact set_ne _ _ h
    · exact set_ne _ _ h

/-- What the model answers a HELD slot with in RESTARTING is what the spec's table gives. -/
theorem restartAnswer_eq (p : Port) (x : Slot) : restartAnswer p x = restartingAnswer x := by
  unfold restartAnswer restartingAnswer
  by_cases h : x.kind = 0x01
  · rw [h]
    rfl
  · rw [if_neg h]
    have h1 : x.kind.toNat ≠ 1 := fun e => h (BitVec.eq_of_toNat_eq (by simpa using e))
    unfold gateOf
    generalize x.kind.toNat = n at h1 ⊢
    split
    · rename_i heq
      split at heq <;> simp_all
    · rename_i heq
      split at heq <;> simp_all [refusal]
    all_goals
      rename_i heq
      split at heq <;> simp_all [refusal]

/-- The teardown's answers, as the spec's cases. -/
theorem PE.teardown_answers (p : Port) (own : List (SlotId × Answer)) (e : PE) :
    PE.answerHeld p (PE.answerClaim p (PE.takeOwn p own e)) = restartAnswered p own e := by
  have h1 : ∀ e, PE.takeOwn p own e = own.foldl (fun e a => afterAnswer p a.1 a.2 e) e := by
    intro e
    unfold PE.takeOwn
    simp only [PE.answered_eq]
  have h2 : ∀ e, PE.answerClaim p e = (match e.sess.claim with
      | some c => afterAnswer p c.slot ⟨.starting, 0, .hello 0 .client .restarting 0⟩ e
      | none => e) := by
    intro e
    unfold PE.answerClaim
    split <;> simp_all [PE.answered_eq, helloRefusal, helloNone]
  unfold PE.answerHeld restartAnswered
  simp only [PE.answered_eq, restartAnswer_eq, h1, h2] <;> rfl

/-- The teardown's answers leave the session record and the report of being settled. -/
theorem restartAnswered_keeps (p : Port) (own : List (SlotId × Answer)) (e : PE) :
    (restartAnswered p own e).sess = e.sess ∧ (restartAnswered p own e).dev = e.dev ∧
      (restartAnswered p own e).settled = e.settled := by
  have one : ∀ k a e, (PE.answered p k a e).sess = e.sess ∧ (PE.answered p k a e).dev = e.dev ∧
      (PE.answered p k a e).settled = e.settled :=
    fun k a e => ⟨PE.answered_sess p k a e, PE.answered_dev p k a e⟩
  have many : ∀ {α : Type} (f : PE → α → PE), (∀ e a, (f e a).sess = e.sess ∧ (f e a).dev = e.dev ∧
      (f e a).settled = e.settled) → ∀ (l : List α) e, (l.foldl f e).sess = e.sess ∧ (l.foldl f e).dev = e.dev ∧
        (l.foldl f e).settled = e.settled := by
    intro α f hf l
    induction l with
    | nil => exact fun e => ⟨rfl, rfl, rfl⟩
    | cons a l ih =>
      intro e
      obtain ⟨i1, i2, i3⟩ := ih (f e a)
      obtain ⟨j1, j2, j3⟩ := hf e a
      exact ⟨i1.trans j1, i2.trans j2, i3.trans j3⟩
  rw [← PE.teardown_answers]
  obtain ⟨a1, a2, a3⟩ := many (fun (e : PE) (a : SlotId × Answer) => e.answered p a.1 a.2) (fun e a => one _ _ e) own e
  have b : (PE.answerClaim p (PE.takeOwn p own e)).sess = (PE.takeOwn p own e).sess ∧
      (PE.answerClaim p (PE.takeOwn p own e)).dev = (PE.takeOwn p own e).dev ∧
      (PE.answerClaim p (PE.takeOwn p own e)).settled = (PE.takeOwn p own e).settled := by
    unfold PE.answerClaim
    split
    · exact one _ _ _
    · exact ⟨rfl, rfl, rfl⟩
  obtain ⟨c1, c2, c3⟩ := many (fun (e : PE) (i : SlotId) =>
      if e.slots[i].state = .held then e.answered p i (restartAnswer p e.slots[i]) else e)
    (fun e i => by
      split
      · exact one _ _ e
      · exact ⟨rfl, rfl, rfl⟩) (List.finRange 8)
    (PE.answerClaim p (PE.takeOwn p own e))
  exact ⟨c1.trans (b.1.trans a1), c2.trans (b.2.1.trans a2), c3.trans (b.2.2.trans a3)⟩

/-- No slot stays HELD at the teardown (R193). -/
theorem restartAnswered_held (p : Port) (own : List (SlotId × Answer)) (e : PE) (k : SlotId) :
    (restartAnswered p own e).slots[k].state ≠ .held := by
  have fold : ∀ (l : List SlotId) (e : PE), (k ∈ l ∨ e.slots[k].state ≠ .held) → (l.foldl (fun e i =>
      if e.slots[i].state = .held then e.answered p i (restartAnswer p e.slots[i]) else e) e).slots[k].state ≠ .held := by
    intro l
    induction l with
    | nil => exact fun e h => h.elim (by simp) id
    | cons i l ih =>
      intro e h
      refine ih _ ?_
      by_cases hi : k = i
      · subst hi
        right
        dsimp only
        split
        · exact PE.answered_slot p k _ e
        · assumption
      · rcases h with h | h
        · exact .inl ((List.mem_cons.1 h).resolve_left hi)
        · right
          dsimp only
          split
          · rw [PE.answered_slot_ne p _ e hi]
            exact h
          · exact h
  rw [← PE.teardown_answers]
  exact fold _ _ (.inl (List.mem_finRange k))

end Sys2Proof.Machine
end

