-- ==== Sys2Proof/Laws/Release.lean ====
section
/-! SUPPORT. The Retention Unit: what its tests say, and what it does once a stream's work has ended. -/

namespace Sys2Proof.Machine

/-- An event at RU touches RU and the messages on their way. -/
theorem State.onRu_only (t : State) (f : Work RU → Work RU) : OnlyRu t (t.onRu f) := by
  simp [OnlyRu, State.onRu, State.post]

/-- What follows the end of a stream's work rests on the two wishes of its record alone. -/
theorem nextOfRelease_congr (i : StreamId) {r r' : Release} (again : Bool) (ht : r.teardown = r'.teardown)
    (hw : r.recycleWanted = r'.recycleWanted) : nextOfRelease i r again = nextOfRelease i r' again := by
  simp [nextOfRelease, ht, hw]

/-- An answer of an evaluation leaves the record's phase and wishes. -/
theorem Release.take_keeps (part : EvalPart) (r : Release) :
    (Release.take part r).teardown = r.teardown ∧ (Release.take part r).recycleWanted = r.recycleWanted ∧
      (Release.take part r).reevaluate = r.reevaluate ∧ (Release.take part r).phase = r.phase := by
  cases part <;> exact ⟨rfl, rfl, rfl, rfl⟩

/-- The conditions that both decisions share (R136, R137). -/
theorem mayGo_iff (v : ViewInfo) (p : HeadPage) : mayGo v p = true ↔ MayBeReleased v p := by
  simp [mayGo, closedForRelease, MayBeReleased, and_assoc, or_assoc]

/-- The NORMAL decision (R136). -/
theorem normalTest_iff (v : ViewInfo) (p : HeadPage) (f : Option Seq) :
    normalTest v p f = true ↔ MayBeReleased v p ∧ p.record.lastSeq < normalBound v f := by
  simp [normalTest, mayGo_iff, normalBound]

/-- The AGE decision (R137). -/
theorem ageTest_iff (c : Clock) (v : ViewInfo) (p : HeadPage) :
    ageTest c v p = true ↔ MayBeReleased v p ∧ PastItsAge c v p := by
  simp only [ageTest, expired, PastItsAge, Bool.and_eq_true, mayGo_iff, decide_eq_true_eq]
  constructor
  · rintro ⟨⟨a, b⟩, c, d⟩
    exact ⟨b, by simpa using a, c, d⟩
  · rintro ⟨b, a, c, d⟩
    exact ⟨⟨by simpa using a, b⟩, c, d⟩

/-- Everything that the choice of a stream's next work does (R143). -/
theorem RU.choose_spec (i : StreamId) (ended deleting : Bool) (w : Work RU) {next : List Instr}
    (h : next = nextOfRelease i w.st.recs[i] (!deleting && (ended || w.st.recs[i].reevaluate))) :
    (RU.choose i ended deleting w).out = w.out ++ next ∧
      (∀ x, x ≠ i → (RU.choose i ended deleting w).st.recs[x] = w.st.recs[x]) ∧
      (RU.choose i ended deleting w).st.recs[i].kind = none ∧
      (RU.choose i ended deleting w).st.recs[i].page = none ∧
      (RU.choose i ended deleting w).st.recs[i].teardown = w.st.recs[i].teardown ∧
      (RU.choose i ended deleting w).st.recs[i].phase = if next = [] then .idle else .evaluating := by
  subst h
  unfold RU.choose nextOfRelease
  simp only []
  split
  · refine ⟨?_, fun x hx => ?_, ?_⟩ <;>
      simp [-Fin.getElem_fin, RU.teardown, RU.change, RU.on, Release.asking, upd_ne, *]
  split
  · refine ⟨?_, fun x hx => ?_, ?_⟩ <;>
      simp [-Fin.getElem_fin, RU.recycle, RU.change, RU.on, Release.asking, upd_ne, *]
  split
  · refine ⟨?_, fun x hx => ?_, ?_⟩ <;>
      simp [-Fin.getElem_fin, RU.rest, RU.change, RU.on, Release.asking, upd_ne, *]
  split
  · refine ⟨?_, fun x hx => ?_, ?_⟩ <;>
      simp_all [-Fin.getElem_fin, RU.evaluate, RU.change, RU.on, Release.asking, upd_ne]
  · refine ⟨?_, fun x hx => ?_, ?_⟩ <;>
      simp_all [-Fin.getElem_fin, RU.rest, RU.change, RU.on, Release.asking, upd_ne]

end Sys2Proof.Machine
end

