-- ==== Sys2Proof/Tests/Slice0.lean ====
section
/-! SUPPORT. Tests: ill-formed operands, single steps, and for each statement with hypotheses a state and operands that meet
them together. -/

namespace Sys2Proof.Tests

open Sys2Proof Sys2Proof.Machine

/-! ### Small states -/

/-- The state after reset with stream 0's descriptor changed. -/
def sdWith (f : Descriptor → Descriptor) : State := { State.reset with sd := State.reset.sd.onStream 0 f }

/-- The state after reset with stream 0's descriptor and the work on it changed. -/
def sdBoth (f : Descriptor → Descriptor) (g : StreamWork → StreamWork) : State :=
  { State.reset with sd := (State.reset.sd.onStream 0 f).onWork 0 g }

/-- Stream 0 in a state. -/
def streamIn (st : StreamState) : State := sdWith fun d => { d with state := st, tailRec := some ⟨300, 5, 9, 0, false⟩ }

/-- Session 1 of P0. -/
def sess0 : SessId := ⟨0, 1⟩

/-- The request in slot 0 of P0. -/
def req0 : Req := ⟨sess0, 0⟩

/-- Port 0 as given, all else after reset. -/
def peWith (f : PE → PE) : State := { State.reset with pe := upd State.reset.pe 0 f }

/-- An open session on P0, READY. -/
def openPe (e : PE) : PE :=
  { e with
    link := true, dev := .ready
    sess := ⟨true, .none, .admin, 100, some 200, ⟨true, true, true⟩, 1, none⟩ }

/-- A request with this body in slot 0 of P0, whose session is open; the line is taken, so that nothing leaves it. -/
def asked (kind : Byte) (body : List Byte) : State :=
  peWith fun e => { openPe e with slots := e.slots.set 0 ⟨.held, 7, kind, body, some sess0, false⟩ }

/-- A request beside another state's SD. -/
def askedSd (body : List Byte) (s : State) : State := { s with pe := (asked 0x20 body).pe }

/-- PP with the pages from 256 to 259. -/
def poolOf (f : PP → PP) : State := { State.reset with pp := f { PP.init with free := [⟨256, 4⟩] } }

/-- A record of page 256 of stream 0. -/
def page256 (releasing : Bool) (holds : Nat) (recycle : Bool) : PageRec := ⟨256, releasing, 0, holds, recycle⟩

/-- PP with page 256 recorded. -/
def poolWith (r : PageRec) : State := poolOf fun p => { p with free := [⟨257, 3⟩], pages := [r] }

/-- MU changed. -/
def muWith (f : MU → MU) : State := { State.reset with mu := f MU.init }

/-- An APPEND of stream 0. -/
def job (st : JobState) : Job :=
  { req := req0, stream := 0, size := 24, admitted := st ≠ .waiting, state := st, recycled := false, marked := false
    seq := 5, stamp := 0, page := 300, offset := 0 }

/-- AE with one APPEND. -/
def aeWith (st : JobState) : State := { State.reset with ae := { AE.init with queue := [job st] } }

/-- RU with stream 0's record changed. -/
def ruWith (f : Release → Release) : State := { State.reset with ru := RU.init.on 0 f }

/-- A bound cursor of session 1 of P0 on stream 0. -/
def bound (st : CursorState) : Cursor :=
  { freeCursor with state := st, stream := some 0, owner := some sess0, ackSeq := 4, nextSeq := 7, deliveredTop := 6 }

/-- DE with cursor 0 as given, its request in slot 0. -/
def deWith (body : List Byte) (f : Cursor → Cursor) : State :=
  { asked 0x28 body with de := { DE.init with cursors := upd DE.init.cursors 0 f } }

/-- DE with an ACTIVE cursor 0 and buffer 0 of P0 at work for it. -/
def deBuffer (f : Buffer → Buffer) : State :=
  { deWith [] fun _ => bound .active with
    de := { DE.init with
      cursors := upd DE.init.cursors 0 fun _ => bound .active
      buffers := DE.init.buffers.set 0 #v[f { idleBuffer with owner := some sess0, seq := 7 }, idleBuffer] } }

/-- NU with session 1 of P0 open. -/
def nuWith (f : NuPort → NuPort) : State :=
  { State.reset with nu := ⟨upd NU.init.ports 0 fun _ => f ⟨true, 1, ⟨true, true, true⟩, [], 0, false⟩⟩ }

/-- The device in a state. -/
def devIn (d : DevState) : State := { State.reset with dev := { State.reset.dev with state := d } }

/-- A notice. -/
def note (k : NoticeKind) : Notice := ⟨k, 0, some 0, some 3, some 20, 0⟩

/-- MP with an operation being performed. -/
def mpBusy (op : MpOp) : State := { State.reset with mp := { MP.init with busy := some op } }

/-- A walk read of page 0. -/
def walk : MpOp := ⟨.walkRead 0, 0, 0, 16, []⟩

/-- An entry write of 24 bytes. -/
def entry : MpOp := ⟨.entryWrite, 300, 0, 24, List.replicate 24 0x5A⟩

/-! ### Ill-formed commands -/

theorem test_illformed_detail : wellFormed (.answerArrival 0 0 ⟨.malformed, 256, .empty⟩) = false := by decide
theorem test_illformed_held : wellFormed (.heldAnswerAtSd req0 0 1025) = false := by decide
theorem test_illformed_ppn : wellFormed (.pageOpen 0 65536) = false := by decide
theorem test_illformed_commit_low : wellFormed (.commit 0 0 0) = false := by decide
theorem test_illformed_commit_high : wellFormed (.commit 0 4294967295 0) = false := by decide
theorem test_illformed_mark : wellFormed (.releaseMarkSet 0 0) = false := by decide
theorem test_illformed_claim : wellFormed (.createClaim 0 11 10) = false := by decide
theorem test_illformed_ceiling : wellFormed (.deleteClaim 0 0) = false := by decide
theorem test_illformed_record : wellFormed (.mapWrite 0 0 ⟨300, 1, 2, 0, false⟩) = false := by decide
theorem test_illformed_lpn : wellFormed (.slotClear 0 4294967296) = false := by decide
theorem test_illformed_range : wellFormed (.rangeAnswer 0 (.headRead .evaluation) ⟨.opened, some 0, none, none⟩) = false := by
  decide
theorem test_illformed_walk : wellFormed (.walkDone 0 []) = false := by decide
theorem test_illformed_payload : wellFormed (.payloadReadDone ⟨0, 0⟩ (List.replicate 9 0)) = false := by decide
theorem test_illformed_search : wellFormed (.lookupBySequence 0 0 (.positioning 0)) = false := by decide
theorem test_illformed_place : wellFormed (.placeAnswer 0 ⟨.opened, .none, 4294967296, none, none⟩) = false := by decide
theorem test_illformed_refusal : wellFormed (.refusalAnswer 0 ⟨.opened, .hold, none, some 0⟩) = false := by decide
theorem test_illformed_grant : wellFormed (.bindAnswer 0 (.granted 0 0)) = false := by decide
theorem test_illformed_map_answer : wellFormed (.lookupAnswer ⟨0, 0⟩ (.found 0 ⟨65536, 1, 2, 0, true⟩)) = false := by decide
theorem test_illformed_report : wellFormed (.commitReport 0 4294967296) = false := by decide
theorem test_illformed_tries : wellFormed (.ackDeadlineExpiry 0 1 17) = false := by decide
theorem test_illformed_gap : wellFormed (.returnedCursorGap 0 4294967296 sess0) = false := by decide
theorem test_illformed_view : wellFormed (.evaluationAnswer 0 (.view ⟨.opened, false, 1025, 0, 0⟩)) = false := by decide
theorem test_illformed_head :
    wellFormed (.recycleHeadAnswer 0 ⟨.opened, some ⟨2, 1, ⟨300, 1, 2, 0, true⟩⟩⟩) = false := by decide
theorem test_illformed_scan : wellFormed (.scanAnswer [3, 3]) = false := by decide
theorem test_illformed_event : wellFormed (.noticeEvent ⟨.cursorGap, none, some 0, some 1, some sess0⟩) = false := by decide
theorem test_illformed_lost :
    wellFormed (.noticeSentReport sess0 ⟨.restart, 0, none, none, none, 65536⟩ true) = false := by decide
theorem test_illformed_write : wellFormed (.mpOperationIssue ⟨.padWrite, 300, 2032, 16, [1]⟩) = false := by decide
theorem test_illformed_operation : wellFormed (.mpOperationIssue ⟨.padWrite, 300, 2040, 16, padBytes 16⟩) = false := by decide

/-! ### Single steps -/

/-- From reset, calibration that succeeds leads to the memory check. -/
theorem test_calibration : exec (.calibrationDone true) State.reset =
    .next { State.reset with
      dev := { State.reset.dev with state := .checking }, mp := { MP.init with calibrated := true } } := rfl

/-- A lock report makes the link of its port UP. -/
theorem test_lock : exec (.linkLock 2) State.reset =
    .next { State.reset with pe := State.reset.pe.set 2 { PE.init 2 with link := true } } := rfl

/-- The free list has 65,280 pages with MEMSIZE 1. -/
theorem test_build : (PP.init).free = [] ∧ State.reset.poolSize = 65280 := ⟨rfl, rfl⟩

/-- The CRC-16 of the nine bytes 31h to 39h is 29B1h. -/
theorem test_crc : crc16 [0x31, 0x32, 0x33, 0x34, 0x35, 0x36, 0x37, 0x38, 0x39] = 0x29B1#16 := by decide +kernel

set_option maxRecDepth 4096 in
/-- A frame of the transmitter is taken by a framer as it was built. -/
theorem test_frame : (Framer.init.run (frameBytes 0x03 21 [1, 2, 3])).2 = (some (.good 0x03 21 [1, 2, 3]), []) := by
  rfl

/-- The body of chapter 12's example: presence 06h, reservation 40, ceiling 20, the name line-a. -/
theorem test_create_example : createBody ([0x06, 0, 0, 40, 0, 20, 0, 0, 0, 0, 0, 0, 6] ++
    [0x6C, 0x69, 0x6E, 0x65, 0x2D, 0x61]) =
    .ok ⟨⟨none, some 40, some 20, none, none⟩, [0x6C, 0x69, 0x6E, 0x65, 0x2D, 0x61]⟩ := rfl

/-- The reservation of the example fails its check as field 3. -/
theorem test_create_example_refused :
    checkQuota 2 defaultValues ⟨none, some 40, some 20, none, none⟩ = .error 3 := rfl

/-- A byte written is read back, and its neighbour is not changed. -/
theorem test_dram : ((⟨[], 0⟩ : Dram).write 10 [7, 8]).byte 11 = 8 ∧ ((⟨[], 0⟩ : Dram).write 10 [7, 8]).wf = true :=
  ⟨rfl, rfl⟩

/-- With no command and no message, a microsecond passes. -/
theorem test_idle : (step State.reset) = .next { State.reset with tb := ⟨1, 0, 1⟩ } := rfl

/-- Chapter 8's example, event 4: with 16 queued, a copy is lost and counted. -/
theorem test_lost : queueCopy (note .streamSealed) ⟨true, 1, ⟨true, true, true⟩, List.replicate 16 (note .streamFull), 1, false⟩ =
    ⟨true, 1, ⟨true, true, true⟩, List.replicate 16 (note .streamFull), 2, false⟩ := rfl

/-- Chapter 10's example of the shared line: after cursor 9, cursor 12 comes before cursor 3. -/
theorem test_turn : turn 9 12 < turn 9 3 ∧ turn 12 3 < 64 := by decide

/-! ### The hypotheses of the statements are met -/

/-- StepWithoutACommand: with a message on its way, and without. -/
theorem witness_StepWithoutACommand :
    (State.reset.post .dev [.buildComplete]).pending = [] ∧
      (State.reset.post .dev [.buildComplete]).wires = [⟨.dev, .buildComplete⟩] ∧
      State.reset.pending = [] ∧ State.reset.wires = [] := ⟨rfl, rfl, rfl, rfl⟩

theorem witness_HeldAndDiscardedCommands :
    (({ State.reset with dev := { State.reset.dev with low := true } } : State).dev.low = true ∧
      Instr.buildComplete ≠ .resetNLow ∧ ∀ m, Instr.buildComplete ≠ .resetNRelease m) ∧
    (dstOf .freeListBuild = .core .pp ∧ (∀ x, Instr.freeListBuild ≠ .abandonOrder x) ∧
      (∀ r, Instr.freeListBuild ≠ .clockSet r) ∧ CoreBlock.pp ∈ ({ State.reset with abandoned := [.pp] } : State).abandoned ∧
      ({ State.reset with abandoned := [.pp] } : State).receive .freeListBuild =
        some { State.reset with abandoned := [.pp] }) :=
  ⟨⟨rfl, by simp, by simp⟩, rfl, by simp, by simp, by simp, rfl⟩

/-- MessagesArriveInTheOrderSent: one message kept back by an older one, and one not. -/
theorem witness_MessagesArriveInTheOrderSent :
    ((State.reset.post .dev [.freeListBuild, .readyReportAtPp]).wires =
        [⟨.dev, .freeListBuild⟩] ++ ⟨.dev, .readyReportAtPp⟩ :: [] ∧
      dstOf .freeListBuild = dstOf .readyReportAtPp) ∧
    ((State.reset.post .dev [.freeListBuild, .readyReportAtRu]).wires =
        [⟨.dev, .freeListBuild⟩] ++ ⟨.dev, .readyReportAtRu⟩ :: [] ∧
      dstOf .freeListBuild ≠ dstOf .readyReportAtRu) := ⟨⟨rfl, rfl⟩, rfl, by decide⟩

theorem witness_ResetPinResults :
    (State.hold (mpBusy entry)).dev.low = true ∧ (mpBusy entry).mp.busy = some entry ∧ writes entry.ref = true :=
  ⟨rfl, rfl, rfl⟩

theorem witness_StartUpResults :
    (Takes (.calibrationDone true) (devIn .calibrating) (devIn .calibrating) ∧
      Takes (.calibrationDone false) (devIn .calibrating) (devIn .calibrating) ∧
      (devIn .calibrating).dev.state = .calibrating) ∧
    (Takes (.memoryCheckDone true) (devIn .checking) (devIn .checking) ∧
      Takes (.memoryCheckDone false) (devIn .checking) (devIn .checking) ∧ (devIn .checking).dev.state = .checking) ∧
    (Takes .freeListBuild State.reset State.reset ∧ Takes .readyReportAtRu State.reset State.reset ∧
      Takes .readyReportAtPp State.reset State.reset) ∧
    (Takes .buildComplete (devIn .building) (devIn .building) ∧ (devIn .building).dev.state = .building) :=
  ⟨⟨takes_quiet rfl rfl rfl, takes_quiet rfl rfl rfl, rfl⟩, ⟨takes_quiet rfl rfl rfl, takes_quiet rfl rfl rfl, rfl⟩,
   ⟨takes_quiet rfl rfl rfl, takes_quiet rfl rfl rfl, takes_quiet rfl rfl rfl⟩, takes_quiet rfl rfl rfl, rfl⟩

/-- The request of `asked` with the device RESTARTING, its slot taken again by a HELLO. -/
def retaken : State := { asked 0x01 [0, 0, 100, 7] with dev := (devIn .restarting).dev }

/-- A DEVICE_RESTART in RESTARTING whose slot holds another request by then is discarded (R205). -/
theorem test_restart_discarded : exec (.deviceRestart req0) retaken = .next retaken := rfl

theorem witness_RestartOrderResults :
    (Takes (.deviceRestart req0) (devIn .ready) (devIn .ready) ∧ (devIn .ready).body req0 = [] ∧
      (devIn .ready).dev.state = .ready) ∧
    (Takes (.deviceRestart req0) (devIn .restarting) (devIn .restarting) ∧ (devIn .restarting).body req0 = [] ∧
      (devIn .restarting).dev.state ≠ .ready) ∧
    (Takes (.deviceRestart req0) retaken retaken ∧ retaken.dev.state = .restarting) ∧
    (Takes (.deviceRestart req0) (asked 0x18 [1]) (asked 0x18 [1]) ∧ (asked 0x18 [1]).body req0 ≠ [] ∧
      (asked 0x18 [1]).dev.state ≠ .restarting) ∧
    (Takes (.abandonOrder .mp) (devIn .restarting) (devIn .restarting) ∧ (devIn .restarting).dev.state = .restarting) :=
  ⟨⟨takes_quiet rfl rfl rfl, rfl, rfl⟩, ⟨takes_quiet rfl rfl rfl, rfl, by decide⟩,
   ⟨takes_quiet rfl rfl rfl, rfl⟩, ⟨takes_quiet rfl rfl rfl, by decide, by decide⟩, takes_quiet rfl rfl rfl, rfl⟩

/-- A device in RESTARTING that has all reports but NU's, and nothing on its way: NU holds its reset values. -/
def almostDone : State :=
  { devIn .restarting with
    dev := { (devIn .restarting).dev with settled := Vector.replicate 4 true, abandonDone := [.sd, .pp, .mu, .ae, .de, .ru, .tb] } }

theorem witness_TeardownReportResults :
    (Takes (.abandonDoneReport .sd) (devIn .restarting) (devIn .restarting) ∧
      Takes (.portSettledReport 0) (devIn .restarting) (devIn .restarting) ∧
      Takes .nuResetReport (devIn .restarting) (devIn .restarting) ∧
      ({ devIn .restarting with dev := { (devIn .restarting).dev with nuReset := true } } : State).teardownDone = false) ∧
    (Takes (.abandonDoneReport .mp) almostDone almostDone ∧ almostDone.dev.state = .restarting ∧
      ({ almostDone with dev := { almostDone.dev with abandonDone := .mp :: almostDone.dev.abandonDone.erase .mp } } :
        State).teardownDone = true) :=
  ⟨⟨takes_quiet rfl rfl rfl, takes_quiet rfl rfl rfl, takes_quiet rfl rfl rfl, by decide⟩, takes_quiet rfl rfl rfl, rfl,
   by decide⟩

/-! #### The Stream Directory -/

/-- A STREAM_CREATE body with every field absent and the name 61h. -/
def createBytes : List Byte := [0, 0, 0, 0, 0, 0, 0, 0, 0, 0, 0, 0, 1, 0x61]

/-- A STREAM_TUNE body of stream 0 with every field absent. -/
def tuneBytes : List Byte := List.replicate 13 0

theorem witness_StreamCreateAndTuneResults :
    (Takes (.streamCreate req0) (asked 0x10 createBytes) (asked 0x10 createBytes) ∧
      createBody ((asked 0x10 createBytes).body req0) = .ok ⟨⟨none, none, none, none, none⟩, [0x61]⟩ ∧
      nameValid [0x61] = true ∧ checkQuota 2 defaultValues ⟨none, none, none, none, none⟩ = .ok defaultValues ∧
      (asked 0x10 createBytes).sd.byName [0x61] = none ∧ (asked 0x10 createBytes).sd.setAside [0x61] = false ∧
      (asked 0x10 createBytes).sd.streams[(0 : StreamId)].state = .absent ∧
      (asked 0x10 createBytes).sd.works[(0 : StreamId)].create = none) ∧
    ((askedSd createBytes (sdWith fun d => { d with state := .opened, name := [0x61] })).sd.byName [0x61] ≠ none) ∧
    (Takes (.streamTune req0) (askedSd tuneBytes (streamIn .opened)) (askedSd tuneBytes (streamIn .opened)) ∧
      tuneBody ((askedSd tuneBytes (streamIn .opened)).body req0) = .ok (0, ⟨none, none, none, none, none⟩) ∧
      (askedSd tuneBytes (streamIn .opened)).sd.works[(0 : StreamId)].outstanding = [] ∧
      (askedSd tuneBytes (streamIn .opened)).sd.streams[(0 : StreamId)].live = true ∧
      checkQuota 3 (askedSd tuneBytes (streamIn .opened)).sd.streams[(0 : StreamId)].values ⟨none, none, none, none, none⟩ =
        .ok defaultValues) ∧
    (sdBoth id fun k => { k with deleteClaim := true }).sd.works[(0 : StreamId)].outstanding = [.delete] :=
  ⟨⟨takes_quiet rfl rfl rfl, rfl, rfl, rfl, rfl, by decide +kernel, rfl, rfl⟩, by decide +kernel,
   ⟨takes_quiet rfl rfl rfl, rfl, rfl, rfl, rfl⟩, rfl⟩

/-- A create whose claim is out. -/
def creating : State := sdBoth id fun k => { k with create := some ⟨req0, [0x61], defaultValues⟩ }

/-- A tune whose claim is out. -/
def tuning : State := sdBoth (fun d => { d with state := .opened }) fun k => { k with tune := some ⟨req0, defaultValues⟩ }

/-- A tune with every field absent that waits for these claims. -/
def waitingTune (claims : List ClaimKind) : WaitingTune := ⟨req0, ⟨none, none, none, none, none⟩, claims⟩

/-- A stream in a state with this under way. -/
def sdDuring (st : StreamState) (f : StreamWork → StreamWork) : State := sdBoth (fun d => { d with state := st }) f

/-- A stream being deleted, with two tunes waiting: one for the delete claim, one for a tune claim behind which it was sent too. -/
def deletingWithTune : State := sdDuring .deleting fun k =>
  { k with deleteClaim := true, waiting := [waitingTune [.delete], waitingTune [.tune, .delete]] }

/-- A stream whose tune claim is out with two tunes waiting for it. -/
def tuningTwice : State := sdDuring .opened fun k =>
  { k with tune := some ⟨req0, defaultValues⟩, waiting := [waitingTune [.tune], waitingTune [.tune]] }

theorem witness_QuotaClaimAnswerResults :
    (Takes (.createClaimAnswer 0 .granted) creating creating ∧ Takes (.createClaimAnswer 0 (.refused .shared)) creating creating ∧
      creating.sd.works[(0 : StreamId)].create = some ⟨req0, [0x61], defaultValues⟩ ∧
      creating.sd.works[(0 : StreamId)].waiting = []) ∧
    (Takes (.tuneClaimAnswer 0 .granted) tuning tuning ∧
      tuning.sd.works[(0 : StreamId)].tune = some ⟨req0, defaultValues⟩ ∧ tuning.sd.streams[(0 : StreamId)].live = true) ∧
    (Takes (.deleteClaimAnswer 0) deletingWithTune deletingWithTune ∧
      freedTunes .delete deletingWithTune.sd.works[(0 : StreamId)].waiting = [waitingTune [.delete]] ∧
      heldTunes .delete deletingWithTune.sd.works[(0 : StreamId)].waiting = [waitingTune [.tune]] ∧
      deletingWithTune.sd.works[(0 : StreamId)].tune = none ∧
      deletingWithTune.sd.streams[(0 : StreamId)].state = .deleting) ∧
    (Takes (.tuneClaimAnswer 0 .granted) tuningTwice tuningTwice ∧
      tuningTwice.sd.works[(0 : StreamId)].waiting = waitingTune [.tune] :: [waitingTune [.tune]] ∧
      tuningTwice.sd.streams[(0 : StreamId)].live = true ∧ checkQuota 3 defaultValues (waitingTune []).fields = .ok defaultValues) :=
  ⟨⟨takes_quiet rfl rfl rfl, takes_quiet rfl rfl rfl, rfl, rfl⟩, ⟨takes_quiet rfl rfl rfl, rfl, rfl⟩,
   ⟨takes_quiet rfl rfl rfl, rfl, rfl, rfl, rfl⟩, takes_quiet rfl rfl rfl, rfl, rfl, rfl⟩

/-- The other claims whose answer lets a tune that waits for it alone claim in turn. -/
theorem witness_QuotaClaimAnswerResults_tunes :
    ((sdDuring .absent fun k => { k with
        create := some ⟨req0, [0x61], defaultValues⟩, waiting := [waitingTune [.create]] }).sd.works[(0 : StreamId)].waiting =
        waitingTune [.create] :: [] ∧
      Takes (.createClaimAnswer 0 .granted) (sdDuring .absent id) (sdDuring .absent id)) ∧
    (Takes (.tuneClaimAnswer 0 (.refused .ceiling)) tuningTwice tuningTwice ∧
      checkQuota 3 tuningTwice.sd.streams[(0 : StreamId)].values (waitingTune []).fields = .ok defaultValues) ∧
    (Takes (.deleteClaimAnswer 0) (sdDuring .opened id) (sdDuring .opened id) ∧
      (sdDuring .opened id).sd.streams[(0 : StreamId)].live = true ∧
      (sdDuring .opened fun k => { k with waiting := [waitingTune []] }).sd.works[(0 : StreamId)].tune = none) :=
  ⟨⟨rfl, takes_quiet rfl rfl rfl⟩, ⟨takes_quiet rfl rfl rfl, rfl⟩, takes_quiet rfl rfl rfl, rfl, rfl⟩

/-- R13: a tune that waits for a tune claim is checked when that is answered, though a delete claim sent later is still out: the
stream is DELETING, so it is answered WRONG_STATE behind the GONE of the claim's own tune (R4, R14). -/
theorem test_waiting_tune_waits_for_no_later_claim :
    (SD.tuneClaimAnswer 0 .granted (Work.start (sdDuring .deleting fun k => { k with
        tune := some ⟨req0, defaultValues⟩, deleteClaim := true, waiting := [waitingTune [.tune]] }).sd)).out =
      [.answerArrival 0 0 ⟨.gone, 0, .empty⟩, .answerArrival 0 0 ⟨.wrongState, 0, .empty⟩] := by decide

/-- R13: one that waits for a delete claim is checked at its answer, though a create that uses the id again is out: the stream is
ABSENT (R4). -/
theorem test_waiting_tune_waits_for_no_later_create :
    (SD.deleteClaimAnswer 0 (Work.start (sdDuring .absent fun k => { k with
        create := some ⟨req0, [0x61], defaultValues⟩, deleteClaim := true, waiting := [waitingTune [.delete]] }).sd)).out =
      [.answerArrival 0 0 ⟨.noStream, 0, .empty⟩] := by decide

theorem witness_StreamSealAndDeleteResults :
    (Takes (.streamSeal req0) (askedSd [0] (streamIn .opened)) (askedSd [0] (streamIn .opened)) ∧
      oneField 1 ((askedSd [0] (streamIn .opened)).body req0) = .ok 0 ∧
      (askedSd [0] (streamIn .opened)).sd.streams[(0 : StreamId)].state = .opened ∧
      (askedSd [0] (streamIn .absent)).sd.streams[(0 : StreamId)].state = .absent ∧
      (askedSd [0] (streamIn .sealed)).sd.streams[(0 : StreamId)].state = .sealed) ∧
    (Takes (.sealAnswer 0) (streamIn .sealed) (streamIn .sealed)) ∧
    (Takes (.streamDelete req0) (askedSd [0, 0] (streamIn .opened)) (askedSd [0, 0] (streamIn .opened)) ∧
      idFlagBody ((askedSd [0, 0] (streamIn .opened)).body req0) = .ok (0, false) ∧
      (askedSd [0, 0] (streamIn .opened)).sd.streams[(0 : StreamId)].live = true ∧
      (askedSd [0, 0] (streamIn .opened)).sd.streams[(0 : StreamId)].cursorCount = 0 ∧
      (askedSd [0, 0] (streamIn .opened)).sd.streams[(0 : StreamId)].pendingAppends = 0 ∧
      0 < (sdWith fun d => { d with state := .opened, cursorCount := 1 }).sd.streams[(0 : StreamId)].cursorCount) :=
  ⟨⟨takes_quiet rfl rfl rfl, rfl, rfl, rfl, rfl⟩, takes_quiet rfl rfl rfl, takes_quiet rfl rfl rfl, rfl, rfl, rfl, rfl, by decide⟩

/-- A DELETING stream with these counts, handed over, emptied and clear as given. -/
def tearing (cursors appends : Nat) (handed emptied clear : Bool) : State :=
  sdBoth (fun d => { d with state := .deleting, cursorCount := cursors, pendingAppends := appends }) fun k =>
    { k with delete := some req0, handedOver := handed, emptied := emptied, clear := clear }

theorem witness_StreamTeardownResults :
    (Takes (.emptiedReport 0) (tearing 0 0 true false true) (tearing 0 0 true false true) ∧
      (tearing 0 0 true false true).sd.works[(0 : StreamId)].handedOver = true ∧
      (tearing 0 0 true false true).sd.works[(0 : StreamId)].clear = true ∧
      (tearing 0 0 true false true).sd.streams[(0 : StreamId)].state = .deleting) ∧
    (Takes (.streamClearReport 0) (tearing 0 0 true true false) (tearing 0 0 true true false) ∧
      (tearing 0 0 true true false).sd.works[(0 : StreamId)].emptied = true) ∧
    (Takes (.unbind 0) (tearing 1 0 true true true) (tearing 1 0 true true true) ∧
      (tearing 1 0 true true true).sd.streams[(0 : StreamId)].cursorCount = 1) ∧
    (Takes (.appendLeave 0) (tearing 0 1 true true true) (tearing 0 1 true true true) ∧
      (tearing 0 1 true true true).sd.streams[(0 : StreamId)].pendingAppends = 1) ∧
    ((tearing 0 0 true false false).sd.works[(0 : StreamId)].clear = false ∧
      (tearing 1 0 false false false).sd.works[(0 : StreamId)].handedOver = false ∧
      (tearing 1 0 false false false).sd.works[(0 : StreamId)].emptied = false) :=
  ⟨⟨takes_quiet rfl rfl rfl, rfl, rfl, rfl⟩, ⟨takes_quiet rfl rfl rfl, rfl⟩, ⟨takes_quiet rfl rfl rfl, rfl⟩,
   ⟨takes_quiet rfl rfl rfl, rfl⟩, rfl, rfl, rfl⟩

theorem witness_DirectoryReportResults :
    (Takes (.streamInfo req0) (askedSd [0, 0] (streamIn .opened)) (askedSd [0, 0] (streamIn .opened)) ∧
      (askedSd [0, 0] (streamIn .opened)).sd.streams[(0 : StreamId)].state ≠ .absent ∧
      infoBody ((askedSd [0, 0] (streamIn .opened)).body req0) = .ok (.id 0)) ∧
    (infoBody [1, 1, 0x61] = .ok (.name [0x61]) ∧ nameValid [0x61] = true) ∧
    (Takes (.rangeQuestion 0 (.headRead .recycle)) State.reset State.reset ∧ Takes .scanQuestion State.reset State.reset ∧
      Takes (.counterUpdate 0 .refused) (streamIn .opened) (streamIn .opened)) :=
  ⟨⟨takes_quiet rfl rfl rfl, by decide, rfl⟩, ⟨rfl, rfl⟩, takes_quiet rfl rfl rfl, takes_quiet rfl rfl rfl,
   takes_quiet rfl rfl rfl⟩

theorem witness_PageOpenResult :
    Takes (.pageOpen 0 256) (streamIn .opened) (streamIn .opened) ∧
      (streamIn .opened).sd.streams[(0 : StreamId)].state = .opened ∧
      (streamIn .sealed).sd.streams[(0 : StreamId)].state = .sealed ∧
      (streamIn .deleting).sd.streams[(0 : StreamId)].state = .deleting := ⟨takes_quiet rfl rfl rfl, rfl, rfl, rfl⟩

/-- A stream with pages 3 to 5 and a release mark. -/
def paged (head tail : Lpn) : State := sdWith fun d =>
  { d with state := .opened, headLpn := some head, tailLpn := some tail, releaseMark := some 40
           tailRec := some ⟨300, 41, 50, 0, false⟩ }

theorem witness_PageCloseAndCommitResults :
    (Takes (.pageClose 0) (paged 3 5) (paged 3 5) ∧ (paged 3 5).sd.streams[(0 : StreamId)].tailLpn = some 5 ∧
      (paged 3 5).sd.streams[(0 : StreamId)].tailRec = some ⟨300, 41, 50, 0, false⟩) ∧
    (Takes (.commit 0 51 7) (paged 3 5) (paged 3 5) ∧ (paged 3 5).sd.streams[(0 : StreamId)].state ≠ .absent) :=
  ⟨⟨takes_quiet rfl rfl rfl, rfl, rfl⟩, takes_quiet rfl rfl rfl, by decide⟩

theorem witness_ExhaustingCommitSealsTheStream :
    (Takes (.commit 0 4294967294 7) (streamIn .opened) (streamIn .opened) ∧
      (streamIn .opened).sd.streams[(0 : StreamId)].state = .opened) ∧
    (Takes (.placeAnswer 0 ⟨.sealed, .exhausted, 4294967294, none, none⟩) (aeWith .placing) (aeWith .placing) ∧
      (aeWith .placing).ae.queue = job .placing :: [] ∧ (job .placing).state = .placing ∧ (job .placing).stream = 0 ∧
      (job .placing).marked = false) ∧
    (Takes (.commit 0 4294967294 7) (streamIn .sealed) (streamIn .sealed) ∧
      (streamIn .sealed).sd.streams[(0 : StreamId)].state = .sealed ∧ Takes (.sealAnswer 0) (streamIn .sealed) (streamIn .sealed)) :=
  ⟨⟨takes_quiet rfl rfl rfl, rfl⟩, ⟨takes_quiet rfl rfl rfl, rfl, rfl, rfl, rfl⟩, takes_quiet rfl rfl rfl, rfl,
   takes_quiet rfl rfl rfl⟩

theorem witness_ReleaseUpdateResults :
    (Takes (.releaseMarkSet 0 40) (paged 3 5) (paged 3 5) ∧ Takes (.releaseMarkClear 0) (paged 3 5) (paged 3 5) ∧
      Takes (.headRaise 0 40) (paged 3 5) (paged 3 5) ∧ (paged 3 5).sd.streams[(0 : StreamId)].state ≠ .absent ∧
      (paged 3 5).sd.streams[(0 : StreamId)].headLpn = some 3 ∧ (paged 3 5).sd.streams[(0 : StreamId)].tailLpn = some 5 ∧
      (paged 5 5).sd.streams[(0 : StreamId)].headLpn = some 5) ∧
    (Takes (.positionQuestion 0 0) (paged 3 5) (paged 3 5) ∧ Takes (.bind 0 0) (paged 3 5) (paged 3 5) ∧
      Takes (.rebind 0 0) (paged 3 5) (paged 3 5) ∧ (paged 3 5).sd.streams[(0 : StreamId)].releaseMark = some 40 ∧
      (paged 3 5).sd.streams[(0 : StreamId)].live = true ∧ (paged 3 5).sd.streams[(0 : StreamId)].cursorCount < 8) :=
  ⟨⟨takes_quiet rfl rfl rfl, takes_quiet rfl rfl rfl, takes_quiet rfl rfl rfl, by decide, rfl, rfl, rfl⟩,
   takes_quiet rfl rfl rfl, takes_quiet rfl rfl rfl, takes_quiet rfl rfl rfl, rfl, rfl, by decide⟩

theorem witness_BindAndAdmissionResults :
    ((streamIn .absent).sd.streams[(0 : StreamId)].state = .absent ∧
      (streamIn .deleting).sd.streams[(0 : StreamId)].state = .deleting) ∧
    ((sdWith fun d => { d with state := .opened, cursorCount := 8 }).sd.streams[(0 : StreamId)].live = true ∧
      (sdWith fun d => { d with state := .opened, cursorCount := 8 }).sd.streams[(0 : StreamId)].cursorCount = 8) ∧
    ((sdWith fun d => { d with state := .opened, cursorCount := 7 }).sd.streams[(0 : StreamId)].live = true ∧
      (sdWith fun d => { d with state := .opened, cursorCount := 7 }).sd.streams[(0 : StreamId)].cursorCount ≤ 7) ∧
    (Takes (.bind 0 0) (streamIn .opened) (streamIn .opened) ∧ Takes (.unbind 0) (streamIn .opened) (streamIn .opened) ∧
      Takes (.admission 0 req0) (streamIn .opened) (streamIn .opened) ∧
      (streamIn .opened).sd.streams[(0 : StreamId)].state ≠ .deleting) :=
  ⟨⟨rfl, rfl⟩, ⟨rfl, rfl⟩, ⟨rfl, by decide⟩, takes_quiet rfl rfl rfl, takes_quiet rfl rfl rfl, takes_quiet rfl rfl rfl,
   by decide⟩

/-! #### The Page Pool and the Map Unit -/

theorem witness_QuotaClaimResults :
    (Takes (.createClaim 0 4 10) (poolOf id) (poolOf id) ∧ 4 ≤ (poolOf id).pp.sharedFree ∧ (poolOf id).pp.sharedFree < 5) ∧
    (Takes (.tuneClaim 0 4 10) (poolOf id) (poolOf id) ∧ (poolOf id).pp.quotas[(0 : StreamId)].held ≤ 10 ∧
      4 - (poolOf id).pp.quotas[(0 : StreamId)].held ≤ (poolOf id).pp.sharedFree +
        ((poolOf id).pp.quotas[(0 : StreamId)].reservation - (poolOf id).pp.quotas[(0 : StreamId)].held) ∧
      (poolOf id).pp.sharedFree + ((poolOf id).pp.quotas[(0 : StreamId)].reservation -
        (poolOf id).pp.quotas[(0 : StreamId)].held) < 5 - (poolOf id).pp.quotas[(0 : StreamId)].held) ∧
    10 < ((poolOf fun p => p.onQuota 0 fun q => { q with held := 11 }).pp.quotas[(0 : StreamId)].held) ∧
    (Takes (.deleteClaim 0 10) (poolOf id) (poolOf id) ∧ Takes (.streamAbsentReport 0) (poolOf id) (poolOf id) ∧
      Takes (.heldQuestion 0 .ru) (poolOf id) (poolOf id) ∧ Takes (.heldQuestion 0 (.sd req0)) (poolOf id) (poolOf id)) :=
  ⟨⟨takes_quiet rfl rfl rfl, by decide, by decide⟩, ⟨takes_quiet rfl rfl rfl, by decide, by decide, by decide⟩, by decide,
   takes_quiet rfl rfl rfl, takes_quiet rfl rfl rfl, takes_quiet rfl rfl rfl, takes_quiet rfl rfl rfl⟩

/-- PP with stream 0's quota as given. -/
def quotaState (reservation ceiling held : Nat) (free : List Run) : State :=
  poolOf fun p => { p.onQuota 0 fun _ => ⟨true, reservation, ceiling, held⟩ with free := free }

theorem witness_AllocationResult :
    (Takes (.allocationRequest 0) (quotaState 0 1 1 []) (quotaState 0 1 1 []) ∧
      (quotaState 0 1 1 []).pp.quotas[(0 : StreamId)].ceiling = (quotaState 0 1 1 []).pp.quotas[(0 : StreamId)].held ∧
      (quotaState 0 1 2 []).pp.quotas[(0 : StreamId)].ceiling < (quotaState 0 1 2 []).pp.quotas[(0 : StreamId)].held) ∧
    ((quotaState 1 4 1 []).pp.quotas[(0 : StreamId)].held < (quotaState 1 4 1 []).pp.quotas[(0 : StreamId)].ceiling ∧
      (quotaState 1 4 1 []).pp.quotas[(0 : StreamId)].reservation ≤ (quotaState 1 4 1 []).pp.quotas[(0 : StreamId)].held ∧
      (quotaState 1 4 1 []).pp.sharedFree = 0) ∧
    ((quotaState 2 4 1 [⟨256, 1⟩]).pp.quotas[(0 : StreamId)].held <
        (quotaState 2 4 1 [⟨256, 1⟩]).pp.quotas[(0 : StreamId)].ceiling ∧
      (quotaState 2 4 1 [⟨256, 1⟩]).pp.quotas[(0 : StreamId)].held <
        (quotaState 2 4 1 [⟨256, 1⟩]).pp.quotas[(0 : StreamId)].reservation ∧
      freeList (quotaState 2 4 1 [⟨256, 1⟩]).pp.free = 256 :: []) :=
  ⟨⟨takes_quiet rfl rfl rfl, by decide, by decide⟩, ⟨by decide, by decide, by decide⟩, by decide, by decide, rfl⟩

theorem witness_HoldRequestAndHandOverResults :
    (Takes (.holdRequest 0 256 ⟨0, 0⟩) (poolOf id) (poolOf id) ∧ (poolOf id).pp.page 256 = none) ∧
    ((poolWith (page256 true 1 false)).pp.page 256 = some (page256 true 1 false) ∧
      (page256 true 1 false).releasing = true) ∧
    ((poolWith (page256 false 0 false)).pp.page 256 = some (page256 false 0 false) ∧
      (page256 false 0 false).releasing = false ∧ (page256 false 0 false).owner = 0 ∧ (page256 false 0 false).owner ≠ 1) ∧
    (Takes (.handOver 0 256 .recycle) (poolWith (page256 false 0 false)) (poolWith (page256 false 0 false)) ∧
      (page256 false 0 false).holds = 0 ∧ 1 ≤ (page256 false 1 false).holds) :=
  ⟨⟨takes_quiet rfl rfl rfl, rfl⟩, ⟨rfl, rfl⟩, ⟨rfl, rfl, rfl, by decide⟩, takes_quiet rfl rfl rfl, rfl, by decide⟩

theorem witness_HoldDropResult :
    (Takes (.holdDrop 256) (poolWith (page256 false 0 false)) (poolWith (page256 false 0 false)) ∧
      (poolWith (page256 false 0 false)).pp.page 256 = some (page256 false 0 false)) ∧
    (1 ≤ (page256 false 1 false).holds ∧ (page256 false 1 false).releasing = false ∧ 2 ≤ (page256 true 2 false).holds) ∧
    ((page256 true 1 false).holds = 1 ∧ (page256 true 1 false).releasing = true ∧ (page256 true 1 false).recycle = false) ∧
    (page256 true 1 true).recycle = true := ⟨⟨takes_quiet rfl rfl rfl, rfl⟩, by decide, ⟨rfl, rfl, rfl⟩, rfl⟩

theorem witness_PressureAndPoolRequestResults :
    ((Work.start { (poolOf id).pp with ready := true }).st.sharedFree < 1024 ∧
      (Work.start { (poolOf id).pp with ready := true, pressure := true, clearMark := 4 }).st.clearMark ≤
        (Work.start { (poolOf id).pp with ready := true, pressure := true, clearMark := 4 }).st.sharedFree) ∧
    (Takes (.poolTune req0) (asked 0x14 [0, 9, 0, 10]) (asked 0x14 [0, 9, 0, 10]) ∧
      poolTuneBody ((asked 0x14 [0, 9, 0, 10]).body req0) = .ok (9, 10) ∧ 10 ≤ (asked 0x14 [0, 9, 0, 10]).poolSize) ∧
    poolTuneBody [0, 0, 0, 0] = .ok (0, 0) ∧ poolTuneBody [0, 10, 0, 10] = .ok (10, 10) ∧
    (Takes (.poolStatus req0) (asked 0x09 [1]) (asked 0x09 [1]) ∧ clearBody ((asked 0x09 [1]).body req0) = .ok true) :=
  ⟨⟨by decide, by decide⟩, ⟨takes_quiet rfl rfl rfl, rfl, by decide⟩, rfl, rfl, takes_quiet rfl rfl rfl, rfl⟩

theorem witness_MapWriteAndClearResults :
    Takes (.mapWrite 0 1023 ⟨300, 1, 2, 0, true⟩) State.reset State.reset ∧
      Takes (.mapWriteDone 0 1023 ⟨300, 1, 2, 0, true⟩) State.reset State.reset ∧
      State.reset.mu.clearDue[(0 : StreamId)] = false ∧ Takes (.slotClear 0 1024) State.reset State.reset ∧
      Takes (.slotClearDone 0 1024) State.reset State.reset :=
  ⟨takes_quiet rfl rfl rfl, takes_quiet rfl rfl rfl, rfl, takes_quiet rfl rfl rfl, takes_quiet rfl rfl rfl⟩

/-- A range from 3 to 5 of an OPEN stream. -/
def range35 : RangeInfo := ⟨.opened, some 3, some 5, some ⟨300, 41, 50, 0, false⟩⟩

/-- MU with LPN 3 of stream 0 in the cache. -/
def muCached : State := muWith fun m => { m with cache := [⟨0, 0, 3, ⟨290, 1, 20, 0, true⟩⟩] }

theorem witness_LookupResults :
    (Takes (.lookupByLpn 0 3 (.delivery ⟨0, 0⟩)) State.reset State.reset ∧
      Takes (.rangeAnswer 0 (.lookup 3 (.delivery ⟨0, 0⟩)) range35) muCached muCached ∧ range35.state = .opened ∧
      range35.head = some 3 ∧ range35.tail = some 5 ∧ range35.tailRec = some ⟨300, 41, 50, 0, false⟩ ∧
      muCached.mu.cached 0 3 = some ⟨0, 0, 3, ⟨290, 1, 20, 0, true⟩⟩) ∧
    (muCached.mu.cached 0 4 = none ∧ muCached.mu.walking 0 4 = none ∧
      muCached.mu.queue.any (QueueEntry.isFor 0 4) = false ∧ muCached.mu.idleTracker = some 0) ∧
    (Takes (.walkDone 0 (slotBytes ⟨300, 1, 2, 0, true⟩))
        (muWith fun m => { m with trackers := m.trackers.set 0 (some ⟨0, 4, [.delivery ⟨0, 0⟩], false⟩) })
        (muWith fun m => { m with trackers := m.trackers.set 0 (some ⟨0, 4, [.delivery ⟨0, 0⟩], false⟩) }) ∧
      (slotRecord (slotBytes ⟨300, 1, 2, 0, true⟩)).ppn ≠ 0 ∧ (slotRecord (List.replicate 16 0)).ppn = 0) ∧
    ((∀ l ∈ MU.init.cache, l.num ≠ 0) ∧ (∀ k < (0 : Fin 32), ∃ l ∈ MU.init.cache, l.num = k) ∧ MU.init.cached 0 3 = none) ∧
    (∀ k : Fin 32, ∃ l ∈ (List.finRange 32).map (fun k => (⟨k, 0, k.val, ⟨290, 1, 20, 0, true⟩⟩ : CacheLine)), l.num = k) :=
  ⟨⟨takes_quiet rfl rfl rfl, takes_quiet rfl rfl rfl, rfl, rfl, rfl, rfl, rfl⟩, ⟨rfl, rfl, rfl, rfl⟩,
   ⟨takes_quiet rfl rfl rfl, by decide, by decide⟩, ⟨by simp [MU.init], fun k hk => absurd hk (by simp), rfl⟩,
   fun k => ⟨_, List.mem_map_of_mem (List.mem_finRange k), rfl⟩⟩

/-- MU with a search of a delivery buffer open. -/
def muSearching : State := muWith fun m => { m with searches := [⟨.delivery ⟨0, 0⟩, 0, 45, 0, 0, none, none⟩] }

theorem witness_SearchDeleteAndMapRequestResults :
    (Takes (.rangeAnswer 0 (.search (.delivery ⟨0, 0⟩)) range35) muSearching muSearching ∧
      muSearching.mu.search (.delivery ⟨0, 0⟩) = some ⟨.delivery ⟨0, 0⟩, 0, 45, 0, 0, none, none⟩ ∧ 41 ≠ 0 ∧ 41 ≤ 45) ∧
    (Takes (.headReadDone 0 .teardown .deleting 3 5 (List.replicate 16 0)) State.reset State.reset ∧
      Takes (.deleteOrderAtMu 0) State.reset State.reset ∧ State.reset.mu.writes[(0 : StreamId)] = 0 ∧
      (muWith fun m => { m with writes := m.writes.set 0 1 }).mu.writes[(0 : StreamId)] ≠ 0) ∧
    (Takes (.mapFlush req0) (asked 0x17 []) (asked 0x17 []) ∧ (asked 0x17 []).body req0 = []) ∧
    (Takes (.mapStatus req0) (asked 0x0C [0]) (asked 0x0C [0]) ∧ clearBody ((asked 0x0C [0]).body req0) = .ok false) :=
  ⟨⟨takes_quiet rfl rfl rfl, rfl, by decide, by decide⟩,
   ⟨takes_quiet rfl rfl rfl, takes_quiet rfl rfl rfl, rfl, by decide⟩, ⟨takes_quiet rfl rfl rfl, rfl⟩,
   takes_quiet rfl rfl rfl, rfl⟩

/-! #### The Append Engine and the Retention Unit -/

theorem witness_AppendArrivalResult :
    (Takes (.append req0) (asked 0x20 [0, 9]) (asked 0x20 [0, 9]) ∧
      appendBody ((asked 0x20 [0, 9]).body req0) = .ok (0, [9]) ∧ (asked 0x20 [0, 9]).ae.queue.length < 16) ∧
    appendBody [0] = .ok (0, []) ∧
    16 ≤ ({ asked 0x20 [0, 9] with ae := { AE.init with queue := List.replicate 16 (job .waiting) } } : State).ae.queue.length :=
  ⟨⟨takes_quiet rfl rfl rfl, rfl, by decide⟩, rfl, by decide⟩

/-- A place answer with an open tail page of stream 0. -/
def placeOpen : PlaceInfo := ⟨.opened, .none, 50, some 5, some ⟨300, 41, 50, 0, false⟩⟩

theorem witness_AppendPlacingResults :
    (Takes (.admissionAnswer req0 true) (aeWith .waiting) (aeWith .waiting) ∧
      Takes (.admissionAnswer req0 false) (aeWith .waiting) (aeWith .waiting) ∧
      (aeWith .waiting).ae.queue = job .waiting :: [] ∧ (job .waiting).admitted = false ∧ (job .waiting).state = .waiting) ∧
    (Takes (.placeAnswer 0 placeOpen) (aeWith .placing) (aeWith .placing) ∧ HeadIs (aeWith .placing) .placing 0 (job .placing) [] ∧
      placeOpen.tailRec = some ⟨300, 41, 50, 0, false⟩ ∧
      (aeWith .placing).ae.fills[(0 : StreamId)] + (job .placing).size ≤ 2048) ∧
    2048 < ({ aeWith .placing with ae := { (aeWith .placing).ae with fills := Vector.replicate 32 2032 } } :
      State).ae.fills[(0 : StreamId)] + (job .placing).size ∧
    storedSize ({ asked 0x20 [0, 9] with ae := (aeWith .placing).ae } : State).headPayload.length = (job .placing).size :=
  ⟨⟨takes_quiet rfl rfl rfl, takes_quiet rfl rfl rfl, rfl, rfl, rfl⟩,
   ⟨takes_quiet rfl rfl rfl, ⟨rfl, rfl, rfl⟩, rfl, by decide⟩, by decide, rfl⟩

/-- R77, R194: an APPEND of stored size 24 whose slot another frame has taken meanwhile issues a write of 24 bytes. -/
theorem test_entry_write_keeps_its_size (body : List Byte) :
    ∃ op, (AE.write 0 body 65535 2024 (Work.start { AE.init with queue := [job .placing] })).out = [.mpOperationIssue op] ∧
      op.len = 24 ∧ op.data.length = 24 ∧ reaches true op = true :=
  ⟨_, rfl, rfl, entryOfSize_length .., rfl⟩

theorem witness_AppendAllocationResults :
    (Takes (.allocationGrant 0 300) (aeWith .allocating) (aeWith .allocating) ∧
      HeadIs (aeWith .allocating) .allocating 0 (job .allocating) []) ∧
    (Takes (.recycledPage 0 300) (aeWith .recycling) (aeWith .recycling) ∧
      HeadIs (aeWith .recycling) .recycling 0 (job .recycling) []) ∧
    (Takes (.refusalAnswer 0 ⟨.opened, .dropOldest, some 3, some 5⟩) (aeWith .allocating) (aeWith .allocating) ∧
      (job .allocating).marked = false ∧ (job .allocating).recycled = false) ∧
    (Takes (.allocationRefusal 0 .shared) (aeWith .allocating) (aeWith .allocating) ∧
      Takes (.noPage 0) (aeWith .recycling) (aeWith .recycling)) :=
  ⟨⟨takes_quiet rfl rfl rfl, rfl, rfl, rfl⟩, ⟨takes_quiet rfl rfl rfl, rfl, rfl, rfl⟩,
   ⟨takes_quiet rfl rfl rfl, rfl, rfl⟩, takes_quiet rfl rfl rfl, takes_quiet rfl rfl rfl⟩

theorem witness_AppendEndResults :
    (Takes .entryWriteDone (aeWith .writing) (aeWith .writing) ∧ (aeWith .writing).ae.queue = job .writing :: [] ∧
      (job .writing).state = .writing) ∧
    (Takes (.sealOrder 0) (aeWith .writing) (aeWith .writing) ∧ (aeWith .writing).ae.busyOn 0 = true ∧
      (aeWith .waiting).ae.busyOn 0 = false) ∧
    (Takes (.deleteOrderAtAe 0) (aeWith .writing) (aeWith .writing) ∧ Takes .padWriteDone State.reset State.reset) :=
  ⟨⟨takes_quiet rfl rfl rfl, rfl, rfl⟩, ⟨takes_quiet rfl rfl rfl, by decide, by decide⟩, takes_quiet rfl rfl rfl,
   takes_quiet rfl rfl rfl⟩

/-- An evaluation of stream 0 that has the view and the floor. -/
def evaluating : State := ruWith fun r =>
  { r with phase := .evaluating, view := some ⟨.opened, false, 2, 0, 60⟩, floor := some (some 21) }

/-- The head page of a stream with pages 3 to 5. -/
def head35 : HeadPage := ⟨3, 5, ⟨290, 1, 20, 0, true⟩⟩

theorem witness_EvaluationResults :
    (Takes (.evaluationTrigger 0) State.reset State.reset ∧ State.reset.ru.recs[(0 : StreamId)].phase = .idle ∧
      State.reset.ru.recs[(0 : StreamId)].teardown = false ∧ State.reset.ru.recs[(0 : StreamId)].recycleWanted = false) ∧
    evaluating.ru.recs[(0 : StreamId)].phase ≠ .idle ∧
    (Takes (.evaluationAnswer 0 (.head ⟨.opened, some head35⟩)) evaluating evaluating ∧
      (Release.take (.head ⟨.opened, some head35⟩) evaluating.ru.recs[(0 : StreamId)]).view = some ⟨.opened, false, 2, 0, 60⟩ ∧
      (Release.take (.head ⟨.opened, some head35⟩) evaluating.ru.recs[(0 : StreamId)]).head = some ⟨.opened, some head35⟩ ∧
      (Release.take (.head ⟨.opened, some head35⟩) evaluating.ru.recs[(0 : StreamId)]).floor = some (some 21) ∧
      head35.head < head35.tail ∧ head35.record.firstSeq ≠ 0 ∧ 2 ≤ head35.tail - head35.head ∧ head35.record.lastSeq < 21) ∧
    (Takes (.evaluationAnswer 0 (.head ⟨.opened, none⟩)) evaluating evaluating ∧
      evaluating.ru.recs[(0 : StreamId)].reevaluate = false) :=
  ⟨⟨takes_quiet rfl rfl rfl, rfl, rfl, rfl⟩, by decide,
   ⟨takes_quiet rfl rfl rfl, rfl, rfl, rfl, by decide, by decide, by decide, by decide⟩, takes_quiet rfl rfl rfl, rfl⟩

/-- A release of stream 0 in a phase. -/
def releasing (ph : Phase) : State := ruWith fun r =>
  { r with phase := ph, kind := some .normal, page := some ⟨3, 290, 1, 20⟩, m := some 21 }

theorem witness_ReleaseResults :
    ((releasing .marking).ru.recs[(0 : StreamId)].m = some 21 ∧ (releasing .marking).ru.recs[(0 : StreamId)].kind = some .normal ∧
      (releasing .marking).ru.recs[(0 : StreamId)].page = some ⟨3, 290, 1, 20⟩) ∧
    (Takes (.releaseMarkSetAnswer 0) (releasing .marking) (releasing .marking) ∧
      Takes (.advanceOrderAnswer 0 true) (releasing .advancing) (releasing .advancing) ∧
      Takes (.headRaiseAnswer 0) (releasing .raising) (releasing .raising) ∧
      Takes (.clearDoneReport 0 3) (releasing .clearing) (releasing .clearing)) ∧
    (Takes (.pageReturnedReport 0 290) (releasing .returning) (releasing .returning) ∧
      (releasing .returning).ru.recs[(0 : StreamId)].phase = .returning ∧
      Takes (.advanceOrderAnswer 0 false) (releasing .advancing) (releasing .advancing)) :=
  ⟨⟨rfl, rfl, rfl⟩, ⟨takes_quiet rfl rfl rfl, takes_quiet rfl rfl rfl, takes_quiet rfl rfl rfl, takes_quiet rfl rfl rfl⟩,
   takes_quiet rfl rfl rfl, rfl, takes_quiet rfl rfl rfl⟩

/-- RU asked for the head of a stream that is torn down. -/
def tearingRu : State := ruWith fun r => { r with phase := .evaluating, teardown := true }

theorem witness_RecycleScanAndTeardownResults :
    (Takes (.recycleRequest 0) State.reset State.reset ∧
      Takes (.recycleHeadAnswer 0 ⟨.opened, some head35⟩) evaluating evaluating ∧ head35.head < head35.tail) ∧
    (Takes (.ageScanExpiry 1000) { State.reset with ru := { RU.init with scan := some 1000 } }
        { State.reset with ru := { RU.init with scan := some 1000 } } ∧
      Takes (.scanAnswer [0, 5]) State.reset State.reset ∧ ([0, 5] : List StreamId).Pairwise (· < ·)) ∧
    (Takes (.teardownHandover 0) State.reset State.reset ∧
      Takes (.teardownHeadAnswer 0 ⟨.deleting, some head35⟩) tearingRu tearingRu ∧
      Takes (.teardownHeldAnswer 0 0) tearingRu tearingRu ∧ tearingRu.ru.recs[(0 : StreamId)].phase = .evaluating ∧
      tearingRu.ru.recs[(0 : StreamId)].teardown = true) :=
  ⟨⟨takes_quiet rfl rfl rfl, takes_quiet rfl rfl rfl, by decide⟩,
   ⟨takes_quiet rfl rfl rfl, takes_quiet rfl rfl rfl, by decide⟩, takes_quiet rfl rfl rfl, takes_quiet rfl rfl rfl,
   takes_quiet rfl rfl rfl, rfl, rfl⟩

/-! #### The Delivery Engine -/

/-- A CURSOR_OPEN body of stream 0 at HEAD, durable and retaining. -/
def openBytes : List Byte := [0, 0, 9, 3, 0, 0, 0, 0, 0, 0, 0, 0, 0, 0, 0]

/-- A cursor whose bind is out. -/
def binding (st : Start) (c : Cursor) : Cursor :=
  { c with stream := some 0, owner := some sess0, work := .bind, req := some req0, start := st }

theorem witness_CursorOpenResults :
    (Takes (.cursorOpen req0) (asked 0x28 openBytes) (asked 0x28 openBytes) ∧
      openBody ((asked 0x28 openBytes).body req0) = .ok ⟨0, 9, true, true, none, none, none, ⟨0, 0, 0⟩⟩ ∧
      checkOpen ⟨0, 9, true, true, none, none, none, ⟨0, 0, 0⟩⟩ = .ok (0, .head) ∧
      (asked 0x28 openBytes).de.sessionCount sess0 < 16 ∧ (asked 0x28 openBytes).de.lowestFree = some 0) ∧
    16 ≤ ({ asked 0x28 openBytes with de := { DE.init with cursors := Vector.replicate 64 (bound .active) } } :
      State).de.sessionCount sess0 ∧
    (Takes (.bindAnswer 0 (.refused .gone)) (deWith [] (binding .head)) (deWith [] (binding .head)) ∧
      Takes (.bindAnswer 0 (.granted 1 0)) (deWith [] (binding .head)) (deWith [] (binding .head)) ∧
      (deWith [] (binding .head)).de.cursors[(0 : CursorId)].work = .bind ∧
      (deWith [] (binding .head)).de.cursors[(0 : CursorId)].stream = some 0 ∧
      (deWith [] (binding .head)).de.cursors[(0 : CursorId)].req = some req0 ∧
      (deWith [] (binding .head)).de.cursors[(0 : CursorId)].start = .head ∧
      (deWith [] (binding (.at 5 true))).de.cursors[(0 : CursorId)].start = .at 5 true) :=
  ⟨⟨takes_quiet rfl rfl rfl, rfl, rfl, by decide, by decide⟩, by decide +kernel, takes_quiet rfl rfl rfl,
   takes_quiet rfl rfl rfl, rfl, rfl, rfl, rfl, rfl⟩

/-- A cursor in a positioning. -/
def positioning (w : CursorWork) (st : Start) (back : Option CursorState) : State := deWith [] fun _ =>
  { bound .seeking with work := w, start := st, returnState := back, req := some req0 }

theorem witness_PositioningResults :
    (Takes (.searchAnswer 0 .below) (positioning .search (.at 5 true) none) (positioning .search (.at 5 true) none) ∧
      (positioning .search (.at 5 true) none).de.cursors[(0 : CursorId)].state = .seeking ∧
      (positioning .search (.at 5 true) none).de.cursors[(0 : CursorId)].work = .search ∧
      (positioning .search (.at 5 true) none).de.cursors[(0 : CursorId)].stream = some 0) ∧
    (Takes (.positionAnswer 0 3 9) (positioning .position (.at 10 true) none) (positioning .position (.at 10 true) none) ∧
      (positioning .position (.at 10 true) none).de.cursors[(0 : CursorId)].start = .at 10 true ∧
      (positioning .position (.at 10 true) none).de.cursors[(0 : CursorId)].req = some req0 ∧ max 3 0 ≤ 10 ∧ 10 ≤ 9 + 1) ∧
    ((positioning .position (.at 2 true) (some .paused)).de.cursors[(0 : CursorId)].returnState = some .paused ∧
      2 < max 3 0 ∧ 9 + 1 < 11) :=
  ⟨⟨takes_quiet rfl rfl rfl, rfl, rfl, rfl⟩, ⟨takes_quiet rfl rfl rfl, rfl, rfl, by decide, by decide⟩, rfl, by decide,
   by decide⟩

theorem witness_CursorOwnerRequestResults :
    (Takes (.cursorSeek req0) (deWith [0, 1, 0, 0, 0, 0, 0] fun _ => bound .paused)
        (deWith [0, 1, 0, 0, 0, 0, 0] fun _ => bound .paused) ∧
      seekBody ((deWith [0, 1, 0, 0, 0, 0, 0] fun _ => bound .paused).body req0) = .ok (0, ⟨1, 0, 0⟩) ∧
      (deWith [0, 1, 0, 0, 0, 0, 0] fun _ => bound .paused).de.cursors[(0 : CursorId)].owner = some req0.sess ∧
      (deWith [0, 1, 0, 0, 0, 0, 0] fun _ => bound .paused).de.cursors[(0 : CursorId)].work = .none) ∧
    seekBody [0, 2, 1, 0, 0, 0, 5] = .ok (0, ⟨2, 1, 5⟩) ∧
    (Takes (.cursorPause req0) (deWith [0] fun _ => bound .active) (deWith [0] fun _ => bound .active) ∧
      Takes (.cursorResume req0) (deWith [0] fun _ => bound .stalled) (deWith [0] fun _ => bound .stalled) ∧
      oneField 1 ((deWith [0] fun _ => bound .stalled).body req0) = .ok 0 ∧
      (deWith [0] fun _ => { bound .paused with retryLimit := 0 }).de.cursors[(0 : CursorId)].retryLimit = 0) :=
  ⟨⟨takes_quiet rfl rfl rfl, rfl, rfl, rfl⟩, rfl, takes_quiet rfl rfl rfl, takes_quiet rfl rfl rfl, rfl, rfl⟩

/-- A DETACHED cursor with label 9. -/
def detached (c : Cursor) : Cursor := { c with state := .detached, stream := some 0, label := 9, durable := true, ackSeq := 4 }

/-- A DETACHED cursor whose rebind is out. -/
def rebinding : State := deWith [] fun c => { detached c with work := .rebind, req := some req0, pendingGap := 3 }

theorem witness_CursorCloseAttachAndInfoResults :
    (Takes (.cursorClose req0) (deWith [0, 0, 9] detached) (deWith [0, 0, 9] detached) ∧
      labelBody ((deWith [0, 0, 9] detached).body req0) = .ok (0, 9) ∧
      (deWith [0, 0, 9] detached).de.cursors[(0 : CursorId)].state = .detached ∧
      (deWith [0, 0, 9] detached).de.cursors[(0 : CursorId)].label = 9 ∧ labelBody [0, 0, 8] = .ok (0, 8)) ∧
    (Takes (.cursorAttach req0) (deWith [0, 0, 9] detached) (deWith [0, 0, 9] detached) ∧
      (deWith [0, 0, 9] detached).de.sessionCount sess0 < 16) ∧
    (Takes (.rebindAnswer 0 (.granted 1 9)) rebinding rebinding ∧ rebinding.de.cursors[(0 : CursorId)].work = .rebind ∧
      rebinding.de.cursors[(0 : CursorId)].req = some req0 ∧ rebinding.de.cursors[(0 : CursorId)].waiting = []) ∧
    (Takes (.cursorInfo req0) (deWith [0] detached) (deWith [0] detached) ∧
      oneField 1 ((deWith [0] detached).body req0) = .ok 0) :=
  ⟨⟨takes_quiet rfl rfl rfl, rfl, rfl, rfl, rfl⟩, ⟨takes_quiet rfl rfl rfl, by decide⟩,
   ⟨takes_quiet rfl rfl rfl, rfl, rfl, rfl⟩, takes_quiet rfl rfl rfl, rfl⟩

theorem witness_SessionAndStreamEndAtDeliveryResults :
    (Takes (.sessionEndAtDe sess0) (deWith [] fun _ => { bound .active with durable := true })
        (deWith [] fun _ => { bound .active with durable := true }) ∧
      (deWith [] fun _ => { bound .active with durable := true }).de.cursors[(0 : CursorId)].belongsTo sess0 = true ∧
      (deWith [] fun _ => { bound .active with durable := true }).de.cursors[(1 : CursorId)].belongsTo sess0 = false) ∧
    (Takes (.deleteOrderAtDe 0) (deWith [] detached) (deWith [] detached) ∧
      (deWith [] detached).de.cursors[(0 : CursorId)].boundTo 0 = true ∧
      (deWith [] detached).de.cursors[(1 : CursorId)].boundTo 0 = false) :=
  ⟨⟨takes_quiet rfl rfl rfl, by decide, by decide⟩, takes_quiet rfl rfl rfl, by decide, by decide⟩

/-- An in-flight entry of sequence 5, tried once. -/
def flying (tries : Nat) : InFlight := ⟨5, 3, 0, tries, false, 500⟩

theorem witness_AcknowledgementResults :
    (Takes (.ack req0) (deWith [0, 0, 0, 0, 6] fun _ => bound .active) (deWith [0, 0, 0, 0, 6] fun _ => bound .active) ∧
      ackBody ((deWith [0, 0, 0, 0, 6] fun _ => bound .active).body req0) = .ok (0, 6) ∧
      (bound .active).deliveredTop = 6 ∧ (bound .active).ackSeq = 4 ∧ ackBody [0, 0, 0, 0, 7] = .ok (0, 7) ∧
      ackBody [0, 0, 0, 0, 4] = .ok (0, 4)) ∧
    (Takes (.ackDeadlineExpiry 0 5 5) (deWith [] fun _ => { bound .active with list := [flying 5] })
        (deWith [] fun _ => { bound .active with list := [flying 5] }) ∧
      (deWith [] fun _ => { bound .active with list := [flying 5] }).de.cursors[(0 : CursorId)].list = [flying 5] ∧
      5 = (bound .active).retryLimit + 1 ∧ 4 ≠ (bound .active).retryLimit + 1) :=
  ⟨⟨takes_quiet rfl rfl rfl, rfl, rfl, rfl, rfl, rfl⟩, takes_quiet rfl rfl rfl, rfl, rfl, by decide⟩

theorem witness_DeliveryReportResults :
    Takes (.commitReport 0 1) State.reset State.reset ∧ Takes (.sealedSettledReport 0) State.reset State.reset ∧
      Takes .trackerFreeReport State.reset State.reset :=
  ⟨takes_quiet rfl rfl rfl, takes_quiet rfl rfl rfl, takes_quiet rfl rfl rfl⟩

/-- The header of entry 7, with a payload of one byte. -/
def header7 : List Byte := (entryBytes 7 0 [9]).take 16

theorem witness_DeliveryBufferResults :
    (Takes (.lookupAnswer ⟨0, 0⟩ (.found 3 ⟨290, 1, 20, 0, true⟩)) (deBuffer fun b => { b with state := .locating })
        (deBuffer fun b => { b with state := .locating }) ∧
      (deBuffer fun b => { b with state := .locating }).de.wanted
        ((deBuffer fun b => { b with state := .locating }).de.buffer ⟨0, 0⟩) = true ∧
      ((deBuffer fun b => { b with state := .locating }).de.buffer ⟨0, 0⟩).locate ≠ .crossing) ∧
    (Takes (.holdAnswer ⟨0, 0⟩ .granted) (deBuffer fun b => { b with state := .holding })
        (deBuffer fun b => { b with state := .holding })) ∧
    (Takes (.headerReadDone ⟨0, 0⟩ header7) (deBuffer fun b => { b with state := .reading, hold := true })
        (deBuffer fun b => { b with state := .reading, hold := true }) ∧
      (headerOf header7).kind = .entry ∧ (headerOf header7).seq = 7 ∧ (headerOf header7).length = 1) ∧
    (Takes (.payloadReadDone ⟨0, 0⟩ [9, 0, 0, 0, 0, 0, 0, 0]) (deBuffer fun b => { b with state := .reading, hold := true })
      (deBuffer fun b => { b with state := .reading, hold := true })) ∧
    (Takes (.deliverTaken ⟨0, 0⟩) (deBuffer fun b => { b with state := .ready }) (deBuffer fun b => { b with state := .ready }) ∧
      Takes (.deliverSent ⟨0, 0⟩) (deBuffer fun b => { b with state := .sending }) (deBuffer fun b => { b with state := .sending }) ∧
      (deBuffer fun b => { b with state := .sending }).de.cursors[(0 : CursorId)].nextSeq = 7 ∧
      Takes (.deliverDropped ⟨0, 0⟩) (deBuffer fun b => { b with state := .sending })
        (deBuffer fun b => { b with state := .sending })) :=
  ⟨⟨takes_quiet rfl rfl rfl, by decide, by decide⟩, takes_quiet rfl rfl rfl,
   ⟨takes_quiet rfl rfl rfl, by decide +kernel, by decide +kernel, by decide +kernel⟩, takes_quiet rfl rfl rfl,
   takes_quiet rfl rfl rfl, takes_quiet rfl rfl rfl, rfl, takes_quiet rfl rfl rfl⟩

/-- A retaining ACTIVE cursor of stream 0 with floor 5. -/
def retaining : State := deWith [] fun _ => { bound .active with retaining := true }

theorem witness_RetentionAtDeliveryResults :
    (Takes (.floorQuestion 0) retaining retaining ∧ retaining.de.cursors[(0 : CursorId)].boundTo 0 = true ∧
      retaining.de.cursors[(0 : CursorId)].retaining = true) ∧
    (Takes (.advanceOrder 0 6 .normal) retaining retaining ∧ retaining.de.floor 0 = some 5 ∧ 5 < 6 ∧
      retaining.de.cursors[(0 : CursorId)].ackSeq < 6 - 1 ∧ 5 - 1 ≤ retaining.de.cursors[(0 : CursorId)].ackSeq) ∧
    (Takes (.returnedCursorGap 0 20 sess0) (deWith [] detached) (deWith [] detached) ∧
      (deWith [] detached).de.cursors[(0 : CursorId)].state = .detached ∧
      (deWith [] detached).de.cursors[(0 : CursorId)].owner = none) :=
  ⟨⟨takes_quiet rfl rfl rfl, by decide, rfl⟩, ⟨takes_quiet rfl rfl rfl, by decide +kernel, by decide, by decide, by decide⟩,
   takes_quiet rfl rfl rfl, rfl, rfl⟩

/-! #### The Notice Unit and the Port Engines -/

/-- A port's notice queue with sixteen notices that can all be removed. -/
def fullQueue (q : NuPort) : NuPort := { q with queue := List.replicate 16 (note .streamFull), lost := 2 }

theorem witness_NoticeEventResults :
    (Takes (.noticeEvent ⟨.pressureOn, none, none, some 900, none⟩) (nuWith id) (nuWith id) ∧
      (nuWith id).nu.ports[(0 : Port)].isOpen = true ∧ (nuWith id).nu.ports[(1 : Port)].isOpen = false) ∧
    (Takes (.noticeEvent ⟨.cursorGap, some 0, some 3, some 20, some sess0⟩) (nuWith id) (nuWith id) ∧
      OpenAtNu (nuWith id) sess0 ∧ (nuWith id).nu.ports[(0 : Port)].mask.cursor = true ∧
      (nuWith fun q => { q with draining := true }).nu.ports[(0 : Port)].draining = true ∧ ¬ OpenAtNu State.reset sess0) ∧
    (Takes (.noticeEvent ⟨.restart, none, none, none, some sess0⟩) (nuWith fullQueue) (nuWith fullQueue) ∧
      16 ≤ (nuWith fullQueue).nu.ports[(0 : Port)].queue.length ∧
      (nuWith fullQueue).nu.ports[(0 : Port)].queue = List.replicate 15 (note .streamFull) ++ note .streamFull :: [] ∧
      (note .streamFull).kind ≠ .roleChanged) :=
  ⟨⟨takes_quiet rfl rfl rfl, rfl, rfl⟩, ⟨takes_quiet rfl rfl rfl, ⟨rfl, rfl⟩, rfl, rfl, fun h => absurd h.1 (by decide)⟩,
   takes_quiet rfl rfl rfl, by decide, rfl, by decide⟩

theorem witness_NoticeQueueResults :
    (Takes (.sessionOpenReport sess0 ⟨true, false, false⟩) State.reset State.reset ∧
      Takes (.sessionEndReportAtNu sess0) (nuWith fullQueue) (nuWith fullQueue) ∧ OpenAtNu (nuWith fullQueue) sess0) ∧
    (Takes (.noticeTaken 0) (nuWith fullQueue) (nuWith fullQueue) ∧
      (nuWith fullQueue).nu.ports[(0 : Port)].queue = note .streamFull :: List.replicate 15 (note .streamFull)) ∧
    (Takes (.noticeSentReport sess0 (note .cursorGap) false) (nuWith id) (nuWith id) ∧
      (note .cursorGap).kind ≠ .restart ∧ (note .cursorGap).cursor = some 3 ∧ (note .restart).kind = .restart) ∧
    (Takes (.noticeMask req0) (asked 0x30 [7]) (asked 0x30 [7]) ∧ oneField 1 ((asked 0x30 [7]).body req0) = .ok 7 ∧
      maskOf 7 = some ⟨true, true, true⟩ ∧ oneField 1 [8] = .ok 8 ∧ SessionOpen (asked 0x30 [7]) sess0) :=
  ⟨⟨takes_quiet rfl rfl rfl, takes_quiet rfl rfl rfl, rfl, rfl⟩, ⟨takes_quiet rfl rfl rfl, rfl⟩,
   ⟨takes_quiet rfl rfl rfl, by decide, rfl, rfl⟩, takes_quiet rfl rfl rfl, rfl, rfl, rfl, rfl, rfl⟩

/-- P0 with a claim of slot 0 out, its HELLO in the slot. -/
def claiming : State := peWith fun e =>
  { e with link := true, dev := .ready, sess := { e.sess with claim := some ⟨0, 100, ⟨true, true, true⟩⟩ }
           slots := e.slots.set 0 ⟨.held, 7, 0x01, [1, 0, 100, 7], none, false⟩ }

/-- The PING of slot 0 of P0 is answered OK, and the answer is on its way to P0's own Port Engine. -/
def pongOnItsWay : State := (asked 3 []).post (.pe 0) [.answerArrival 0 0 ⟨.ok, 0, .ping 0 0⟩]

/-- A PING that has not arrived when the teardown order does is answered NO_SESSION in that step (R193). -/
theorem test_teardown_answers_ping :
    (PE.teardown 0 [] (Work.start (asked 3 []).pe[(0 : Port)])).st.slots[(0 : SlotId)].state = .answered := by decide +kernel

/-- The settled answer leaves the wires. -/
theorem test_teardown_settles : pongOnItsWay.wires.length = 1 ∧ (pongOnItsWay.settleOwn 0).wires = [] := by decide

theorem witness_LinkAndTeardownOrderResults :
    (Takes (.stateReport 0 .ready) State.reset State.reset ∧ Takes (.linkLock 0) State.reset State.reset) ∧
    (Takes (.linkLoss 0) State.reset State.reset ∧ State.reset.pe[(0 : Port)].link = false ∧
      (asked 0x20 [0, 9]).pe[(0 : Port)].link = true ∧ (asked 0x20 [0, 9]).pe[(0 : Port)].sess.isOpen = true) ∧
    (Takes (.teardownOrder 0) (asked 0x20 [0, 9]) (asked 0x20 [0, 9]) ∧
      (asked 0x20 [0, 9]).pe[(0 : Port)].sess.claim = none ∧
      handedAway 0 (asked 0x20 [0, 9]).pe[(0 : Port)].slots[(0 : SlotId)] = true) ∧
    (Takes (.teardownOrder 0) claiming claiming ∧
      claiming.pe[(0 : Port)].sess.claim = some ⟨0, 100, ⟨true, true, true⟩⟩ ∧
      claiming.pe[(0 : Port)].sess.isOpen = false ∧ handedAway 0 claiming.pe[(0 : Port)].slots[(0 : SlotId)] = false) ∧
    (Takes (.teardownOrder 0) pongOnItsWay pongOnItsWay ∧ pongOnItsWay.ownAnswers 0 = [(0, ⟨.ok, 0, .ping 0 0⟩)]) ∧
    (Takes (.teardownOrder 0) (asked 3 []) (asked 3 []) ∧
      handedAway 0 (asked 3 []).pe[(0 : Port)].slots[(0 : SlotId)] = false) :=
  ⟨⟨takes_quiet rfl rfl rfl, takes_quiet rfl rfl rfl⟩, ⟨takes_quiet rfl rfl rfl, rfl, rfl, rfl⟩,
   ⟨takes_quiet rfl rfl rfl, rfl, rfl⟩, ⟨takes_quiet rfl rfl rfl, rfl, rfl, rfl⟩, ⟨⟨by decide, rfl⟩, rfl⟩,
   takes_quiet rfl rfl rfl, rfl⟩

/-- P0, UP, with its framer as given. -/
def framing (f : Framer) : State := peWith fun e => { openPe e with framer := f }

set_option maxRecDepth 8192 in
theorem witness_FramerAndRescanResults :
    (Takes (.frameByte 0 0xC3) (framing Framer.init) (framing Framer.init) ∧ (framing Framer.init).pe[(0 : Port)].link = true ∧
      (framing Framer.init).pe[(0 : Port)].framer.state = .hunting) ∧
    ((framing ⟨.header 1, [3, 21, 6], 0⟩).pe[(0 : Port)].framer.buf = [3, 21, 6] ∧
      (0xC3 : Byte) ∉ [(3 : Byte), 21, 6, 0x41]) ∧
    (decide (1600 < (6#8).toNat * 256 + (0x41#8).toNat) = true ∧ decide (1600 < (6#8).toNat * 256 + (0x40#8).toNat) = false) ∧
    (([3, 21, 0, 0, 1] : List Byte) = [3, 21, 0, 0] ++ [1] ∧
      (1#8).toNat * 256 + (2#8).toNat ≠ (crc16 [3, 21, 0, 0]).toNat) ∧
    (Takes (.byteGapAbort 0) (framing ⟨.body 4, [3, 21, 0, 4], 2000⟩) (framing ⟨.body 4, [3, 21, 0, 4], 2000⟩) ∧
      (framing ⟨.body 4, [3, 21, 0, 4], 2000⟩).pe[(0 : Port)].framer.state ≠ .hunting) ∧
    ((⟨.header 1, [3, 0xC3, 6], 0⟩ : Framer).take 0x41 = (⟨.header 1, [3, 0xC3, 6, 0x41], 0⟩, some .badLength)) :=
  ⟨⟨takes_quiet rfl rfl rfl, rfl, rfl⟩, ⟨rfl, by decide⟩, ⟨by decide, by decide⟩, ⟨rfl, by decide +kernel⟩,
   ⟨takes_quiet rfl rfl rfl, by decide⟩, rfl⟩

/-- P0 before the last byte of a PING with tag 21. -/
def pinging : State := framing ⟨.check 1, [3, 21, 0, 0, BitVec.ofNat 8 ((crc16 [3, 21, 0, 0]).toNat / 256)], 0⟩

theorem witness_GoodFrameResults :
    (Takes (.frameByte 0 (BitVec.ofNat 8 (crc16 [3, 21, 0, 0]).toNat)) pinging pinging ∧
      pinging.pe[(0 : Port)].link = true ∧ pinging.pe[(0 : Port)].framer.state = .check 1) ∧
    (pinging.pe[(0 : Port)].framer.buf ++ [BitVec.ofNat 8 (crc16 [3, 21, 0, 0]).toNat] = (frameBytes 3 21 []).tail) ∧
    ((afterGoodFrame 0 pinging.pe[(0 : Port)]).slots[(0 : SlotId)].state = .free ∧
      gateOf 0 3 [] = .any .ping ∧ gateOf 0 0 [] = .unknown ∧ gateOf 0 1 [] = .hello ∧ gateOf 0 0x16 [] = .admin .clockSet ∧
      (afterGoodFrame 0 pinging.pe[(0 : Port)]).dev = .ready ∧ (afterGoodFrame 0 pinging.pe[(0 : Port)]).sess.isOpen = true ∧
      (afterGoodFrame 0 pinging.pe[(0 : Port)]).sess.endPending = .none) ∧
    ((asked 3 []).pe[(0 : Port)].slots[(0 : SlotId)].state ≠ .free ∧ (asked 3 []).pe[(0 : Port)].slots[(0 : SlotId)].tag = 7) :=
  ⟨⟨takes_quiet rfl rfl rfl, rfl, rfl⟩, by decide +kernel, ⟨rfl, rfl, rfl, rfl, rfl, rfl, rfl, rfl⟩, by decide, rfl⟩

theorem witness_AnswerArrivalResults :
    (Takes (.answerArrival 0 0 ⟨.gone, 0, .empty⟩) (asked 0x20 [0, 9]) (asked 0x20 [0, 9]) ∧
      (asked 0x20 [0, 9]).strayAnswer 0 0 ⟨.gone, 0, .empty⟩ = false ∧
      (asked 0x20 [0, 9]).pe[(0 : Port)].slots[(0 : SlotId)].state = .held ∧
      (asked 0x20 [0, 9]).pe[(0 : Port)].slots[(0 : SlotId)].isVoid = false ∧
      (asked 0x20 [0, 9]).pe[(0 : Port)].slots[(0 : SlotId)].owner = some sess0 ∧ SessionOpen (asked 0x20 [0, 9]) sess0 ∧
      ¬ SessionOpen (asked 0x20 [0, 9]) ⟨0, 2⟩) ∧
    ((claiming.post (.core .sd) [.answerArrival 0 0 ⟨.gone, 0, .empty⟩]).strayAnswer 0 0 ⟨.gone, 0, .empty⟩ = true) :=
  ⟨⟨takes_quiet rfl rfl rfl, rfl, rfl, rfl, rfl, ⟨rfl, rfl⟩, fun h => absurd h.2 (by decide)⟩, by decide⟩

/-- P0 with a frame on the line. -/
def sending (src : TxSource) (bytes : List Byte) (reported : Bool) (ending : EndPending) : State := peWith fun e =>
  { openPe e with
    tx := some ⟨src, bytes, reported⟩, sess := { (openPe e).sess with endPending := ending }
    slots := e.slots.set 0 ⟨.answered, 7, 2, [], some sess0, false⟩ }

/-- A DELIVER offered to P0, the device and the Port Engine in READY or in RESTARTING, the line free. -/
def offering (dev : DevState) (report : DevReport) : State :=
  { deBuffer fun b => { b with state := .ready } with
    pe := (peWith fun e => { openPe e with dev := report }).pe, dev := (devIn dev).dev }

theorem test_offer_taken : ((offering .ready .ready).onPe 0 id).pe[(0 : Port)].tx.map Tx.source = some (.deliver ⟨0, 0⟩) := by
  decide +kernel

theorem test_no_offer_in_restart : ((offering .restarting .ready).onPe 0 id).pe[(0 : Port)].tx = none ∧
    ((offering .ready .restarting).onPe 0 id).pe[(0 : Port)].tx = none := by decide +kernel

theorem witness_TransmitterResults :
    Takes (.transmitOffer 0) State.reset State.reset ∧
    (State.reset.pe[(0 : Port)].link = false ∧ (framing Framer.init).pe[(0 : Port)].link = true ∧
      (framing Framer.init).pe[(0 : Port)].tx = none ∧ (framing Framer.init).pe[(0 : Port)].replies = [] ∧
      ((framing Framer.init).peEnv 0).offers = []) ∧
    ((nuWith fullQueue).offeredNotice 0 = some (sess0, note .streamFull)) ∧
    ((deBuffer fun b => { b with state := .ready }).offerOf ⟨0, 0⟩).isSome = true ∧
    (Takes (.frameSent 0) (sending (.reply (.slot 0)) (frameBytes 0x80 7 [2, 0, 0]) false .bye)
        (sending (.reply (.slot 0)) (frameBytes 0x80 7 [2, 0, 0]) false .bye) ∧
      (sending (.reply (.slot 0)) (frameBytes 0x80 7 [2, 0, 0]) false .bye).pe[(0 : Port)].slots[(0 : SlotId)].owner =
        some ⟨0, 1⟩ ∧
      (sending (.deliver ⟨0, 0⟩) [] true .none).pe[(0 : Port)].tx = some ⟨.deliver ⟨0, 0⟩, [], true⟩ ∧
      (sending (.notice sess0 (note .restart)) [] false .restart).pe[(0 : Port)].sess.isOpen = true) :=
  ⟨takes_quiet rfl rfl rfl, ⟨rfl, rfl, rfl, rfl, by decide⟩, by decide, by decide, takes_quiet rfl rfl rfl, rfl, rfl, rfl⟩

/-- P0 with a HELLO in slot 0, no session, the device in a state. -/
def greeting (d : DevReport) (body : List Byte) : State := peWith fun e =>
  { e with link := true, dev := d, slots := e.slots.set 0 ⟨.held, 7, 0x01, body, none, false⟩ }

theorem witness_HelloAndHolderResults :
    (Takes (.hello 0 0) (greeting .ready [0, 0, 100, 7]) (greeting .ready [0, 0, 100, 7]) ∧
      (greeting .ready [0, 0, 100, 7]).pe[(0 : Port)].slots[(0 : SlotId)].state = .held ∧
      (greeting .ready [0, 0, 100, 7]).pe[(0 : Port)].slots[(0 : SlotId)].isVoid = false ∧
      helloBody (greeting .ready [0, 0, 100, 7]).pe[(0 : Port)].slots[(0 : SlotId)].body = .ok ⟨0, 100, 7⟩ ∧
      maskOf 7 = some ⟨true, true, true⟩ ∧ (greeting .ready [0, 0, 100, 7]).pe[(0 : Port)].sess.isOpen = false ∧
      (greeting .ready [0, 0, 100, 7]).pe[(0 : Port)].sess.claim = none ∧
      (greeting .ready [1, 0, 100, 7]).pe[(0 : Port)].grant = true) ∧
    (helloBody [1, 0x27, 0x11, 8] = .ok ⟨1, 10001, 8⟩ ∧ helloBody [] = .error 0 ∧ helloBody [2, 0, 99, 0] = .ok ⟨2, 99, 0⟩) ∧
    (Takes (.adminClaim 0) State.reset State.reset ∧ State.reset.holder = none ∧
      Takes (.adminRelease 0) { State.reset with holder := some 0 } { State.reset with holder := some 0 }) ∧
    (Takes (.adminClaimAnswer 0 true) claiming claiming ∧
      claiming.pe[(0 : Port)].sess.claim = some ⟨0, 100, ⟨true, true, true⟩⟩ ∧ claiming.pe[(0 : Port)].link = true ∧
      claiming.pe[(0 : Port)].grant = true ∧ claiming.pe[(0 : Port)].settled = false) :=
  ⟨⟨takes_quiet rfl rfl rfl, rfl, rfl, rfl, rfl, rfl, rfl, rfl⟩, ⟨rfl, rfl, rfl⟩,
   ⟨takes_quiet rfl rfl rfl, rfl, takes_quiet rfl rfl rfl⟩, takes_quiet rfl rfl rfl, rfl, rfl, rfl, rfl⟩

/-- P0's Port Engine has not taken the READY report yet; the request is one of P1. -/
def notReady (body : List Byte) : State :=
  { State.reset with pe := upd State.reset.pe 1 fun e =>
    { openPe e with slots := e.slots.set 0 ⟨.held, 7, 8, body, some ⟨1, 1⟩, false⟩ } }

/-- The Time Base after its abandon order. -/
def lateClock : State := { asked 0x16 [0, 0, 0, 0, 0, 5] with abandoned := [.tb] }

/-- A CLOCK_SET that arrives after the Time Base's abandon order writes the clock (R177, R206). -/
theorem test_clock_after_abandon : exec (.clockSet req0) lateClock = .next ({ lateClock with
    tb := { lateClock.tb with clock := 5 } }.post (.core .tb) [.answerArrival 0 0 ⟨.ok, 0, .clock 0⟩]) := rfl

theorem witness_SessionPortAndClockResults :
    (Takes (.keepaliveExpiry 0 200) (asked 3 []) (asked 3 []) ∧ (asked 3 []).pe[(0 : Port)].sess.isOpen = true ∧
      (asked 3 []).pe[(0 : Port)].sess.endPending = .none ∧ (asked 3 []).pe[(0 : Port)].sess.deadline = some 200 ∧
      (asked 3 []).pe[(0 : Port)].sess.deadline ≠ some 199) ∧
    (Takes (.bye req0) (asked 2 []) (asked 2 []) ∧ Takes (.ping req0) (asked 3 []) (asked 3 []) ∧
      (asked 2 []).body req0 = [] ∧ (asked 2 [1]).body req0 ≠ [] ∧
      SessionOpen (asked 2 []) req0.sess) ∧
    (Takes (.portStatus req0 0) (asked 8 [0, 1]) (asked 8 [0, 1]) ∧
      idFlagBody ((asked 8 [0, 1]).body req0) = .ok (0, true) ∧ idFlagBody [4, 0] = .ok (4, false)) ∧
    (Takes (.portStatus ⟨⟨1, 1⟩, 0⟩ 0) (notReady [0, 1]) (notReady [0, 1]) ∧
      idFlagBody ((notReady [0, 1]).body ⟨⟨1, 1⟩, 0⟩) = .ok (0, true) ∧ (notReady [0, 1]).pe[(0 : Port)].dev ≠ .ready) ∧
    (Takes (.portGrant req0 0) (asked 0x15 [0, 0]) (asked 0x15 [0, 0]) ∧
      grantBody ((asked 0x15 [0, 0]).body req0) = .ok (0, 0) ∧ grantBody [0, 2] = .ok (0, 2) ∧ grantBody [4, 0] = .ok (4, 0)) ∧
    (Takes (.clockSet req0) (asked 0x16 [0, 0, 0, 0, 0, 5]) (asked 0x16 [0, 0, 0, 0, 0, 5]) ∧
      oneField 6 ((asked 0x16 [0, 0, 0, 0, 0, 5]).body req0) = .ok 5) ∧
    (lateClock.receive (.clockSet req0) = some lateClock ∧ oneField 6 (lateClock.body req0) = .ok 5) :=
  ⟨⟨takes_quiet rfl rfl rfl, rfl, rfl, rfl, by decide⟩,
   ⟨takes_quiet rfl rfl rfl, takes_quiet rfl rfl rfl, rfl, by decide, rfl, rfl⟩, ⟨takes_quiet rfl rfl rfl, rfl, rfl⟩,
   ⟨takes_quiet rfl rfl rfl, rfl, by decide⟩, ⟨takes_quiet rfl rfl rfl, rfl, rfl, rfl⟩, ⟨takes_quiet rfl rfl rfl, rfl⟩, rfl, rfl⟩

/-! #### The Memory Port and the invariants -/

theorem witness_MemoryPortResults :
    (Takes (.mpOperationIssue walk) (mpBusy entry) (mpBusy entry) ∧ (mpBusy entry).mp.busy ≠ none ∧
      State.reset.mp.busy = none ∧ State.reset.mp.maps = []) ∧
    (Takes .mpOperationFinished (mpBusy entry) (mpBusy entry) ∧ reaches true entry = true ∧ writes entry.ref = true ∧
      writes walk.ref = false ∧ reaches true ⟨.walkRead 0, 65536, 0, 16, []⟩ = false ∧
      reaches true ⟨.walkRead 0, 65535, 2032, 16, []⟩ = true ∧ reaches true ⟨.walkRead 0, 65535, 2033, 16, []⟩ = false) ∧
    [State.reset.mp.last, .appendWrite, .deliveryRead, .map] ∈ [[MpClass.map, .appendWrite, .deliveryRead, .map]] :=
  ⟨⟨takes_quiet rfl rfl rfl, by decide, rfl, rfl⟩, ⟨takes_quiet rfl rfl rfl, by decide⟩, by decide⟩

/-- R194: a write at the end of the last page moves as many bytes as it is long, none beyond the DRAM, whatever data it is given. -/
theorem test_write_stays_in_the_dram :
    (Dram.perform ⟨.padWrite, 65535, 2046, 2, [1, 2, 3]⟩ ⟨[], 0⟩).cells = [(134217726, 1), (134217727, 2)] := by decide

theorem witness_FramesAreTakenAsBuilt : Framer.init.state = .hunting ∧ (List.replicate 1600 (0xC3 : Byte)).length ≤ 1600 :=
  ⟨rfl, Nat.le_of_eq List.length_replicate⟩

theorem witness_MemoryChangesOnlyAtTheMemoryPort : exec (.linkLock 2) State.reset =
    .next { State.reset with pe := State.reset.pe.set 2 { PE.init 2 with link := true } } := rfl

/-- PP's pages from 256 up to the last, built, are a state that the pool's invariant holds in. -/
theorem witness_PoolPagesStayAccountedFor :
    State.pagesOk { State.reset with pp := { PP.init with free := [⟨256, 65280⟩] } } := by
  refine .inr ?_
  simp [freeList, PP.init, State.poolSize, Config.poolSize, Config.pages, Config.firstPool, State.reset,
    State.powerUp, Device.init]

theorem witness_StepKeepsTheInvariants : State.reset.memoryOk ∧ State.reset.marksOk ∧ State.reset.queuesOk ∧
    State.reset.grantOk ∧ State.reset.tickOk ∧ State.reset.reservedOk ∧ (quotaState 2 4 1 [⟨256, 1⟩]).reservedOk ∧
    step State.reset = .next { State.reset with tb := ⟨1, 0, 1⟩ } :=
  ⟨rfl, by unfold State.marksOk; decide, by unfold State.queuesOk; decide, rfl, by unfold State.tickOk; decide,
   by unfold State.reservedOk; decide, by unfold State.reservedOk; decide, rfl⟩

theorem witness_FailedIsLeftByResetAlone : (devIn .failed).dev.state = .failed ∧
    exec .buildComplete (devIn .failed) = .next (devIn .failed) := ⟨rfl, rfl⟩

/-! #### Clauses at the boundary of their ranges -/

/-- The Time Base just before a millisecond ends, with these blocks abandoned. -/
def lastMicro (bs : List CoreBlock) : State := { State.reset with tb := ⟨7, 0, 999⟩, abandoned := bs }

/-- The microsecond clause: the millisecond's end with the Time Base at work and abandoned, and the two sides of 2 ms. -/
theorem witness_StepWithoutACommand_time :
    ((lastMicro []).wires = [] ∧ (lastMicro []).dev.low = false ∧ (lastMicro []).tb.micros = 999 ∧
      CoreBlock.tb ∉ (lastMicro []).abandoned ∧ CoreBlock.tb ∈ (lastMicro [.tb]).abandoned ∧
      State.reset.tb.micros ≠ 999) ∧
    ((framing ⟨.body 4, [3, 21, 0, 4], 1999⟩).pe[(0 : Port)].framer.state ≠ .hunting ∧
      (framing ⟨.body 4, [3, 21, 0, 4], 1999⟩).pe[(0 : Port)].framer.gap < 2000 ∧
      2000 ≤ (framing ⟨.body 4, [3, 21, 0, 4], 2000⟩).pe[(0 : Port)].framer.gap) ∧
    ({ State.reset with dev := { State.reset.dev with low := true } } : State).dev.low = true :=
  ⟨⟨rfl, rfl, rfl, by decide, by decide, by decide⟩, ⟨by decide, by decide, by decide⟩, rfl⟩

/-- The OK of an APPEND with AE's commit ahead of it. -/
theorem witness_MessagesArriveInTheOrderSent_commit :
    (State.reset.post (.core .ae) [.commit 0 5 9, .answerArrival 0 0 ⟨.ok, 0, .append 5 9⟩]).wires =
        [⟨.core .ae, .commit 0 5 9⟩] ++ ⟨.core .ae, .answerArrival 0 0 ⟨.ok, 0, .append 5 9⟩⟩ :: [] ∧
      HeldBackBy ⟨.core .ae, .answerArrival 0 0 ⟨.ok, 0, .append 5 9⟩⟩ ⟨.core .ae, .commit 0 5 9⟩ ∧
      ¬ HeldBackBy ⟨.dev, .readyReportAtRu⟩ ⟨.dev, .freeListBuild⟩ :=
  ⟨rfl, ⟨rfl, by decide, .inr ⟨⟨0, 5, 9, rfl⟩, 0, 0, .ok, 0, 5, 9, rfl⟩⟩,
   fun h => by rcases h.2.2 with h | ⟨⟨_, _, _, h⟩, _⟩ <;> cases h⟩

/-- A tune whose claim is out, of a stream that is DELETING meanwhile. -/
def tuningGone : State := sdBoth (fun d => { d with state := .deleting }) fun k => { k with tune := some ⟨req0, defaultValues⟩ }

theorem witness_QuotaClaimAnswerResults_refused :
    Takes (.tuneClaimAnswer 0 (.refused .ceiling)) tuning tuning ∧ Takes (.tuneClaimAnswer 0 (.refused .shared)) tuning tuning ∧
      tuning.sd.streams[(0 : StreamId)].live = true ∧ tuning.sd.works[(0 : StreamId)].waiting = [] ∧
      Takes (.tuneClaimAnswer 0 .granted) tuningGone tuningGone ∧
      tuningGone.sd.works[(0 : StreamId)].tune = some ⟨req0, defaultValues⟩ ∧
      tuningGone.sd.streams[(0 : StreamId)].live = false :=
  ⟨takes_quiet rfl rfl rfl, takes_quiet rfl rfl rfl, rfl, rfl, takes_quiet rfl rfl rfl, rfl, rfl⟩

/-- A SEALED stream, settled or not, with a tail record. -/
def sealedAs (settled : Bool) : State := sdWith fun d =>
  { d with state := .sealed, settled := settled, tailRec := some ⟨300, 5, 9, 0, false⟩ }

theorem witness_PageCloseAndCommitResults_states :
    (Takes (.commit 0 4294967293 7) (sealedAs false) (sealedAs false) ∧
      (sealedAs false).sd.streams[(0 : StreamId)].state = .sealed ∧
      (sealedAs false).sd.streams[(0 : StreamId)].settled = false ∧
      (sealedAs false).sd.streams[(0 : StreamId)].tailRec = some ⟨300, 5, 9, 0, false⟩ ∧ 4294967293 ≠ 4294967294) ∧
    (Takes (.commit 0 51 7) (streamIn .deleting) (streamIn .deleting) ∧
      (streamIn .deleting).sd.streams[(0 : StreamId)].state = .deleting) ∧
    (Takes (.commit 0 51 7) (sealedAs true) (sealedAs true) ∧ (sealedAs true).sd.streams[(0 : StreamId)].settled = true ∧
      Takes (.commit 0 51 7) (streamIn .absent) (streamIn .absent) ∧
      (streamIn .absent).sd.streams[(0 : StreamId)].state = .absent) :=
  ⟨⟨takes_quiet rfl rfl rfl, rfl, rfl, rfl, by decide⟩, ⟨takes_quiet rfl rfl rfl, rfl⟩,
   takes_quiet rfl rfl rfl, rfl, takes_quiet rfl rfl rfl, rfl⟩

/-- MU with four trackers at work on stream 1, and a queue. -/
def muBusy (q : List QueueEntry) : State := muWith fun m =>
  { m with trackers := #v[some ⟨1, 0, [], false⟩, some ⟨1, 1, [], false⟩, some ⟨1, 2, [], false⟩, some ⟨1, 3, [], false⟩]
           queue := q }

/-- The lookup queue's entry of LPN 3 or 4 of stream 0. -/
def queued (lpn : Lpn) (asking : Bool) (a : Option RangeInfo) : QueueEntry := ⟨0, lpn, [.delivery ⟨0, 0⟩], asking, a⟩

/-- A range of a DELETING stream. -/
def rangeGone : RangeInfo := ⟨.deleting, none, none, none⟩

theorem witness_LookupResults_answers :
    (Takes (.rangeAnswer 0 (.lookup 3 (.probe (.delivery ⟨0, 0⟩))) range35) muSearching muSearching ∧
      muSearching.mu.search (.delivery ⟨0, 0⟩) = some ⟨.delivery ⟨0, 0⟩, 0, 45, 0, 0, none, none⟩ ∧
      (none : Option Lpn) ≠ some 3 ∧ rangeGone.state = .deleting) ∧
    ((⟨.opened, none, none, none⟩ : RangeInfo).head = none ∧ range35.state = .opened ∧ 2 < 3 ∧ 5 < 6 ∧
      muCached.mu.cached 0 4 = none) ∧
    ((muWith fun m => { m with trackers := m.trackers.set 0 (some ⟨0, 4, [], false⟩) }).mu.walking 0 4 = some 0 ∧
      (muBusy [queued 4 false none]).mu.walking 0 4 = none ∧
      queued 4 false none ∈ (muBusy [queued 4 false none]).mu.queue) ∧
    ((∀ w : TrackerId, (muBusy []).mu.trackers[w] ≠ none) ∧ (muBusy (List.replicate 7 (queued 9 false none))).mu.queue.length < 8 ∧
      8 ≤ (muBusy (List.replicate 8 (queued 9 false none))).mu.queue.length ∧
      (∀ e ∈ (muBusy (List.replicate 8 (queued 9 false none))).mu.queue, e.stream ≠ 0 ∨ e.lpn ≠ 4)) :=
  ⟨⟨takes_quiet rfl rfl rfl, rfl, by decide, rfl⟩, ⟨rfl, rfl, by decide, by decide, rfl⟩, ⟨rfl, rfl, by decide⟩,
   by decide, by decide, by decide, by decide⟩

theorem witness_LookupResults_queue :
    (Takes (.rangeAnswer 0 (.queued 4) range35) (muBusy [queued 3 true none, queued 4 true none])
        (muBusy [queued 3 true none, queued 4 true none]) ∧
      (muBusy [queued 3 true none, queued 4 true none]).mu.queue = [queued 3 true none] ++ queued 4 true none :: [] ∧
      (∀ x ∈ [queued 3 true none] ++ [], (x.stream ≠ 0 ∨ x.lpn ≠ 4) ∧ x.answer = none)) ∧
    (Takes (.rangeAnswer 0 (.queued 4) range35) (muBusy [queued 4 true none]) (muBusy [queued 4 true none]) ∧
      (muBusy [queued 4 true none]).mu.queue = [] ++ queued 4 true none :: [] ∧ range35.head = some 3 ∧
      range35.tail = some 5 ∧ (muBusy [queued 4 true none]).mu.cached 0 4 = none) ∧
    (Takes (.rangeAnswer 0 (.queued 3) rangeGone) (muBusy [queued 3 true none, queued 4 true (some rangeGone)])
        (muBusy [queued 3 true none, queued 4 true (some rangeGone)]) ∧
      (muBusy [queued 3 true none, queued 4 true (some rangeGone)]).mu.queue =
        queued 3 true none :: queued 4 true (some rangeGone) :: []) ∧
    (Takes (.rangeAnswer 0 (.queued 4) range35) (muBusy [queued 4 false none]) (muBusy [queued 4 false none]) ∧
      ∀ e ∈ (muBusy [queued 4 false none]).mu.queue, e.stream = 0 → e.lpn = 4 → e.asking = false) :=
  ⟨⟨takes_quiet rfl rfl rfl, rfl, by decide⟩, ⟨takes_quiet rfl rfl rfl, rfl, rfl, rfl, rfl⟩,
   ⟨takes_quiet rfl rfl rfl, rfl⟩, takes_quiet rfl rfl rfl, by decide⟩

theorem witness_LookupResults_clear :
    Takes (.walkDone 0 (List.replicate 16 0)) (muWith fun m => { m with
        trackers := m.trackers.set 0 (some ⟨0, 4, [], true⟩), clearDue := m.clearDue.set 0 true })
      (muWith fun m => { m with trackers := m.trackers.set 0 (some ⟨0, 4, [], true⟩), clearDue := m.clearDue.set 0 true }) ∧
    (muWith fun m => { m with trackers := m.trackers.set 0 (some ⟨0, 4, [], true⟩)
                              clearDue := m.clearDue.set 0 true }).mu.clearDue[(0 : StreamId)] = true ∧
    (muWith fun m => m).mu.writes[(0 : StreamId)] = 0 := ⟨takes_quiet rfl rfl rfl, rfl, rfl⟩

/-- A search of cursor 0's positioning for sequence 30, probing page 4 of pages 3 to 5. -/
def probing : Search := ⟨.positioning 0, 0, 30, 3, 5, none, some 4⟩

/-- MU with that search. -/
def muProbing : State := muWith fun m => { m with searches := [probing] }

theorem witness_SearchDeleteAndMapRequestResults_searches :
    (Takes (.lookupBySequence 0 30 (.positioning 0)) State.reset State.reset ∧
      Takes (.rangeAnswer 0 (.search (.delivery ⟨0, 0⟩)) range35) muSearching muSearching ∧ 41 ≤ 41 ∧ 40 < 41 ∧ 3 < 5) ∧
    (muProbing.mu.search (.positioning 0) = some probing ∧ probing.probe = some 4 ∧
      (20 ≤ probing.q ∧ 4 + 1 = probing.stop) ∧ (probing.q < 31 ∧ probing.lo < 4)) ∧
    (Takes (.headRead 0 .teardown) State.reset State.reset ∧
      Takes (.rangeAnswer 0 (.headRead .recycle) range35) muCached muCached ∧
      muCached.mu.cached 0 3 = some ⟨0, 0, 3, ⟨290, 1, 20, 0, true⟩⟩ ∧ State.reset.mu.cached 0 3 = none ∧ rangeGone.head = none) :=
  ⟨⟨takes_quiet rfl rfl rfl, takes_quiet rfl rfl rfl, by decide, by decide, by decide⟩,
   ⟨rfl, rfl, by decide, by decide⟩, takes_quiet rfl rfl rfl, takes_quiet rfl rfl rfl, rfl, rfl, rfl⟩

theorem witness_SearchDeleteAndMapRequestResults_walking :
    Takes (.deleteOrderAtMu 1) (muBusy [queued 3 true none]) (muBusy [queued 3 true none]) ∧
      (∀ e ∈ (muBusy [queued 3 true none]).mu.queue, e.stream ≠ 1 → e.answer = none) ∧
      (muBusy [queued 3 true none]).mu.trackers[(0 : TrackerId)] = some ⟨1, 0, [], false⟩ ∧
      State.reset.mu.writes[(1 : StreamId)] = 0 ∧ (∀ w : TrackerId, State.reset.mu.trackers[w] = none) :=
  ⟨takes_quiet rfl rfl rfl, by decide, rfl, rfl, by decide⟩

/-- AE with one APPEND that waits for a page, marked by a delete order or not. -/
def aeMarked (marked recycled : Bool) : State :=
  { State.reset with ae := { AE.init with queue := [{ job .allocating with marked := marked, recycled := recycled }] } }

theorem witness_AppendAllocationResults_ends :
    (Takes (.refusalAnswer 0 ⟨.opened, .dropOldest, some 5, some 5⟩) (aeMarked false false) (aeMarked false false) ∧
      HeadIs (aeMarked false false) .allocating 0 { job .allocating with marked := false, recycled := false } [] ∧ 5 ≤ 5) ∧
    (Takes (.refusalAnswer 0 ⟨.sealed, .dropOldest, some 4, some 5⟩) (aeMarked false true) (aeMarked false true) ∧
      HeadIs (aeMarked false true) .allocating 0 { job .allocating with marked := false, recycled := true } []) ∧
    (Takes (.refusalAnswer 0 ⟨.opened, .hold, some 4, some 5⟩) (aeMarked true false) (aeMarked true false) ∧
      HeadIs (aeMarked true false) .allocating 0 { job .allocating with marked := true, recycled := false } []) ∧
    (Takes (.refusalAnswer 0 ⟨.deleting, .hold, some 4, some 5⟩) (aeMarked false false) (aeMarked false false)) :=
  ⟨⟨takes_quiet rfl rfl rfl, ⟨rfl, rfl, rfl⟩, by decide⟩, ⟨takes_quiet rfl rfl rfl, rfl, rfl, rfl⟩,
   ⟨takes_quiet rfl rfl rfl, rfl, rfl, rfl⟩, takes_quiet rfl rfl rfl⟩

/-- An evaluation with a view whose age limit is 1 second, and a floor. -/
def ageing (state : StreamState) (clock : Clock) (teardown : Bool) : State :=
  { ruWith fun r => { r with phase := .evaluating, view := some ⟨state, false, 2, 1, 60⟩, floor := some (some 20)
                             teardown := teardown } with tb := ⟨clock, 0, 0⟩ }

theorem witness_EvaluationResults_age :
    (Takes (.evaluationAnswer 0 (.head ⟨.opened, some head35⟩)) (ageing .opened 1000001 false) (ageing .opened 1000001 false) ∧
      MayBeReleased ⟨.opened, false, 2, 1, 60⟩ head35 ∧ normalBound ⟨.opened, false, 2, 1, 60⟩ (some 20) ≤ head35.record.lastSeq ∧
      PastItsAge 1000001 ⟨.opened, false, 2, 1, 60⟩ head35 ∧ ¬ PastItsAge 1000000 ⟨.opened, false, 2, 1, 60⟩ head35) ∧
    (¬ MayBeReleased ⟨.opened, false, 3, 1, 60⟩ head35 ∧ normalBound ⟨.opened, false, 2, 1, 20⟩ none = 21 ∧
      head35.record.lastSeq < 21) ∧
    (Takes (.evaluationAnswer 0 (.head ⟨.deleting, some head35⟩)) (ageing .deleting 0 true) (ageing .deleting 0 true) ∧
      nextOfRelease 0 (ageing .deleting 0 true).ru.recs[(0 : StreamId)] false = [.headRead 0 .teardown]) ∧
    (Takes (.evaluationAnswer 0 (.floor none)) (ruWith fun r => { r with phase := .evaluating })
        (ruWith fun r => { r with phase := .evaluating }) ∧
      (Release.take (.floor none) (ruWith fun r => { r with phase := .evaluating }).ru.recs[(0 : StreamId)]).view = none) :=
  ⟨⟨takes_quiet rfl rfl rfl, ⟨by decide, by decide, by decide⟩, by decide, ⟨by decide, by decide, by decide⟩,
    fun h => absurd h.2.2 (by decide)⟩, ⟨fun h => absurd h.2.2 (by decide), rfl, by decide⟩,
   ⟨takes_quiet rfl rfl rfl, rfl⟩, takes_quiet rfl rfl rfl, rfl⟩

/-- A DELETE release whose page is to be returned. -/
def deleting1 : State := ruWith fun r =>
  { r with phase := .returning, kind := some .delete, page := some ⟨3, 290, 1, 20⟩, m := some 21, teardown := true }

theorem witness_ReleaseResults_delete :
    Takes (.pageReturnedReport 0 290) deleting1 deleting1 ∧ deleting1.ru.recs[(0 : StreamId)].m = some 21 ∧
      deleting1.ru.recs[(0 : StreamId)].kind = some .delete ∧
      deleting1.ru.recs[(0 : StreamId)].page = some ⟨3, 290, 1, 20⟩ ∧ deleting1.ru.recs[(0 : StreamId)].phase = .returning ∧
      nextOfRelease 0 deleting1.ru.recs[(0 : StreamId)] false = [.headRead 0 .teardown] :=
  ⟨takes_quiet rfl rfl rfl, rfl, rfl, rfl, rfl, rfl⟩

theorem witness_RecycleScanAndTeardownResults_noPage :
    Takes (.recycleHeadAnswer 0 ⟨.opened, none⟩) evaluating evaluating ∧
      Takes (.recycleHeadAnswer 0 ⟨.deleting, some head35⟩) evaluating evaluating ∧
      Takes (.recycleHeadAnswer 0 ⟨.opened, some { head35 with head := 5 }⟩) evaluating evaluating ∧
      ({ head35 with head := 5 } : HeadPage).tail ≤ 5 ∧ evaluating.ru.recs[(0 : StreamId)].phase = .evaluating :=
  ⟨takes_quiet rfl rfl rfl, takes_quiet rfl rfl rfl, takes_quiet rfl rfl rfl, by decide, rfl⟩

/-- DE with no free cursor record, none of them of session 1 of P0. -/
def noneFree : State := { asked 0x28 openBytes with de := { DE.init with cursors := Vector.replicate 64 (detached freeCursor) } }

theorem witness_CursorOpenResults_noneFree :
    Takes (.cursorOpen req0) noneFree noneFree ∧ noneFree.de.lowestFree = none ∧ noneFree.de.sessionCount sess0 < 16 :=
  ⟨takes_quiet rfl rfl rfl, by decide +kernel, by decide +kernel⟩

/-- A seek from ACTIVE to sequence 11 whose list holds an exhausted entry. -/
def seekingExhausted : State := deWith [] fun _ =>
  { bound .seeking with work := .position, start := .at 11 true, returnState := some .active, req := some req0
                        list := [{ flying 5 with due := true }] }

theorem witness_PositioningResults_refused :
    (Takes (.positionAnswer 0 3 9) (positioning .position (.at 11 true) none) (positioning .position (.at 11 true) none) ∧
      (positioning .position (.at 11 true) none).de.cursors[(0 : CursorId)].returnState = none ∧ max 3 0 ≤ 11 ∧ 9 + 1 < 11) ∧
    (Takes (.positionAnswer 0 3 9) seekingExhausted seekingExhausted ∧
      seekingExhausted.de.cursors[(0 : CursorId)].returnState = some .active ∧
      { flying 5 with due := true } ∈ seekingExhausted.de.cursors[(0 : CursorId)].list ∧
      Exhausted seekingExhausted.de.cursors[(0 : CursorId)] { flying 5 with due := true } ∧
      ¬ Exhausted seekingExhausted.de.cursors[(0 : CursorId)] { flying 4 with due := true }) ∧
    (Takes (.searchAnswer 0 .gone) (positioning .search (.at 5 true) none) (positioning .search (.at 5 true) none) ∧
      Takes (.searchAnswer 0 .below) (deWith [] fun _ => bound .active) (deWith [] fun _ => bound .active) ∧
      (deWith [] fun _ => bound .active).de.cursors[(0 : CursorId)].state ≠ .seeking) :=
  ⟨⟨takes_quiet rfl rfl rfl, rfl, by decide, by decide⟩,
   ⟨takes_quiet rfl rfl rfl, rfl, by decide, ⟨by decide, rfl, rfl⟩, fun h => absurd h.2.2 (by decide)⟩,
   takes_quiet rfl rfl rfl, takes_quiet rfl rfl rfl, by decide⟩

/-- A cursor with entries 5 and 6 in flight. -/
def flyingTwo (st : CursorState) (tries : Nat) : State := deWith [] fun _ =>
  { bound st with list := [⟨5, 3, 0, 1, false, 500⟩, ⟨6, 3, 24, tries, false, 500⟩] }

theorem witness_AcknowledgementResults_lists :
    (Takes (.ackDeadlineExpiry 0 6 5) (flyingTwo .active 5) (flyingTwo .active 5) ∧
      (⟨6, 3, 24, 5, false, 500⟩ : InFlight) ∈ (flyingTwo .active 5).de.cursors[(0 : CursorId)].list ∧
      NamedBy 6 5 ⟨6, 3, 24, 5, false, 500⟩ ∧ (flyingTwo .active 5).de.cursors[(0 : CursorId)].state = .active ∧
      markedDue 6 5 (flyingTwo .active 5).de.cursors[(0 : CursorId)].list =
        [⟨5, 3, 0, 1, false, 500⟩] ++ ⟨6, 3, 24, 5, true, 500⟩ :: [] ∧
      ¬ Exhausted (flyingTwo .active 5).de.cursors[(0 : CursorId)] ⟨5, 3, 0, 1, false, 500⟩ ∧
      Exhausted (flyingTwo .active 5).de.cursors[(0 : CursorId)] ⟨6, 3, 24, 5, true, 500⟩) ∧
    (Takes (.ackDeadlineExpiry 0 6 4) (flyingTwo .active 4) (flyingTwo .active 4) ∧
      (∀ x ∈ markedDue 6 4 (flyingTwo .active 4).de.cursors[(0 : CursorId)].list, x.tries ≠ 5) ∧
      (flyingTwo .paused 5).de.cursors[(0 : CursorId)].state ≠ .active) ∧
    (Takes (.ackDeadlineExpiry 0 6 3) (flyingTwo .active 4) (flyingTwo .active 4) ∧
      ∀ e ∈ (flyingTwo .active 4).de.cursors[(0 : CursorId)].list, ¬ NamedBy 6 3 e) :=
  ⟨⟨takes_quiet rfl rfl rfl, by decide, ⟨rfl, rfl, rfl⟩, rfl, by decide, fun h => absurd h.2.1 (by decide), by decide, rfl, rfl⟩,
   ⟨takes_quiet rfl rfl rfl, by decide, by decide⟩, takes_quiet rfl rfl rfl, by unfold NamedBy; decide⟩

/-- Buffer 0 of P0 locating entry 7, with its way of locating. -/
def locating (l : Locate) : State := deBuffer fun b => { b with state := .locating, locate := l }

/-- Buffer 0 of P0 reading at an offset, a redelivery or not. -/
def reading (offset : Nat) (again : Bool) : State := deBuffer fun b =>
  { b with state := .reading, hold := true, ppn := 290, lpn := 3, offset := offset, redelivery := again, seq := if again then 5 else 7 }

theorem witness_DeliveryBufferResults_ends :
    (Takes (.lookupAnswer ⟨0, 0⟩ (.found 4 ⟨291, 8, 20, 0, true⟩)) (locating .crossing) (locating .crossing) ∧
      (locating .crossing).de.wanted ((locating .crossing).de.buffer ⟨0, 0⟩) = true ∧
      ((locating .crossing).de.buffer ⟨0, 0⟩).locate = .crossing ∧ ((locating .crossing).de.buffer ⟨0, 0⟩).seq = 7) ∧
    (Takes (.lookupAnswer ⟨0, 0⟩ .retry) (locating .page) (locating .page) ∧
      Takes (.holdAnswer ⟨0, 0⟩ .releasing) (deBuffer fun b => { b with state := .holding })
        (deBuffer fun b => { b with state := .holding })) ∧
    (Takes (.lookupAnswer ⟨0, 0⟩ .gone) (deBuffer fun b => { b with state := .locating, seq := 6 })
        (deBuffer fun b => { b with state := .locating, seq := 6 }) ∧
      (deBuffer fun b => { b with state := .locating, seq := 6 }).de.wanted
        ((deBuffer fun b => { b with state := .locating, seq := 6 }).de.buffer ⟨0, 0⟩) = false) :=
  ⟨⟨takes_quiet rfl rfl rfl, by decide, by decide, by decide⟩, ⟨takes_quiet rfl rfl rfl, takes_quiet rfl rfl rfl⟩,
   takes_quiet rfl rfl rfl, by decide⟩

/-- The header of an entry of one byte. -/
def headerFor (q : Seq) : Header := ⟨.entry, 1, 0, q, 0⟩

theorem witness_DeliveryBufferResults_headers :
    ((reading 0 false).de.wanted ((reading 0 false).de.buffer ⟨0, 0⟩) = true ∧
      Takes (.headerReadDone ⟨0, 0⟩ header7) (reading 0 false) (reading 0 false) ∧ ValidAt 2024 (headerFor 7)) ∧
    (ValidAt 2008 (headerFor 6) ∧ 2008 + storedSize 1 ≤ 2032 ∧ (headerFor 6).seq < 7) ∧
    (LeavesPage ((reading 2009 false).de.buffer ⟨0, 0⟩) (headerFor 6) ∧
      LeavesPage ((reading 2032 false).de.buffer ⟨0, 0⟩) ⟨.pad, 0, 0, 0, 0⟩) ∧
    (Unreachable ((reading 2025 false).de.buffer ⟨0, 0⟩) (headerFor 7) ∧
      Unreachable ((reading 0 false).de.buffer ⟨0, 0⟩) (headerFor 8) ∧
      Unreachable ((reading 0 true).de.buffer ⟨0, 0⟩) (headerFor 4)) :=
  ⟨⟨by decide, takes_quiet rfl rfl rfl, .inr (by decide)⟩, ⟨.inr (by decide), by decide, by decide⟩,
   ⟨⟨.inr (by decide), by decide, .inr (by decide)⟩, ⟨.inl rfl, by decide, .inl rfl⟩⟩,
   .inl (fun h => by rcases h with h | h <;> revert h <;> decide), .inr (.inl (by decide)), .inr (.inr (by decide))⟩

/-- Buffer 0 of P0 sending, as given, for a cursor as given. -/
def sendingFor (c : Cursor) (f : Buffer → Buffer) : State :=
  { deBuffer (fun b => f { b with state := .sending }) with
    de := { (deBuffer fun b => f { b with state := .sending }).de with cursors := upd DE.init.cursors 0 fun _ => c } }

theorem witness_DeliveryBufferResults_recorded :
    (Takes (.deliverSent ⟨0, 0⟩) (sendingFor (bound .paused) id) (sendingFor (bound .paused) id) ∧
      Recorded (bound .paused) ((sendingFor (bound .paused) id).de.buffer ⟨0, 0⟩)) ∧
    (Recorded { bound .active with list := [flying 1] }
        ((sendingFor { bound .active with list := [flying 1] } fun b => { b with redelivery := true, seq := 5, damaged := true }).de.buffer
          ⟨0, 0⟩)) ∧
    (RacedTheStall (bound .stalled) ((sendingFor (bound .stalled) id).de.buffer ⟨0, 0⟩)) ∧
    (¬ Recorded (bound .active) ((sendingFor (bound .active) fun b => { b with seq := 6 }).de.buffer ⟨0, 0⟩) ∧
      ¬ RacedTheStall (bound .active) ((sendingFor (bound .active) fun b => { b with seq := 6 }).de.buffer ⟨0, 0⟩)) :=
  ⟨⟨takes_quiet rfl rfl rfl, by unfold Recorded; decide⟩, by unfold Recorded; decide, by unfold RacedTheStall; decide,
   by unfold Recorded; decide, by unfold RacedTheStall; decide⟩

/-- A cursor that a bind is out for, at the start of a stream. -/
def opening : State := deWith [] fun c => { binding .head c with stream := some 0 }

theorem witness_RetentionAtDeliveryResults_orders :
    (Takes (.advanceOrder 0 6 .age) (deWith [] fun _ => bound .active) (deWith [] fun _ => bound .active) ∧
      MovedBy 0 6 (bound .active) ∧ ¬ MovedBy 0 5 (bound .active) ∧
      (deWith [] fun _ => bound .active).de.floor 0 = none) ∧
    (Takes (.advanceOrder 0 6 .recycle) opening opening ∧ opening.de.cursors[(0 : CursorId)].stream = some 0 ∧
      ¬ MovedBy 0 6 opening.de.cursors[(0 : CursorId)] ∧ opening.de.cursors[(0 : CursorId)].state = .free ∧
      opening.de.cursors[(0 : CursorId)].work = .bind) ∧
    (Takes (.returnedCursorGap 0 20 ⟨0, 2⟩) (deWith [] fun _ => bound .active) (deWith [] fun _ => bound .active) ∧
      (bound .active).owner = some sess0 ∧ sess0 ≠ ⟨0, 2⟩ ∧ (bound .active).endDue = false ∧
      Takes (.returnedCursorGap 1 20 sess0) (deWith [] detached) (deWith [] detached) ∧
      (deWith [] detached).de.cursors[(1 : CursorId)].state = .free) :=
  ⟨⟨takes_quiet rfl rfl rfl, ⟨by decide, by decide⟩, fun h => absurd h.2 (by decide), by decide +kernel⟩,
   ⟨takes_quiet rfl rfl rfl, rfl, fun h => absurd h.1 (by decide), rfl, rfl⟩,
   takes_quiet rfl rfl rfl, rfl, by decide, rfl, takes_quiet rfl rfl rfl, by decide⟩

/-- P0 with a HELLO in a void slot, its link UP again. -/
def greetingVoid : State := peWith fun e =>
  { e with link := true, dev := .ready, slots := e.slots.set 0 ⟨.held, 7, 0x01, [0, 0, 100, 7], none, true⟩ }

theorem witness_HelloAndHolderResults_void :
    Takes (.hello 0 0) greetingVoid greetingVoid ∧ greetingVoid.pe[(0 : Port)].slots[(0 : SlotId)].state = .held ∧
      greetingVoid.pe[(0 : Port)].slots[(0 : SlotId)].isVoid = true ∧
      helloBody greetingVoid.pe[(0 : Port)].slots[(0 : SlotId)].body = .ok ⟨0, 100, 7⟩ :=
  ⟨takes_quiet rfl rfl rfl, rfl, rfl, rfl⟩

theorem witness_FramesAreTakenAsBuilt_layouts :
    ((⟨65535, 4294967295, 4294967295, 0, false⟩ : MapRec).ppn < 65536 ∧ 4294967295 < 4294967296) ∧
    (List.replicate 65535 (0 : Byte)).length < 65536 ∧ 16 ≤ 16 ∧ 2048 ≤ 2048 :=
  ⟨⟨by decide, by decide⟩, by rw [List.length_replicate]; decide, by decide, by decide⟩

/-- Every descriptor OPEN under another name than the one asked for. -/
def noneAbsent : State := askedSd createBytes { State.reset with
  sd := { State.reset.sd with streams := Vector.replicate 32 (freshDescriptor .opened [0x62] defaultValues) } }

theorem witness_StreamCreateAndTuneResults_checks :
    (createBody [0, 0, 0, 0, 0, 0, 0, 0, 0, 0, 0, 0, 1, 0] = .ok ⟨⟨none, none, none, none, none⟩, [0]⟩ ∧ (0 : Byte) ∈ [(0 : Byte)] ∧
      createBody ([0, 0, 0, 0, 0, 0, 0, 0, 0, 0, 0, 0, 25] ++ List.replicate 25 0x61) =
        .ok ⟨⟨none, none, none, none, none⟩, List.replicate 25 0x61⟩) ∧
    (checkQuota 2 defaultValues ⟨some 2, none, none, none, none⟩ = .error 2 ∧
      checkQuota 2 defaultValues ⟨none, some 257, none, none, none⟩ = .error 3 ∧
      checkQuota 2 defaultValues ⟨none, some 1025, some 1025, none, none⟩ = .error 4 ∧
      checkQuota 2 defaultValues ⟨none, none, none, some 257, some 86401⟩ = .error 5 ∧
      checkQuota 3 defaultValues ⟨none, none, none, none, some 86401⟩ = .error 7) ∧
    (Takes (.streamCreate req0) (askedSd createBytes creating) (askedSd createBytes creating) ∧
      (askedSd createBytes creating).sd.works[(0 : StreamId)].create = some ⟨req0, [0x61], defaultValues⟩) ∧
    (Takes (.streamCreate req0) noneAbsent noneAbsent ∧ (∀ i : StreamId, noneAbsent.sd.streams[i].state ≠ .absent) ∧
      (∀ i : StreamId, noneAbsent.sd.streams[i].name ≠ [0x61]) ∧ ∀ i : StreamId, noneAbsent.sd.works[i].create = none) ∧
    (tuneBody (32 :: List.replicate 12 0) = .ok (32, ⟨none, none, none, none, none⟩) ∧
      (askedSd tuneBytes (streamIn .absent)).sd.streams[(0 : StreamId)].state = .absent ∧
      (askedSd tuneBytes (streamIn .deleting)).sd.streams[(0 : StreamId)].state = .deleting) :=
  ⟨⟨rfl, by decide, rfl⟩, ⟨rfl, rfl, rfl, rfl, rfl⟩, ⟨takes_quiet rfl rfl rfl, rfl⟩,
   ⟨takes_quiet rfl rfl rfl, by decide +kernel, by decide +kernel, by decide +kernel⟩, rfl, rfl, rfl⟩

/-- Page 256 recorded for stream 0, which holds it alone and has a reservation. -/
def heldPage (reservation : Nat) (r : PageRec) : State :=
  { poolWith r with pp := (poolWith r).pp.onQuota 0 fun _ => ⟨true, reservation, 4, 1⟩ }

theorem witness_AllocationResult_table :
    ((∃ u, exec (.allocationRequest 0) (quotaState 2 4 1 [⟨256, 1⟩]) = .next u ∧ u.pp.quotas[(0 : StreamId)].held = 2) ∧
      ∃ u, exec (.allocationRequest 0) (quotaState 1 4 1 [⟨256, 1⟩]) = .next u ∧ u.pp.quotas[(0 : StreamId)].held = 2) ∧
    (Takes (.holdDrop 256) (heldPage 1 (page256 true 1 false)) (heldPage 1 (page256 true 1 false)) ∧
      (heldPage 1 (page256 true 1 false)).pp.quotas[(0 : StreamId)].held - 1 <
        (heldPage 1 (page256 true 1 false)).pp.quotas[(0 : StreamId)].reservation) ∧
    (Takes (.handOver 0 256 .normal) (heldPage 0 (page256 false 0 false)) (heldPage 0 (page256 false 0 false)) ∧
      (heldPage 0 (page256 false 0 false)).pp.quotas[(0 : StreamId)].reservation ≤
        (heldPage 0 (page256 false 0 false)).pp.quotas[(0 : StreamId)].held - 1 ∧
      (heldPage 0 (page256 false 0 false)).reservedOk) :=
  ⟨⟨⟨_, rfl, rfl⟩, _, rfl, rfl⟩, ⟨takes_quiet rfl rfl rfl, by decide⟩, takes_quiet rfl rfl rfl, by decide,
   by unfold State.reservedOk; decide⟩

/-- MU with map writes of a deleted stream 0 in flight. -/
def clearing (writes : Nat) : State := muWith fun m =>
  { m with writes := m.writes.set 0 writes, clearDue := m.clearDue.set 0 true }

theorem witness_MapWriteAndClearResults_last :
    Takes (.mapWriteDone 0 1023 ⟨300, 1, 2, 0, true⟩) (clearing 1) (clearing 1) ∧
      (clearing 1).mu.clearDue[(0 : StreamId)] = true ∧ (clearing 1).mu.writes[(0 : StreamId)] = 1 ∧
      (∀ w : TrackerId, (clearing 1).mu.trackers[w] = none) ∧ 2 ≤ (clearing 2).mu.writes[(0 : StreamId)] :=
  ⟨takes_quiet rfl rfl rfl, rfl, rfl, by decide, by decide⟩

/-- AE with one APPEND that asks for its place, marked by a delete order. -/
def markedPlacing : State :=
  { State.reset with ae := { AE.init with queue := [{ job .placing with marked := true }], sealOwed := AE.init.sealOwed.set 0 true } }

theorem witness_AppendPlacingResults_refused :
    Takes (.placeAnswer 0 ⟨.deleting, .none, 50, none, none⟩) (aeWith .placing) (aeWith .placing) ∧
      Takes (.placeAnswer 0 ⟨.sealed, .request, 50, none, none⟩) (aeWith .placing) (aeWith .placing) ∧
      (job .placing).marked = false ∧
      (Takes (.placeAnswer 0 ⟨.sealed, .request, 50, none, none⟩) markedPlacing markedPlacing ∧
        HeadIs markedPlacing .placing 0 { job .placing with marked := true } [] ∧
        markedPlacing.ae.sealOwed[(0 : StreamId)] = true) :=
  ⟨takes_quiet rfl rfl rfl, takes_quiet rfl rfl rfl, rfl, takes_quiet rfl rfl rfl, ⟨rfl, rfl, rfl⟩, rfl⟩

/-- A seek whose search has found a page, its position question out. -/
def seekingFound (q : Seq) (exact : Bool) : State := deWith [] fun _ =>
  { bound .seeking with work := .position, start := .at q exact, returnState := some .paused, req := some req0
                        found := some (.found 3 ⟨290, 8, 20, 0, true⟩) }

theorem witness_PositioningResults_hint :
    (Takes (.positionAnswer 0 3 9) (seekingFound 10 true) (seekingFound 10 true) ∧
      (seekingFound 10 true).de.cursors[(0 : CursorId)].found = some (.found 3 ⟨290, 8, 20, 0, true⟩) ∧
      (seekingFound 10 true).de.cursors[(0 : CursorId)].waiting = [] ∧
      (seekingFound 10 true).de.cursors[(0 : CursorId)].endDue = false) ∧
    (Takes (.positionAnswer 0 3 9) (seekingFound 12 false) (seekingFound 12 false) ∧ min (max 12 (max 3 0)) (9 + 1) ≠ 12) :=
  ⟨⟨takes_quiet rfl rfl rfl, rfl, rfl, rfl⟩, takes_quiet rfl rfl rfl, by decide⟩

/-- A PAUSED cursor with an entry in flight that is due and has been sent as often as the limit allows. -/
def pausedExhausted : State := deWith [0] fun _ => { bound .paused with list := [{ flying 5 with due := true }] }

theorem witness_CursorOwnerRequestResults_refused :
    (Takes (.cursorSeek req0) (deWith [0, 3, 0, 0, 0, 0, 0] fun _ => bound .stalled)
        (deWith [0, 3, 0, 0, 0, 0, 0] fun _ => bound .stalled) ∧ seekBody [0, 3, 0, 0, 0, 0, 0] = .ok (0, ⟨3, 0, 0⟩) ∧
      seekBody [0, 2, 2, 0, 0, 0, 0] = .ok (0, ⟨2, 2, 0⟩) ∧ seekBody [0, 2, 1, 0, 0, 0, 0] = .ok (0, ⟨2, 1, 0⟩)) ∧
    (Takes (.cursorResume req0) pausedExhausted pausedExhausted ∧
      pausedExhausted.de.cursors[(0 : CursorId)].list = [] ++ { flying 5 with due := true } :: [] ∧
      Exhausted pausedExhausted.de.cursors[(0 : CursorId)] { flying 5 with due := true }) :=
  ⟨⟨takes_quiet rfl rfl rfl, rfl, rfl, rfl⟩, takes_quiet rfl rfl rfl, rfl, by decide, rfl, rfl⟩

theorem witness_DeliveryReportResults_drained :
    Takes (.sealedSettledReport 0) (deWith [] fun _ => { bound .active with ackSeq := 0, nextSeq := 1 })
        (deWith [] fun _ => { bound .active with ackSeq := 0, nextSeq := 1 }) ∧
      ({ bound .active with ackSeq := 0, nextSeq := 1 } : Cursor).boundTo 0 = true ∧
      (deWith [] fun _ => { bound .active with ackSeq := 0, nextSeq := 1 }).de.views[(0 : StreamId)].committed = 0 ∧
      ({ bound .active with ackSeq := 0, nextSeq := 1 } : Cursor).owner = some sess0 :=
  ⟨takes_quiet rfl rfl rfl, by decide, rfl, rfl⟩

/-- Cursor 0 is ACTIVE at sequence 7, which has been committed and not yet reported. -/
def awaitingCommit : State := deWith [] fun _ => bound .active

/-- DE when the commit of sequence 7 has been reported. -/
def committedDe : DE :=
  { awaitingCommit.de with views := upd awaitingCommit.de.views 0 fun v => { v with committed := max v.committed 7 } }

/-- No choice is due after reset; after the commit report cursor 0 alone may be chosen, for port 0, and its delivery begins with
a search. -/
theorem witness_DeliveryReportResults_choice :
    ((∀ b : BufId, ∀ k, ¬ MayBeChosen { State.reset.de with deferred := Vector.replicate 64 false } b.port k) ∧
      Takes .trackerFreeReport State.reset State.reset) ∧
    (Takes (.commitReport 0 7) awaitingCommit awaitingCommit ∧ MayBeChosen committedDe 0 0 ∧
      (∀ (p : Port) (j : CursorId), j ≠ 0 → ¬ MayBeChosen committedDe p j) ∧
      (∀ b : BufId, (committedDe.buffer b).state = .idle) ∧
      BeginsDelivery ⟨0, 0⟩ 0 0 committedDe.cursors[(0 : CursorId)]
        { idleBuffer with state := .locating, locate := .sequence, owner := some sess0, seq := 7 }
        (.lookupBySequence 0 7 (.delivery ⟨0, 0⟩))) := by
  refine ⟨⟨fun b k h => ?_, takes_quiet rfl rfl rfl⟩, takes_quiet rfl rfl rfl, ?_, fun p j hj h => ?_, fun ⟨p, i⟩ => ?_, ?_⟩
  · have none : ∀ (p : Port) (k : CursorId),
        DE.qualifies { State.reset.de with deferred := Vector.replicate 64 false } p k = false := by decide +kernel
    have := (DE.qualifies_iff _ _ _).2 h
    rw [none] at this
    cases this
  · exact (DE.qualifies_iff _ _ _).1 (by decide +kernel)
  · have none : ∀ (p : Port) (k : CursorId), k ≠ 0 → committedDe.qualifies p k = false := by decide +kernel
    have := (DE.qualifies_iff _ _ _).2 h
    rw [none p j hj] at this
    cases this
  · revert p i
    decide +kernel
  · exact .inr ⟨by decide, .inr (.inr ⟨rfl, rfl, rfl⟩)⟩

theorem witness_SessionAndStreamEndAtDeliveryResults_messages :
    (Takes (.sessionEndAtDe sess0) (deWith [] fun _ => { bound .active with retaining := true })
        (deWith [] fun _ => { bound .active with retaining := true }) ∧
      sessionEndMessages sess0 { bound .active with retaining := true } = [.unbind 0, .evaluationTrigger 0] ∧
      sessionEndMessages sess0 { bound .active with durable := true } = []) ∧
    (Takes (.deleteOrderAtDe 0) rebinding rebinding ∧ rebinding.de.cursors[(0 : CursorId)].boundTo 0 = true ∧
      deleteMessages 0 rebinding.de.cursors[(0 : CursorId)] = [.answerArrival 0 0 ⟨.gone, 0, .empty⟩, .unbind 0]) ∧
    (deleteMessages 0 { bound .seeking with req := some req0 } = [.answerArrival 0 0 ⟨.gone, 0, .empty⟩, .unbind 0] ∧
      deleteMessages 0 { bound .active with req := some req0 } = [.unbind 0]) :=
  ⟨⟨takes_quiet rfl rfl rfl, by decide, by decide⟩, ⟨takes_quiet rfl rfl rfl, by decide, by decide⟩, by decide, by decide⟩

/-- DE with ACTIVE cursors 0 and 1 and an offered DELIVER for one of them, a request for cursor 0 in slot 0. -/
def offered (c : CursorId) (ws : List Wire) : State :=
  { asked 0x28 [0] with
    de := { DE.init with
      cursors := upd (upd DE.init.cursors 0 fun _ => bound .active) 1 fun _ => bound .active
      buffers := DE.init.buffers.set 0 #v[{ idleBuffer with state := .ready, cursor := c, owner := some sess0, seq := 7 }, idleBuffer] }
    wires := ws }

theorem witness_DeliveryBufferResults_withdrawn :
    (Takes (.cursorPause req0) (offered 0 []) (offered 0 []) ∧ oneField 1 ((offered 0 []).body req0) = .ok 0 ∧
      (offered 0 []).de.cursors[(0 : CursorId)].owner = some req0.sess ∧ ((offered 0 []).de.buffer ⟨0, 0⟩).state = .ready) ∧
    Takes (.cursorPause req0) (offered 0 [⟨.pe 0, .deliverTaken ⟨0, 0⟩⟩]) (offered 0 [⟨.pe 0, .deliverTaken ⟨0, 0⟩⟩]) ∧
    (Takes (.cursorPause req0) (offered 1 []) (offered 1 []) ∧ ((offered 1 []).de.buffer ⟨0, 0⟩).cursor ≠ 0 ∧
      (offered 1 []).de.wanted ((offered 1 []).de.buffer ⟨0, 0⟩) = true) ∧
    (Takes .trackerFreeReport (offered 1 []) (offered 1 []) ∧
      ∃ u, exec .trackerFreeReport (offered 1 []) = .next u ∧ (u.de.buffer ⟨0, 0⟩).state = .ready) :=
  ⟨⟨takes_quiet rfl rfl rfl, rfl, rfl, rfl⟩, ⟨rfl, rfl⟩, ⟨takes_quiet rfl rfl rfl, by decide, by decide⟩,
   takes_quiet rfl rfl rfl, _, rfl, by decide +kernel⟩

end Sys2Proof.Tests
end

/-! SUPPORT. The Stream Directory's descriptors: the page opens and commits of AE (R6, R8, R10), RU's updates of a release (R9),
and the answers that give DE the effective head (R5). -/

namespace Sys2Proof.Machine

/-! ### Events and the messages they send -/

/-- An event at SD touches SD and the messages on their way. -/
theorem State.onSd_only (t : State) (f : Work SD → Work SD) : OnlySd t (t.onSd f) := by
  simp [OnlySd, State.onSd, State.post]

/-- An event at SD whose work is known: SD takes the state that the work ends in, and its messages go out. -/
theorem State.onSd_eq {t : State} {f : Work SD → Work SD} {sd : SD} {ms : List Instr}
    (h : f (Work.start t.sd) = ⟨sd, ms⟩) : t.onSd f = ({ t with sd := sd } : State).post (.core .sd) ms := by
  simp only [State.onSd, h]

/-- A message that goes out under a condition. -/
theorem Work.send_if {β : Type} (c : Prop) [Decidable c] (w : Work β) (m : Instr) :
    (if c then w.send m else w) = ⟨w.st, w.out ++ if c then [m] else []⟩ := by
  split
  · rfl
  · rw [List.append_nil]

/-- Without a message nothing is posted. -/
@[simp] theorem State.post_nil (t : State) (b : Block) : t.post b [] = t := by simp [State.post]

/-- What a block posts after a change of SD's state is what it sends. -/
theorem State.post_sends (t : State) (sd : SD) (b : Block) (ms : List Instr) :
    Sends b t (({ t with sd := sd } : State).post b ms) ms := rfl

/-! ### The commands of this part where they take effect -/

theorem exec_pageOpen {i : StreamId} {ppn : Ppn} {s t : State} (h : Takes (.pageOpen i ppn) s t) :
    exec (.pageOpen i ppn) s = .next (t.onSd (SD.pageOpen i ppn)) := arrive_takes h _

theorem exec_commit {i : StreamId} {seq : Seq} {stamp : Clock} {s t : State} (h : Takes (.commit i seq stamp) s t) :
    exec (.commit i seq stamp) s = .next (t.onSd (SD.commit i seq stamp)) := arrive_takes h _

theorem exec_sealAnswer {i : StreamId} {s t : State} (h : Takes (.sealAnswer i) s t) :
    exec (.sealAnswer i) s = .next (t.onSd (SD.sealAnswer i)) := arrive_takes h _

theorem exec_placeAnswer {i : StreamId} {info : PlaceInfo} {s t : State} (h : Takes (.placeAnswer i info) s t) :
    exec (.placeAnswer i info) s = .next (t.onAe (AE.placeAnswer t.tb.clock t.headPayload i info)) := arrive_takes h _

theorem exec_releaseMarkSet {i : StreamId} {m : Seq} {s t : State} (h : Takes (.releaseMarkSet i m) s t) :
    exec (.releaseMarkSet i m) s = .next (t.onSd (SD.releaseMarkSet i m)) := arrive_takes h _

theorem exec_releaseMarkClear {i : StreamId} {s t : State} (h : Takes (.releaseMarkClear i) s t) :
    exec (.releaseMarkClear i) s = .next (t.onSd (SD.releaseMarkClear i)) := arrive_takes h _

theorem exec_headRaise {i : StreamId} {m : Seq} {s t : State} (h : Takes (.headRaise i m) s t) :
    exec (.headRaise i m) s = .next (t.onSd (SD.headRaise i m)) := arrive_takes h _

theorem exec_positionQuestion {i : StreamId} {c : CursorId} {s t : State} (h : Takes (.positionQuestion i c) s t) :
    exec (.positionQuestion i c) s = .next (t.onSd (SD.positionQuestion i c)) := arrive_takes h _

theorem exec_bind {i : StreamId} {c : CursorId} {s t : State} (h : Takes (.bind i c) s t) :
    exec (.bind i c) s = .next (t.onSd (SD.bind i c)) := arrive_takes h _

theorem exec_rebind {i : StreamId} {c : CursorId} {s t : State} (h : Takes (.rebind i c) s t) :
    exec (.rebind i c) s = .next (t.onSd (SD.rebind i c)) := arrive_takes h _

/-! ### A descriptor that is changed -/

@[simp] theorem SD.onStream_stream (sd : SD) (i : StreamId) (f : Descriptor → Descriptor) :
    (sd.onStream i f).streams[i] = f sd.streams[i] := upd_self _ _ _

/-- Two changes of a descriptor are one change. -/
theorem SD.onStream_onStream (sd : SD) (i : StreamId) (f g : Descriptor → Descriptor) :
    (sd.onStream i f).onStream i g = sd.onStream i fun d => g (f d) := by
  simp only [SD.onStream, upd_upd]

/-- A present stream is live unless it is DELETING. -/
theorem Descriptor.live_of_present {d : Descriptor} (h : d.state ≠ .absent) : d.live = !decide (d.state = .deleting) := by
  unfold Descriptor.live
  cases hd : d.state with
  | absent => exact absurd hd h
  | opened | sealed | deleting => rfl

/-- While the release mark is set it bounds the effective head from below (R5, R9). -/
theorem Descriptor.effectiveHead_marked {d : Descriptor} {m : Seq} (h : d.releaseMark = some m) :
    d.effectiveHead = max d.headSeq m := by
  rw [Descriptor.effectiveHead, h, Option.getD_some]

/-- The state rows of R17 refuse no live stream. -/
theorem Descriptor.bindRefusal_live {d : Descriptor} (h : d.live = true) : d.bindRefusal = none := by
  unfold Descriptor.live at h
  unfold Descriptor.bindRefusal
  cases hd : d.state with
  | opened | sealed => rfl
  | absent | deleting => simp [hd] at h

/-! ### Page opens (R6) -/

/-- The descriptor after a page open (R6). -/
def Descriptor.pageOpened (ppn : Ppn) (d : Descriptor) : Descriptor :=
  { d with
    tailLpn := some d.nextLpn
    nextLpn := d.nextLpn + 1
    headLpn := if d.headLpn = none then some d.nextLpn else d.headLpn
    tailRec := some { ppn := ppn, firstSeq := 0, lastSeq := 0, newestStamp := 0, closed := false } }

/-- The trigger of R132 goes out for a live stream alone. -/
theorem SD.trigger_eq (i : StreamId) (w : Work SD) :
    SD.trigger i w = ⟨w.st, w.out ++ if w.st.streams[i].live then [.evaluationTrigger i] else []⟩ := by
  rw [SD.trigger, Work.send_if]

/-- A page open of a present stream, and the trigger of a live one (R6, R132). -/
theorem SD.pageOpen_eq {i : StreamId} {w : Work SD} (ppn : Ppn) (h : w.st.streams[i].state ≠ .absent) :
    SD.pageOpen i ppn w = ⟨w.st.onStream i (Descriptor.pageOpened ppn),
      w.out ++ if w.st.streams[i].state = .deleting then [] else [.evaluationTrigger i]⟩ := by
  have head (d : Descriptor) : some (d.headLpn.getD d.nextLpn) = if d.headLpn = none then some d.nextLpn else d.headLpn := by
    cases d.headLpn <;> rfl
  have live : (w.st.streams[i].pageOpened ppn).live = !decide (w.st.streams[i].state = .deleting) :=
    Descriptor.live_of_present (d := w.st.streams[i].pageOpened ppn) h
  rw [SD.pageOpen, if_neg h, SD.trigger_eq]
  simp only [head]
  change Work.mk (w.st.onStream i (Descriptor.pageOpened ppn)) (w.out ++
    if ((w.st.onStream i (Descriptor.pageOpened ppn)).streams[i]).live then _ else _) = _
  rw [SD.onStream_stream, live]
  by_cases hd : w.st.streams[i].state = .deleting <;> simp [-Fin.getElem_fin, hd]

/-! ### Commits and seals (R8, R10, R16) -/

/-- The descriptor after a commit that is applied (R8). -/
def Descriptor.committedAt (seq : Seq) (stamp : Clock) (d : Descriptor) : Descriptor :=
  { d with
    committed := seq
    tailRec := d.tailRec.map (commitRecord seq stamp)
    counters := { d.counters with appended := count d.counters.appended 1 } }

/-- The descriptor that the last sequence has sealed: EXHAUSTED, and settled at once (R10). -/
def Descriptor.exhausted (d : Descriptor) : Descriptor :=
  { d with state := .sealed, sealCause := .exhausted, settled := true }

/-- SD's work once a commit is applied and DE of a live stream is told, before R10 looks at the sequence (R8). -/
def SD.afterCommit (i : StreamId) (seq : Seq) (stamp : Clock) (w : Work SD) : Work SD :=
  ⟨w.st.onStream i (Descriptor.committedAt seq stamp),
    w.out ++ if w.st.streams[i].live then [.commitReport i seq] else []⟩

/-- A commit in a state that takes it is applied, and in OPEN the last sequence then seals the stream (R8, R10). -/
theorem SD.commit_eq {i : StreamId} {seq : Seq} {w : Work SD} (stamp : Clock) (ht : w.st.streams[i].takesCommit = true) :
    SD.commit i seq stamp w =
      if w.st.streams[i].state = .opened ∧ seq = lastSeq then
        SD.tellSettled i (((SD.afterCommit i seq stamp w).mod fun sd => sd.onStream i Descriptor.exhausted).send
          (streamEvent .streamSealed i (some 1)))
      else SD.afterCommit i seq stamp w := by
  simp only [SD.commit, ht, Bool.not_true, Bool.false_eq_true, if_false, Work.send_if, Work.mod_st, Work.mod_out,
    SD.onStream_stream, Bool.and_eq_true, decide_eq_true_eq]
  rfl

/-- The commit of the last sequence in OPEN (R8, R10). -/
theorem SD.commit_exhausting {i : StreamId} {w : Work SD} (stamp : Clock) (h : w.st.streams[i].state = .opened) :
    SD.commit i lastSeq stamp w = ⟨w.st.onStream i fun d => (d.committedAt lastSeq stamp).exhausted,
      w.out ++ [.commitReport i lastSeq, streamEvent .streamSealed i (some 1), .evaluationTrigger i,
        .sealedSettledReport i]⟩ := by
  have takes : w.st.streams[i].takesCommit = true := by rw [Descriptor.takesCommit, h]
  have live : w.st.streams[i].live = true := by rw [Descriptor.live, h]; rfl
  rw [SD.commit_eq stamp takes, if_pos ⟨h, rfl⟩, SD.afterCommit, live, if_pos rfl]
  simp only [SD.tellSettled, Work.mod, Work.send, Work.sendAll, SD.onStream_onStream, List.append_assoc, List.cons_append,
    List.nil_append]

/-- A commit in a state that takes it, where R10 does not seal the stream (R8). -/
theorem SD.commit_applied {i : StreamId} {seq : Seq} {w : Work SD} (stamp : Clock)
    (ht : w.st.streams[i].takesCommit = true) (hs : ¬ (w.st.streams[i].state = .opened ∧ seq = lastSeq)) :
    SD.commit i seq stamp w = SD.afterCommit i seq stamp w := by
  rw [SD.commit_eq stamp ht, if_neg hs]

/-- AE's seal answer settles a SEALED stream, and RU and DE are told (R16). -/
theorem SD.sealAnswer_sealed {i : StreamId} {w : Work SD} (h : w.st.streams[i].state = .sealed) :
    SD.sealAnswer i w = ⟨w.st.onStream i fun d => { d with settled := true },
      w.out ++ [.evaluationTrigger i, .sealedSettledReport i]⟩ := by
  rw [SD.sealAnswer, h]
  rfl

/-! ### AE at a sealed stream (R71) -/

/-- The next APPEND's change of state leaves the queue as long as it was. -/
@[simp] theorem nextPlacing_length (l : List Job) : (nextPlacing l).length = l.length := by
  cases l <;> rfl

/-- The APPEND at the head of the queue is the one that its state and its stream name. -/
theorem AE.headIn_head {a : AE} {j : Job} {rest : List Job} (h : a.queue = j :: rest) :
    a.headIn j.state j.stream = some j := by
  simp [AE.headIn, AE.head, h]

/-- A place answer SEALED refuses the APPEND in progress by the cause of the seal (R71). -/
theorem AE.placeAnswer_sealed {a : Work AE} {j : Job} {rest : List Job} {info : PlaceInfo} (clock : Clock)
    (payload : List Byte) (hq : a.st.queue = j :: rest) (hj : j.state = .placing) (hs : info.state = .sealed) :
    AE.placeAnswer clock payload j.stream info a =
      AE.finish true (refusal (if info.sealCause = .exhausted then .seqExhausted else .sealed) 0) a := by
  have head := AE.headIn_head hq
  rw [hj] at head
  simp only [AE.placeAnswer, head, hs]

/-! ### The updates of a release (R9) -/

/-- A release-mark set on a present stream (R9). -/
theorem SD.releaseMarkSet_eq {i : StreamId} {w : Work SD} (m : Seq) (h : w.st.streams[i].state ≠ .absent) :
    SD.releaseMarkSet i m w = ⟨w.st.onStream i fun d => { d with releaseMark := some m },
      w.out ++ [.releaseMarkSetAnswer i]⟩ := by
  rw [SD.releaseMarkSet, if_neg h]
  rfl

/-- A head raise below the tail page moves the head by one page (R9). -/
theorem SD.headRaise_moves {i : StreamId} {w : Work SD} {h k : Lpn} (m : Seq) (hh : w.st.streams[i].headLpn = some h)
    (hk : w.st.streams[i].tailLpn = some k) (lt : h < k) :
    SD.headRaise i m w = ⟨w.st.onStream i fun d => { d with headSeq := m, headLpn := some (h + 1) },
      w.out ++ [.headRaiseAnswer i]⟩ := by
  simp only [SD.headRaise, hh, hk, if_pos lt]
  rfl

/-- A head raise at the tail page leaves the stream without pages; next_lpn keeps its value (R9). -/
theorem SD.headRaise_empties {i : StreamId} {w : Work SD} {k : Lpn} (m : Seq) (hh : w.st.streams[i].headLpn = some k)
    (hk : w.st.streams[i].tailLpn = some k) :
    SD.headRaise i m w =
      ⟨w.st.onStream i fun d => { d with headSeq := m, headLpn := none, tailLpn := none, tailRec := none },
        w.out ++ [.headRaiseAnswer i]⟩ := by
  simp only [SD.headRaise, hh, hk, if_neg (Nat.lt_irrefl k)]
  rfl

/-! ### What DE is told of the head (R5, R17, R91, R104) -/

/-- A bind of a live stream with fewer than eight cursors is granted (R17). -/
theorem SD.bind_granted {i : StreamId} {w : Work SD} (c : CursorId) (hl : w.st.streams[i].live = true)
    (hc : w.st.streams[i].cursorCount < 8) :
    SD.bind i c w = ⟨w.st.onStream i fun d => { d with cursorCount := d.cursorCount + 1 },
      w.out ++ [.bindAnswer c (.granted w.st.streams[i].effectiveHead w.st.streams[i].committed)]⟩ := by
  simp only [SD.bind, Descriptor.bindRefusal_live hl, if_neg (Nat.not_le.2 hc)]
  rfl

/-- A rebind of a live stream is granted (R104). -/
theorem SD.rebind_granted {i : StreamId} {w : Work SD} (c : CursorId) (hl : w.st.streams[i].live = true) :
    SD.rebind i c w =
      w.send (.rebindAnswer c (.granted w.st.streams[i].effectiveHead w.st.streams[i].committed)) := by
  simp only [SD.rebind, Descriptor.bindRefusal_live hl]

end Sys2Proof.Machine

/-! The statements about the Stream Directory's pages, its last sequence and its releases. -/

section
open Sys2Proof Sys2Proof.Machine

/-- Settles O15: OPEN, SEALED and DELETING are the states of a present stream, and R6's rule is one for these. -/
theorem pageOpenResult : Obligations.PageOpenResult := by
  intro i ppn s t h present
  have notAbsent : t.sd.streams[i].state ≠ .absent := by
    rcases present with e | e | e <;> rw [e] <;> decide
  rw [exec_pageOpen h, State.onSd_eq (SD.pageOpen_eq ppn notAbsent)]
  rfl

/-- Settles O17: the commit in OPEN by R10's rule for the last sequence, the commit in SEALED by R8's rule alone, the refused
APPEND by the rule for one that leaves the queue. -/
theorem exhaustingCommitSealsTheStream : Obligations.ExhaustingCommitSealsTheStream := by
  refine ⟨fun i stamp s t h opened => ?_, fun i info j rest s t h hs hc hq hj hi hm => ?_,
    fun i stamp s t h hs unsettled => ?_, fun i s t h hs => ?_⟩
  · refine ⟨_, exec_commit h, State.onSd_only _ _, ?_⟩
    rw [State.onSd_eq (f := SD.commit i 4294967294 stamp) (SD.commit_exhausting stamp opened)]
    simp only [State.post_sd, Work.start_st, SD.onStream_stream]
    exact ⟨rfl, rfl, rfl, rfl, State.post_sends _ _ _ _⟩
  · subst hi
    have leaves : AE.placeAnswer t.tb.clock t.headPayload j.stream info (Work.start t.ae) = _ :=
      AE.placeAnswer_sealed _ _ hq hj hs
    rw [if_pos hc] at leaves
    obtain ⟨-, -, only, queue, -, sends⟩ := State.onAe_finish leaves hq rfl rfl
    refine ⟨_, exec_placeAnswer h, only, by rw [queue, nextPlacing_length], _, sends, ?_, ?_⟩
    · simp [hm]
    · simp [hm, reply, refusal]
  · have takes : t.sd.streams[i].takesCommit = true := by simp only [Descriptor.takesCommit, hs, unsettled, Bool.not_false]
    have live : t.sd.streams[i].live = true := by simp only [Descriptor.live, hs]; rfl
    refine ⟨_, exec_commit h, State.onSd_only _ _, ?_⟩
    have notOpened : ¬ (t.sd.streams[i].state = .opened ∧ 4294967294 = lastSeq) := by simp [-Fin.getElem_fin, hs]
    have applied : SD.commit i 4294967294 stamp (Work.start t.sd) =
        ⟨t.sd.onStream i (Descriptor.committedAt 4294967294 stamp), [.commitReport i 4294967294]⟩ := by
      rw [SD.commit_applied stamp takes notOpened, SD.afterCommit, Work.start_st, live]
      rfl
    rw [State.onSd_eq applied]
    simp only [State.post_sd, SD.onStream_stream]
    exact ⟨hs, rfl, unsettled, rfl, State.post_sends _ _ _ _⟩
  · refine ⟨_, exec_sealAnswer h, ?_⟩
    rw [State.onSd_eq (SD.sealAnswer_sealed hs)]
    exact ⟨by rw [State.post_sd, SD.onStream_stream], State.post_sends _ _ _ _⟩

/-- Settles O18: the three updates, then the effective head in the three answers to DE, which R9's mark bounds from below. -/
theorem releaseUpdateResults : Obligations.ReleaseUpdateResults := by
  refine ⟨fun i m s t present => ⟨fun h => ?_, fun h => ?_, fun head tail h hh hk => ⟨fun lt => ?_, fun e => ?_⟩⟩,
    fun i c m s t marked => ⟨fun h => ?_, fun h live room => ⟨_, exec_bind h, ?_⟩, fun h live => ?_⟩⟩
  · rw [exec_releaseMarkSet h, State.onSd_eq (SD.releaseMarkSet_eq m present)]
    rfl
  · rw [exec_releaseMarkClear h, State.onSd_eq (ms := []) rfl, State.post_nil]
    rfl
  · rw [exec_headRaise h, State.onSd_eq (SD.headRaise_moves m hh hk lt)]
    rfl
  · subst e
    rw [exec_headRaise h, State.onSd_eq (SD.headRaise_empties m hh hk)]
    rfl
  · rw [exec_positionQuestion h, ← Descriptor.effectiveHead_marked marked]
    rfl
  · rw [State.onSd_eq (SD.bind_granted c live room), ← Descriptor.effectiveHead_marked marked]
    exact State.post_sends _ _ _ _
  · rw [exec_rebind h, State.onSd_eq (SD.rebind_granted c live), ← Descriptor.effectiveHead_marked marked]
    rfl

end

/-! SUPPORT. The Page Pool's records: an event at PP, the page that leaves the records, and the hold drop with the release that it
completes (R34, R36, R37). -/

namespace Sys2Proof.Machine

/-! ### Events at PP -/

/-- An event at PP touches PP and the messages on their way. -/
theorem State.onPp_only (t : State) (f : Work PP → Work PP) : OnlyPp t (t.onPp f) := by
  simp [OnlyPp, State.onPp, State.post]

/-- An event at PP whose work is known: PP takes the state that the work ends in, and its messages go out. -/
theorem State.onPp_eq {t : State} {f : Work PP → Work PP} {pp : PP} {ms : List Instr}
    (h : f (Work.start t.pp) = ⟨pp, ms⟩) : t.onPp f = ({ t with pp := pp } : State).post (.core .pp) ms := by
  simp only [State.onPp, h]

/-- The accounting of an event leaves the record of every page. -/
theorem State.accounted_page (t : State) (p : PP) (answers : List Instr) (q : Ppn) :
    (t.accounted p answers).pp.page q = p.page q := by
  simp only [PP.page, State.accounted_pages]

theorem exec_holdDrop {ppn : Ppn} {s t : State} (h : Takes (.holdDrop ppn) s t) :
    exec (.holdDrop ppn) s = .next (t.onPp (PP.holdDrop ppn)) := arrive_takes h _

/-! ### A RELEASING page that is completed (R36, R37) -/

/-- The pool in which a page has become FREE: it stands at the tail of the free list, no record names it, and its owner holds one
page fewer (R36). -/
def PP.freed (r : PageRec) (p : PP) : PP :=
  { (p.onQuota r.owner fun q => { q with held := q.held - 1 }) with
    free := putFree r.ppn p.free, pages := p.pages.filter fun x => x.ppn ≠ r.ppn }

/-- The record of a page that is ALLOCATED to its owner again (R37). -/
def PageRec.recycled (r : PageRec) : PageRec := { r with releasing := false, recycle := false }

/-- A page that has become FREE has no record. -/
theorem PP.freed_page_self (r : PageRec) (p : PP) : (p.freed r).page r.ppn = none := by
  simp [PP.page, PP.freed]

/-- A page that becomes FREE leaves the other pages' records. -/
theorem PP.freed_page_ne {r : PageRec} {q : Ppn} (p : PP) (h : q ≠ r.ppn) : (p.freed r).page q = p.page q := by
  have found (x : PageRec) : (x.ppn ≠ r.ppn ∧ x.ppn = q) ↔ x.ppn = q :=
    and_iff_right_of_imp fun e => by rwa [e]
  simp only [PP.page, PP.freed, List.find?_filter, decide_eq_true_eq, beq_iff_eq, found]
  rfl

/-- A page that goes back to its owner leaves the other pages' records. -/
theorem PP.recycled_page_ne {ppn q : Ppn} (p : PP) (h : q ≠ ppn) : (p.onPage ppn PageRec.recycled).page q = p.page q :=
  PP.onPage_ne (fun _ => rfl) h

/-- A completed page that is not to be recycled becomes FREE, and RU is told (R36). -/
theorem PP.complete_freed {r : PageRec} (w : Work PP) (h : r.recycle = false) :
    PP.complete r w = (PP.account w (PP.freed r)).send (.pageReturnedReport r.owner r.ppn) := by
  rw [PP.complete, h]
  rfl

/-- A completed page that is to be recycled goes back to its owner, and AE and RU are told (R37). -/
theorem PP.complete_recycled {r : PageRec} (w : Work PP) (h : r.recycle = true) :
    PP.complete r w = ⟨(w.st.onPage r.ppn PageRec.recycled).onCounters fun k => { k with recycles := count k.recycles 1 },
      w.out ++ [.recycledPage r.owner r.ppn, .pageReturnedReport r.owner r.ppn]⟩ := by
  rw [PP.complete, h]
  rfl

/-! ### A hold drop (R34) -/

/-- The record of a page with one hold fewer. -/
def PageRec.dropped (r : PageRec) : PageRec := { r with holds := r.holds - 1 }

/-- A drop for a page with no hold is not applied. -/
theorem PP.holdDrop_unheld {ppn : Ppn} {r : PageRec} {w : Work PP} (h : w.st.page ppn = some r) (hh : r.holds = 0) :
    PP.holdDrop ppn w = w := by
  simp only [PP.holdDrop, h, if_pos hh]

/-- A drop of a hold falls on the record, and completes the page where it was the last of a RELEASING one. -/
theorem PP.holdDrop_held {ppn : Ppn} {r : PageRec} {w : Work PP} (h : w.st.page ppn = some r) (hh : 1 ≤ r.holds) :
    PP.holdDrop ppn w = if r.releasing = true ∧ r.holds = 1
      then PP.complete { r with holds := 0 } (w.mod fun p => p.onPage ppn PageRec.dropped)
      else w.mod fun p => p.onPage ppn PageRec.dropped := by
  simp only [PP.holdDrop, h, if_neg (Nat.one_le_iff_ne_zero.1 hh), Bool.and_eq_true, decide_eq_true_eq]
  rfl

/-- A drop that leaves a hold, or that falls on an ALLOCATED page, changes the record alone. -/
theorem PP.holdDrop_kept {ppn : Ppn} {r : PageRec} {w : Work PP} (h : w.st.page ppn = some r) (hh : 1 ≤ r.holds)
    (kept : r.releasing = false ∨ 2 ≤ r.holds) :
    PP.holdDrop ppn w = w.mod fun p => p.onPage ppn PageRec.dropped := by
  have unfinished : ¬ (r.releasing = true ∧ r.holds = 1) := by
    rintro ⟨releasing, last⟩
    rcases kept with e | e
    · simp [releasing] at e
    · omega
  rw [PP.holdDrop_held h hh, if_neg unfinished]

/-- A drop of the last hold on a RELEASING page completes it. -/
theorem PP.holdDrop_last {ppn : Ppn} {r : PageRec} {w : Work PP} (h : w.st.page ppn = some r) (hh : r.holds = 1)
    (releasing : r.releasing = true) :
    PP.holdDrop ppn w = PP.complete { r with holds := 0 } (w.mod fun p => p.onPage ppn PageRec.dropped) := by
  rw [PP.holdDrop_held h (Nat.le_of_eq hh.symm), if_pos ⟨releasing, hh⟩]

/-- A dropped hold leaves the other pages' records. -/
theorem PP.dropped_page_ne {ppn q : Ppn} (p : PP) (h : q ≠ ppn) : (p.onPage ppn PageRec.dropped).page q = p.page q :=
  PP.onPage_ne (fun _ => rfl) h

end Sys2Proof.Machine

/-! The statement about hold drops. -/

section
open Sys2Proof Sys2Proof.Machine

/-- Settles O23: R34's four cases, the completed release by R36's rule and by R37's. -/
theorem holdDropResult : Obligations.HoldDropResult := by
  intro ppn r s t h page
  obtain ⟨rfl, -⟩ := PP.page_ppn page
  refine ⟨fun unheld => ?_, fun held kept => ?_, fun last releasing notRecycle => ?_, fun last releasing recycle => ?_⟩
  · rw [exec_holdDrop h, State.onPp_eq (PP.holdDrop_unheld page unheld), State.post_nil]
  · refine ⟨_, exec_holdDrop h, State.onPp_only _ _, ?_⟩
    rw [State.onPp_eq (PP.holdDrop_kept page held kept)]
    exact ⟨PP.onPage_self (fun _ e => e) page, fun _ => PP.dropped_page_ne t.pp, rfl, rfl, rfl, List.append_nil _⟩
  · have freed := (PP.holdDrop_last (w := Work.start t.pp) page last releasing).trans (PP.complete_freed _ notRecycle)
    refine ⟨_, putFree r.ppn t.pp.free, by rw [exec_holdDrop h, State.onPp_accounted freed], ?_, fun q hq => ?_,
      freeList_putFree _ _, ?_⟩
    · rw [State.accounted_page]
      exact PP.freed_page_self { r with holds := 0 } _
    · rw [State.accounted_page]
      exact (PP.freed_page_ne _ hq).trans (PP.dropped_page_ne t.pp hq)
    · rw [State.accounted_pages]
      rfl
  · have recycled := (PP.holdDrop_last (w := Work.start t.pp) page last releasing).trans (PP.complete_recycled _ recycle)
    refine ⟨_, exec_holdDrop h, State.onPp_only _ _, ?_⟩
    rw [State.onPp_eq recycled]
    have record : { r with holds := 0, releasing := false, recycle := false } = r.dropped.recycled := by
      simp only [PageRec.recycled, PageRec.dropped, last]
    refine ⟨?_, fun q hq => ?_, rfl, rfl, rfl, rfl⟩
    · rw [record]
      exact PP.onPage_self (fun _ e => e) (PP.onPage_self (fun _ e => e) page)
    · exact (PP.recycled_page_ne _ hq).trans (PP.dropped_page_ne t.pp hq)

end

/-! SUPPORT. Lists: facts that core Lean, on which the model's modules are built, states for other operations only. -/

namespace Sys2Proof.Machine

section Lists

variable {α β : Type} {l : List α}

theorem flatMap_congr_mem {f g : α → List β} (h : ∀ a ∈ l, f a = g a) : l.flatMap f = l.flatMap g := by
  rw [List.flatMap_def, List.flatMap_def, List.map_congr_left h]

theorem filterMap_congr_mem {f g : α → Option β} (h : ∀ a ∈ l, f a = g a) : l.filterMap f = l.filterMap g := by
  induction l with
  | nil => rfl
  | cons a l ih =>
    rw [List.filterMap_cons, List.filterMap_cons, h a List.mem_cons_self, ih fun b hb => h b (List.mem_cons_of_mem _ hb)]

theorem find?_congr_mem {p q : α → Bool} (h : ∀ a ∈ l, p a = q a) : l.find? p = l.find? q := by
  rw [← List.head?_filter, ← List.head?_filter, List.filter_congr h]

/-- Two members of a list whose images differ pairwise are one where their images are one. -/
theorem eq_of_nodup_map {f : α → β} (h : (l.map f).Nodup) {x y : α} (hx : x ∈ l) (hy : y ∈ l) (e : f x = f y) : x = y := by
  induction l with
  | nil => cases hx
  | cons a l ih =>
    obtain ⟨fresh, rest⟩ := List.nodup_cons.1 h
    rcases List.mem_cons.1 hx with hxa | later <;> rcases List.mem_cons.1 hy with hya | other
    · exact hxa.trans hya.symm
    · exact absurd (List.mem_map.2 ⟨y, other, e.symm.trans (congrArg f hxa)⟩) fresh
    · exact absurd (List.mem_map.2 ⟨x, later, e.trans (congrArg f hya)⟩) fresh
    · exact ih rest later other

/-- A list that has a last element is the others and that element. -/
theorem dropLast_append_of_getLast? {a : α} (h : l.getLast? = some a) : l.dropLast ++ [a] = l := by
  obtain ⟨front, rfl⟩ := List.getLast?_eq_some_iff.1 h
  rw [List.dropLast_concat]

end Lists

end Sys2Proof.Machine

/-! SUPPORT. The Port Engine's grant: no operation of a Port Engine but PORT_GRANT moves it (R164, R174). -/

namespace Sys2Proof.Machine

/-- What a fold's every step leaves as it was, the fold leaves as it was. -/
theorem foldl_keeps {α β γ : Type} (proj : β → γ) {f : β → α → β} (step : ∀ b a, proj (f b a) = proj b) (l : List α) (b : β) :
    proj (l.foldl f b) = proj b := by
  induction l generalizing b with
  | nil => rfl
  | cons a l ih => rw [List.foldl_cons, ih, step]

@[simp] theorem PE.onSlot_grant (e : PE) (i : SlotId) (f : Slot → Slot) : (e.onSlot i f).grant = e.grant := rfl
@[simp] theorem PE.onSess_grant (e : PE) (f : Session → Session) : (e.onSess f).grant = e.grant := rfl
@[simp] theorem PE.onCounters_grant (e : PE) (f : PortCounters → PortCounters) : (e.onCounters f).grant = e.grant := rfl
@[simp] theorem PE.hunt_grant (e : PE) : e.hunt.grant = e.grant := rfl
@[simp] theorem PE.overrun_grant (e : PE) : e.overrun.grant = e.grant := rfl
@[simp] theorem PE.voidHeld_grant (e : PE) : e.voidHeld.grant = e.grant := rfl

@[simp] theorem PE.freeSource_grant (src : ReplySource) (e : PE) : (e.freeSource src).grant = e.grant := by
  cases src <;> rfl

@[simp] theorem PE.countRefused_grant (a : Answer) (e : PE) : (e.countRefused a).grant = e.grant := by
  unfold PE.countRefused
  split <;> rfl

@[simp] theorem PE.answered_grant (p : Port) (i : SlotId) (a : Answer) (e : PE) : (e.answered p i a).grant = e.grant := by
  unfold PE.answered
  dsimp only
  split
  · simp
  · split <;> simp

@[simp] theorem PE.tagBusy_grant (kind tag : Byte) (e : PE) : (e.tagBusy kind tag).grant = e.grant := by
  simp [PE.tagBusy]

@[simp] theorem PE.discardReplies_grant (sess : SessId) (e : PE) : (e.discardReplies sess).grant = e.grant := by
  unfold PE.discardReplies
  rw [foldl_keeps PE.grant fun e (r : Reply) => PE.freeSource_grant r.source e]

@[simp] theorem PE.clearReplies_grant (e : PE) : e.clearReplies.grant = e.grant := by
  unfold PE.clearReplies
  rw [foldl_keeps PE.grant fun e (r : Reply) => PE.freeSource_grant r.source e]

@[simp] theorem PE.settle_grant (p : Port) (w : Work PE) : (PE.settle p w).st.grant = w.st.grant := by
  unfold PE.settle
  dsimp only
  split <;> rfl

@[simp] theorem PE.dropTx_grant (w : Work PE) : (PE.dropTx w).st.grant = w.st.grant := by
  unfold PE.dropTx
  split
  · rfl
  · split
    · rfl
    · dsimp only
      split <;> rfl

@[simp] theorem PE.endSession_grant (p : Port) (w : Work PE) : (PE.endSession p w).st.grant = w.st.grant := by
  unfold PE.endSession
  simp only [PE.settle_grant, PE.dropTx_grant, Work.mod_st, PE.discardReplies_grant, Work.sendAll_st]
  split <;> rfl

@[simp] theorem PE.cutTx_grant (w : Work PE) : (PE.cutTx w).st.grant = w.st.grant := by
  unfold PE.cutTx
  dsimp only
  split
  · simp
  · simp only [Work.mod_st]
    split <;> simp

@[simp] theorem PE.arbitrate_grant (p : Port) (env : PeEnv) (w : Work PE) : (PE.arbitrate p env w).st.grant = w.st.grant := by
  unfold PE.arbitrate
  dsimp only
  split
  · rfl
  · split
    · rfl
    · split
      · split <;> rfl
      · rfl
      · rfl
      · rfl

@[simp] theorem PE.refuseGate_grant (p : Port) (i : SlotId) (st : Status) (w : Work PE) :
    (PE.refuseGate p i st w).st.grant = w.st.grant := by
  simp [PE.refuseGate]

@[simp] theorem PE.route_grant (p : Port) (i : SlotId) (go : Req → Instr) (w : Work PE) :
    (PE.route p i go w).st.grant = w.st.grant := rfl

@[simp] theorem PE.gate_grant (p : Port) (i : SlotId) (kind : Byte) (body : List Byte) (w : Work PE) :
    (PE.gate p i kind body w).st.grant = w.st.grant := by
  unfold PE.gate
  split
  · simp
  · rfl
  · split <;> simp
  · split
    · simp
    · split <;> simp

@[simp] theorem PE.allot_grant (p : Port) (kind tag : Byte) (body : List Byte) (w : Work PE) :
    (PE.allot p kind tag body w).st.grant = w.st.grant := by
  unfold PE.allot
  split
  · simp only [Work.mod_st]
    split <;> simp
  · split <;> simp

@[simp] theorem PE.accept_grant (p : Port) (tick : Tick) (kind tag : Byte) (body : List Byte) (w : Work PE) :
    (PE.accept p tick kind tag body w).st.grant = w.st.grant := by
  simp [PE.accept]

@[simp] theorem PE.feed_grant (p : Port) (tick : Tick) (fuel : Nat) (bytes : List Byte) (w : Work PE) :
    (PE.feed p tick fuel bytes w).st.grant = w.st.grant := by
  induction fuel generalizing bytes w with
  | zero => rfl
  | succ fuel ih =>
    unfold PE.feed
    split
    · rfl
    · rw [ih, PE.accept_grant, Work.mod_st, PE.hunt_grant]
    · rw [ih]
      rfl

@[simp] theorem PE.openSession_grant (p : Port) (tick : Tick) (i : SlotId) (role : Role) (keepalive : Nat) (mask : Mask)
    (w : Work PE) : (PE.openSession p tick i role keepalive mask w).st.grant = w.st.grant := rfl

@[simp] theorem PE.refuseHello_grant (p : Port) (i : SlotId) (st : Status) (detail : Nat) (w : Work PE) :
    (PE.refuseHello p i st detail w).st.grant = w.st.grant := rfl

/-! ### The events at a Port Engine -/

theorem PE.linkLoss_grant (p : Port) (w : Work PE) : (PE.linkLoss p w).st.grant = w.st.grant := by
  unfold PE.linkLoss
  dsimp only
  split
  · rfl
  · split <;> simp

theorem PE.frameByte_grant (p : Port) (tick : Tick) (b : Byte) (w : Work PE) :
    (PE.frameByte p tick b w).st.grant = w.st.grant := by
  unfold PE.frameByte
  split <;> simp

theorem PE.byteGapAbort_grant (p : Port) (tick : Tick) (w : Work PE) :
    (PE.byteGapAbort p tick w).st.grant = w.st.grant := by
  unfold PE.byteGapAbort
  dsimp only
  split <;> simp

theorem PE.takeAnswer_grant (p : Port) (i : SlotId) (a : Answer) (stray : Bool) (w : Work PE) :
    (PE.takeAnswer p i a stray w).st.grant = w.st.grant := by
  unfold PE.takeAnswer
  simp only [Work.mod_st]
  split <;> simp

theorem PE.frameSent_grant (p : Port) (w : Work PE) : (PE.frameSent p w).st.grant = w.st.grant := by
  unfold PE.frameSent
  split
  · rfl
  · dsimp only
    split
    · unfold PE.replyOut
      dsimp only
      split
      all_goals split <;> simp
    · split <;> rfl
    · split
      · rfl
      · unfold PE.noticeOut
        dsimp only
        split <;> simp

theorem PE.keepaliveExpiry_grant (p : Port) (deadline : Tick) (w : Work PE) :
    (PE.keepaliveExpiry p deadline w).st.grant = w.st.grant := by
  unfold PE.keepaliveExpiry
  dsimp only
  split <;> simp

theorem PE.hello_grant (p : Port) (env : PeEnv) (i : SlotId) (w : Work PE) :
    (PE.hello p env i w).st.grant = w.st.grant := by
  have opened (b : HelloBody) : (PE.helloOpen p env.tick i b w).st.grant = w.st.grant := by
    unfold PE.helloOpen
    split
    · rfl
    · rfl
    · split <;> rfl
  unfold PE.hello
  dsimp only
  split
  · rfl
  · split
    · rfl
    · split
      · rfl
      · split
        · rfl
        · split
          · rfl
          · exact opened _

theorem PE.claimAnswer_grant (p : Port) (tick : Tick) (granted : Bool) (w : Work PE) :
    (PE.claimAnswer p tick granted w).st.grant = w.st.grant := by
  unfold PE.claimAnswer
  split
  · rfl
  · dsimp only
    split
    · rfl
    · split
      · split <;> rfl
      · rw [PE.settle_grant]
        split <;> rfl

theorem PE.bye_grant (r : Req) (body : List Byte) (w : Work PE) : (PE.bye r body w).st.grant = w.st.grant := by
  refine Work.layout_keeps (P := fun x : Work PE => x.st.grant = w.st.grant) (fun _ => rfl) fun _ => ?_
  simp only [Work.answer_st, Work.mod_st]
  split <;> rfl

theorem PE.ping_grant (env : PeEnv) (r : Req) (body : List Byte) (w : Work PE) :
    (PE.ping env r body w).st.grant = w.st.grant :=
  Work.layout_keeps (P := fun x : Work PE => x.st.grant = w.st.grant) (fun _ => rfl) fun _ => rfl

theorem PE.portStatus_grant (p : Port) (cursors queue lost : Nat) (r : Req) (body : List Byte) (w : Work PE) :
    (PE.portStatus p cursors queue lost r body w).st.grant = w.st.grant := by
  refine Work.layout_keeps (P := fun x : Work PE => x.st.grant = w.st.grant) (fun _ => rfl) fun b => ?_
  split
  · rfl
  · dsimp only
    split <;> rfl

theorem PE.teardown_grant (p : Port) (own : List (SlotId × Answer)) (w : Work PE) :
    (PE.teardown p own w).st.grant = w.st.grant := by
  have take (e : PE) : (PE.takeOwn p own e).grant = e.grant := by
    unfold PE.takeOwn
    rw [foldl_keeps PE.grant fun e (a : SlotId × Answer) => PE.answered_grant p a.1 a.2 e]
  have held (e : PE) : (PE.answerHeld p e).grant = e.grant := by
    unfold PE.answerHeld
    rw [foldl_keeps PE.grant]
    intro e i
    split <;> simp
  have claim (e : PE) : (PE.answerClaim p e).grant = e.grant := by
    unfold PE.answerClaim
    split <;> simp
  unfold PE.teardown PE.beginRestart
  rw [PE.settle_grant]
  split <;> simp [held, claim, take, PE.freeHandedAway]

/-- P0's grant is never taken away (R174). -/
theorem PE.portGrant_administrator (r : Req) (body : List Byte) (w : Work PE) (h : w.st.grant = true) :
    (PE.portGrant 0 r body w).st.grant = true := by
  refine Work.layout_keeps (P := fun x : Work PE => x.st.grant = true) (fun _ => h) fun b => ?_
  split
  · exact h
  · split
    · exact h
    · split
      · rfl
      · exact h

end Sys2Proof.Machine

/-! SUPPORT. What every event of a block keeps: the length of the append queue (R68), the map cache and the lookup queue (R50, R53),
the lost counts (R154) and the millisecond of the tick (R176). -/

namespace Sys2Proof.Machine

/-! ### The append queue (R68) -/

@[simp] theorem AE.startHead_length (w : Work AE) : (AE.startHead w).st.queue.length = w.st.queue.length := by
  simp [AE.startHead_eq]

@[simp] theorem AE.onHead_length (a : AE) (f : Job → Job) : (a.onHead f).queue.length = a.queue.length := by
  unfold AE.onHead
  cases h : a.queue <;> rfl

theorem AE.finish_length (refused : Bool) (ans : Answer) (w : Work AE) :
    (AE.finish refused ans w).st.queue.length ≤ w.st.queue.length := by
  cases h : w.st.queue with
  | nil => simp [AE.finish, h]
  | cons j rest => simp [AE.finish_eq refused ans w h]

@[simp] theorem AE.write_length (clock : Clock) (payload : List Byte) (page : Ppn) (offset : Nat) (w : Work AE) :
    (AE.write clock payload page offset w).st.queue.length = w.st.queue.length := by
  unfold AE.write
  split <;> simp

@[simp] theorem AE.allocate_length (i : StreamId) (w : Work AE) :
    (AE.allocate i w).st.queue.length = w.st.queue.length := by
  simp [AE.allocate]

@[simp] theorem AE.close_queue (i : StreamId) (page : Ppn) (w : Work AE) : (AE.close i page w).st = w.st := by
  unfold AE.close
  dsimp only
  split <;> rfl

@[simp] theorem AE.place_length (clock : Clock) (payload : List Byte) (i : StreamId) (size : Nat) (tail : Option MapRec)
    (w : Work AE) : (AE.place clock payload i size tail w).st.queue.length = w.st.queue.length := by
  unfold AE.place
  split
  · simp
  · split
    · simp
    · split <;> simp

@[simp] theorem AE.openPage_length (clock : Clock) (payload : List Byte) (i : StreamId) (ppn : Ppn) (w : Work AE) :
    (AE.openPage clock payload i ppn w).st.queue.length = w.st.queue.length := by
  simp [AE.openPage]

theorem AE.full_length (i : StreamId) (w : Work AE) : (AE.full i w).st.queue.length ≤ w.st.queue.length := by
  unfold AE.full
  refine Nat.le_trans (AE.finish_length _ _ _) ?_
  split <;> exact Nat.le_refl _

/-- An event at AE does not bring the append queue above 16. -/
def AE.QueueKept (f : Work AE → Work AE) : Prop := ∀ w, w.st.queue.length ≤ 16 → (f w).st.queue.length ≤ 16

/-- An event that does not lengthen the queue keeps it within 16. -/
theorem AE.queueKept_of_le {f : Work AE → Work AE} (h : ∀ w, (f w).st.queue.length ≤ w.st.queue.length) : AE.QueueKept f :=
  fun w hw => Nat.le_trans (h w) hw

theorem AE.append_kept (r : Req) (body : List Byte) : AE.QueueKept (AE.append r body) := by
  intro w hw
  refine Work.layout_keeps (P := fun x : Work AE => x.st.queue.length ≤ 16) (fun _ => hw) fun b => ?_
  split
  · exact hw
  · split
    · exact hw
    · split
      · exact hw
      · simp
        omega

theorem AE.admissionAnswer_kept (r : Req) (admitted : Bool) : AE.QueueKept (AE.admissionAnswer r admitted) := by
  refine AE.queueKept_of_le fun w => ?_
  unfold AE.admissionAnswer
  split
  · split
    · simp
    · simpa using List.length_filter_le _ _
  · exact Nat.le_refl _

theorem AE.placeAnswer_kept (clock : Clock) (payload : List Byte) (i : StreamId) (info : PlaceInfo) :
    AE.QueueKept (AE.placeAnswer clock payload i info) := by
  refine AE.queueKept_of_le fun w => ?_
  unfold AE.placeAnswer
  split
  · exact Nat.le_refl _
  · split
    · exact AE.finish_length _ _ _
    · exact AE.finish_length _ _ _
    · exact AE.finish_length _ _ _
    · simp

theorem AE.allocationGrant_kept (clock : Clock) (payload : List Byte) (i : StreamId) (ppn : Ppn) :
    AE.QueueKept (AE.allocationGrant clock payload i ppn) := by
  refine AE.queueKept_of_le fun w => ?_
  unfold AE.allocationGrant
  split <;> simp

theorem AE.recycledPage_kept (clock : Clock) (payload : List Byte) (i : StreamId) (ppn : Ppn) :
    AE.QueueKept (AE.recycledPage clock payload i ppn) := by
  refine AE.queueKept_of_le fun w => ?_
  unfold AE.recycledPage
  split <;> simp

theorem AE.allocationRefusal_kept (i : StreamId) : AE.QueueKept (AE.allocationRefusal i) := by
  refine AE.queueKept_of_le fun w => ?_
  unfold AE.allocationRefusal
  split <;> simp

theorem AE.refusalAnswer_kept (i : StreamId) (info : RefusalInfo) : AE.QueueKept (AE.refusalAnswer i info) := by
  refine AE.queueKept_of_le fun w => ?_
  unfold AE.refusalAnswer
  split
  · exact Nat.le_refl _
  · split
    · exact AE.finish_length _ _ _
    · split
      · split
        · simp
        · exact AE.full_length _ _
      · exact AE.full_length _ _

theorem AE.noPage_kept (i : StreamId) : AE.QueueKept (AE.noPage i) := by
  refine AE.queueKept_of_le fun w => ?_
  unfold AE.noPage
  split <;> simp

theorem AE.entryWriteDone_kept : AE.QueueKept AE.entryWriteDone := by
  refine AE.queueKept_of_le fun w => ?_
  unfold AE.entryWriteDone
  split
  · exact Nat.le_refl _
  · split
    · exact AE.finish_length _ _ _
    · exact Nat.le_refl _

theorem AE.sealOrder_kept (i : StreamId) : AE.QueueKept (AE.sealOrder i) := by
  refine AE.queueKept_of_le fun w => ?_
  unfold AE.sealOrder
  split <;> exact Nat.le_refl _

theorem AE.deleteOrder_kept (i : StreamId) : AE.QueueKept (AE.deleteOrder i) := by
  refine AE.queueKept_of_le fun w => ?_
  simpa [AE.deleteOrder] using List.length_filter_le _ _

/-! ### The map cache and the lookup queue (R50, R53) -/

/-- The lines of a map cache stand in different physical entries and hold different keys (R50). -/
def CacheApart (c : List CacheLine) : Prop := (c.map CacheLine.num).Nodup ∧ (c.map fun l => (l.stream, l.lpn)).Nodup

/-- What a step of MU keeps: the cache's entries and keys apart, the lookup queue within 8. -/
def MU.Keeps (m m' : MU) : Prop :=
  (CacheApart m.cache → CacheApart m'.cache) ∧ (m.queue.length ≤ 8 → m'.queue.length ≤ 8)

theorem MU.Keeps.trans {a b c : MU} (h : a.Keeps b) (g : b.Keeps c) : a.Keeps c := ⟨g.1 ∘ h.1, g.2 ∘ h.2⟩

/-- A step that leaves the cache and does not lengthen the queue. -/
theorem MU.Keeps.of_same {m m' : MU} (hc : m'.cache = m.cache) (hq : m'.queue.length ≤ m.queue.length) : m.Keeps m' :=
  ⟨fun h => by rwa [hc], Nat.le_trans hq⟩

theorem MU.Keeps.refl (m : MU) : m.Keeps m := .of_same rfl (Nat.le_refl _)

/-- A part of a cache whose lines stand apart is one too. -/
theorem CacheApart.sublist {c c' : List CacheLine} (h : CacheApart c) (s : c'.Sublist c) : CacheApart c' :=
  ⟨h.1.sublist (s.map _), h.2.sublist (s.map _)⟩

/-- A line put ahead of a cache that has neither its entry nor its key. -/
theorem CacheApart.cons {c : List CacheLine} {l : CacheLine} (h : CacheApart c) (hn : ∀ x ∈ c, x.num ≠ l.num)
    (hk : ∀ x ∈ c, x.isFor l.stream l.lpn = false) : CacheApart (l :: c) := by
  refine ⟨List.nodup_cons.2 ⟨?_, h.1⟩, List.nodup_cons.2 ⟨?_, h.2⟩⟩
  · rw [List.mem_map]
    rintro ⟨x, hx, e⟩
    exact hn x hx e
  · rw [List.mem_map]
    rintro ⟨x, hx, e⟩
    have := hk x hx
    simp_all [CacheLine.isFor]

/-- A line of a cache that is found is in it, and has its key. -/
theorem MU.cached_some {m : MU} {i : StreamId} {lpn : Lpn} {l : CacheLine} (h : m.cached i lpn = some l) :
    l ∈ m.cache ∧ l.stream = i ∧ l.lpn = lpn := by
  unfold MU.cached at h
  refine ⟨List.mem_of_find?_eq_some h, ?_⟩
  simpa [CacheLine.isFor] using List.find?_some h

/-- In a cache whose lines stand apart, the lines in one physical entry are one line. -/
theorem CacheApart.eq_of_num {c : List CacheLine} (h : CacheApart c) {x y : CacheLine} (hx : x ∈ c) (hy : y ∈ c)
    (e : x.num = y.num) : x = y := eq_of_nodup_map h.1 hx hy e

/-- A line of the cache that is used again, with its record replaced or not, stands apart from the others (R49, R51). -/
theorem MU.touch_apart {m : MU} {l l' : CacheLine} (h : CacheApart m.cache) (hl : l ∈ m.cache) (hn : l'.num = l.num)
    (hs : l'.stream = l.stream) (hp : l'.lpn = l.lpn) : CacheApart (m.touch l').cache := by
  refine (h.sublist List.filter_sublist).cons (fun x hx e => ?_) fun x hx => by simpa using (List.mem_filter.1 hx).2
  obtain ⟨hx, hf⟩ := List.mem_filter.1 hx
  have := h.eq_of_num hx hl (e.trans hn)
  simp [this, CacheLine.isFor, hs, hp] at hf

/-- A fill keeps the cache's lines apart (R51). -/
theorem MU.fill_apart (i : StreamId) (lpn : Lpn) (rec : MapRec) {m : MU} (h : CacheApart m.cache) :
    CacheApart (MU.fill i lpn rec m).cache := by
  unfold MU.fill
  cases hc : m.cached i lpn with
  | some l =>
    obtain ⟨hl, -, -⟩ := MU.cached_some hc
    exact MU.touch_apart h hl rfl rfl rfl
  | none =>
    have absent (x) (hx : x ∈ m.cache) : x.isFor i lpn = false := by simpa using List.find?_eq_none.1 hc x hx
    dsimp only
    cases hn : m.lowestInvalid with
    | some n =>
      have := List.find?_some hn
      simp only [List.all_eq_true, decide_eq_true_eq] at this
      exact h.cons this absent
    | none =>
      dsimp only
      cases hg : m.cache.getLast? with
      | none => exact h
      | some old =>
        have whole : m.cache.dropLast ++ [old] = m.cache := dropLast_append_of_getLast? hg
        refine (h.sublist m.cache.dropLast_sublist).cons (fun x hx e => ?_) fun x hx =>
          absent x (List.dropLast_subset _ hx)
        have := h.1
        rw [← whole, List.map_append, List.nodup_append] at this
        exact this.2.2 x.num (List.mem_map_of_mem hx) old.num (by simp) e

/-! Steps that leave the cache. -/

@[simp] theorem MU.finish_cache (r : Searcher) (a : MapAnswer) (w : Work MU) : (MU.finish r a w).st.cache = w.st.cache := rfl

@[simp] theorem MU.halve_cache (x : Search) (w : Work MU) : (MU.halve x w).st.cache = w.st.cache := by
  unfold MU.halve
  split
  · rfl
  · split <;> rfl

@[simp] theorem MU.probed_cache (r : Searcher) (i : StreamId) (lpn : Lpn) (a : MapAnswer) (w : Work MU) :
    (MU.probed r i lpn a w).st.cache = w.st.cache := by
  unfold MU.probed
  split
  · rfl
  · split
    · split
      · exact MU.halve_cache _ _
      · rfl
      · rfl
    · rfl

@[simp] theorem MU.tell_cache (i : StreamId) (lpn : Lpn) (a : MapAnswer) (r : Looker) (w : Work MU) :
    (MU.tell i lpn a r w).st.cache = w.st.cache := by
  unfold MU.tell
  split
  · rfl
  · exact MU.probed_cache _ _ _ _ _

@[simp] theorem MU.tellAll_cache (i : StreamId) (lpn : Lpn) (a : MapAnswer) (rs : List Looker) (w : Work MU) :
    (MU.tellAll i lpn a rs w).st.cache = w.st.cache := by
  unfold MU.tellAll
  rw [foldl_keeps (fun x : Work MU => x.st.cache) fun w r => MU.tell_cache i lpn a r w]

@[simp] theorem MU.onEntry_length (m : MU) (i : StreamId) (lpn : Lpn) (f : QueueEntry → QueueEntry) :
    (m.onEntry i lpn f).queue.length = m.queue.length := by
  simp [MU.onEntry]

theorem MU.leave_length (m : MU) (i : StreamId) (lpn : Lpn) : (m.leave i lpn).queue.length ≤ m.queue.length :=
  List.length_filter_le _ _

theorem MU.noPlace_keeps (r : Looker) (w : Work MU) : w.st.Keeps (MU.noPlace r w).st := by
  unfold MU.noPlace
  split <;> exact .of_same rfl (Nat.le_refl _)

/-- The entry that a key is found in is the most recently used, and counted (R49). -/
theorem MU.hit_keeps {m : MU} {i : StreamId} {lpn : Lpn} {l : CacheLine} (h : m.cached i lpn = some l)
    (f : MapCounters → MapCounters) : m.Keeps ((m.touch l).onCounters f) :=
  ⟨fun apart => MU.touch_apart apart (MU.cached_some h).1 rfl rfl rfl, id⟩

theorem MU.resolve_keeps (i : StreamId) (lpn : Lpn) (r : Looker) (w : Work MU) : w.st.Keeps (MU.resolve i lpn r w).st := by
  unfold MU.resolve
  split
  · rename_i l hl
    refine (MU.hit_keeps hl _).trans (.of_same (MU.tell_cache _ _ _ _ _) (Nat.le_of_eq ?_))
    simp
  · split
    · exact .of_same rfl (Nat.le_refl _)
    · split
      · exact .of_same rfl (Nat.le_of_eq (MU.onEntry_length _ _ _ _))
      · split
        · exact .of_same rfl (Nat.le_refl _)
        · split
          · exact ⟨id, fun h => by simp; omega⟩
          · exact MU.noPlace_keeps r (w.mod MU.miss)

theorem MU.tell_keeps (i : StreamId) (lpn : Lpn) (a : MapAnswer) (r : Looker) (w : Work MU) :
    w.st.Keeps (MU.tell i lpn a r w).st := .of_same (by simp) (by simp)

theorem MU.tellAll_keeps (i : StreamId) (lpn : Lpn) (a : MapAnswer) (rs : List Looker) (w : Work MU) :
    w.st.Keeps (MU.tellAll i lpn a rs w).st := .of_same (by simp) (by simp)

theorem MU.halve_keeps (x : Search) (w : Work MU) : w.st.Keeps (MU.halve x w).st := .of_same (by simp) (by simp)

theorem MU.finish_keeps (r : Searcher) (a : MapAnswer) (w : Work MU) : w.st.Keeps (MU.finish r a w).st :=
  .of_same rfl (Nat.le_refl _)

theorem MU.leave_keeps (m : MU) (i : StreamId) (lpn : Lpn) : m.Keeps (m.leave i lpn) :=
  .of_same rfl (MU.leave_length _ _ _)

/-- Answers to a list of waiters, after what kept the invariants. -/
theorem MU.Keeps.tellAll {m : MU} {w : Work MU} (h : m.Keeps w.st) (i : StreamId) (lpn : Lpn) (a : MapAnswer)
    (rs : List Looker) : m.Keeps (MU.tellAll i lpn a rs w).st := h.trans (MU.tellAll_keeps i lpn a rs w)

theorem MU.resolveEntry_keeps (e : QueueEntry) (i : RangeInfo) (w : Work MU) :
    w.st.Keeps (MU.resolveEntry e i w).st := by
  have left := MU.leave_keeps w.st e.stream e.lpn
  unfold MU.resolveEntry
  cases placeOf i e.lpn with
  | gone => exact MU.Keeps.tellAll left _ _ _ _
  | notHeld => exact MU.Keeps.tellAll left _ _ _ _
  | tail _ | closed =>
    dsimp only
    split
    · rename_i l hl
      refine MU.Keeps.tellAll ?_ _ _ _ _
      exact left.trans (MU.hit_keeps (m := w.st.leave e.stream e.lpn) hl _)
    · split
      · exact left
      · exact .of_same rfl (Nat.le_of_eq (MU.onEntry_length _ _ _ _))

theorem MU.resolveFront_keeps (n : Nat) (w : Work MU) : w.st.Keeps (MU.resolveFront n w).st := by
  induction n generalizing w with
  | zero => exact .refl _
  | succ n ih =>
    unfold MU.resolveFront
    split
    · exact .refl _
    · split
      · exact (MU.resolveEntry_keeps _ _ _).trans (ih _)
      · exact .refl _

theorem MU.reportClear_keeps (i : StreamId) (w : Work MU) : w.st.Keeps (MU.reportClear i w).st := by
  unfold MU.reportClear
  split <;> exact .of_same rfl (Nat.le_refl _)

theorem MU.searchRange_keeps (i : StreamId) (r : Searcher) (info : RangeInfo) (w : Work MU) :
    w.st.Keeps (MU.searchRange i r info w).st := by
  unfold MU.searchRange
  split
  · exact .refl _
  · split
    · exact .refl _
    · split
      · exact MU.finish_keeps _ _ _
      · split
        · split
          · exact MU.finish_keeps _ _ _
          · split
            · exact MU.finish_keeps _ _ _
            · exact MU.halve_keeps _ _
        · exact MU.finish_keeps _ _ _

theorem MU.lookupRange_keeps (i : StreamId) (lpn : Lpn) (r : Looker) (info : RangeInfo) (w : Work MU) :
    w.st.Keeps (MU.lookupRange i lpn r info w).st := by
  unfold MU.lookupRange
  split
  · exact .refl _
  · split
    · exact MU.tell_keeps _ _ _ _ _
    · exact MU.tell_keeps _ _ _ _ _
    · exact .of_same (by simp [MU.onCounters]) (by simp [MU.onCounters])
    · exact MU.resolve_keeps _ _ _ _

theorem MU.queuedRange_keeps (i : StreamId) (lpn : Lpn) (info : RangeInfo) (w : Work MU) :
    w.st.Keeps (MU.queuedRange i lpn info w).st := by
  unfold MU.queuedRange MU.advanceQueue
  split
  · refine MU.Keeps.trans ?_ (MU.resolveFront_keeps _ _)
    exact .of_same rfl (Nat.le_of_eq (MU.onEntry_length _ _ _ _))
  · exact .refl _

theorem MU.headRange_keeps (i : StreamId) (why : HeadWhy) (info : RangeInfo) (w : Work MU) :
    w.st.Keeps (MU.headRange i why info w).st := by
  unfold MU.headRange
  split
  · split
    · split <;> exact .refl _
    · exact .refl _
  · exact .refl _

theorem MU.rangeAnswer_keeps (i : StreamId) (ref : RangeRef) (info : RangeInfo) (w : Work MU) :
    w.st.Keeps (MU.rangeAnswer i ref info w).st := by
  cases ref with
  | lookup lpn r => exact MU.lookupRange_keeps _ _ _ _ _
  | search r => exact MU.searchRange_keeps _ _ _ _
  | queued lpn => exact MU.queuedRange_keeps _ _ _ _
  | headRead why => exact MU.headRange_keeps _ _ _ _

theorem MU.askNext_keeps (w : Work MU) : w.st.Keeps (MU.askNext w).st := by
  unfold MU.askNext
  split
  · exact .refl _
  · exact .of_same rfl (Nat.le_of_eq (MU.onEntry_length _ _ _ _))

theorem MU.payRetry_keeps (w : Work MU) : w.st.Keeps (MU.payRetry w).st := by
  unfold MU.payRetry
  split <;> exact .of_same rfl (Nat.le_refl _)

theorem MU.retryProbe_keeps (w : Work MU) (r : Searcher) : w.st.Keeps (MU.retryProbe w r).st := by
  unfold MU.retryProbe
  split
  · split <;> exact .of_same rfl (Nat.le_refl _)
  · exact .refl _

theorem MU.retryWaiting_keeps (w : Work MU) : w.st.Keeps (MU.retryWaiting w).st := by
  have many (l : List Searcher) (x : Work MU) : x.st.Keeps (l.foldl MU.retryProbe x).st := by
    induction l generalizing x with
    | nil => exact .refl _
    | cons r l ih => exact (MU.retryProbe_keeps x r).trans (ih _)
  unfold MU.retryWaiting
  refine MU.Keeps.trans ?_ (many _ _)
  exact .of_same rfl (Nat.le_refl _)

theorem MU.walkDone_keeps (t : TrackerId) (bytes : List Byte) (w : Work MU) :
    w.st.Keeps (MU.walkDone t bytes w).st := by
  have fill (c : Bool) (i : StreamId) (lpn : Lpn) (rec : MapRec) (x : Work MU) :
      x.st.Keeps (if c = true then x.mod (MU.fill i lpn rec) else x).st := by
    cases c with
    | false => exact .refl _
    | true =>
      refine ⟨MU.fill_apart i lpn rec, fun h => ?_⟩
      have queue : (MU.fill i lpn rec x.st).queue = x.st.queue := by
        unfold MU.fill
        split
        · rfl
        · dsimp only
          split
          · rfl
          · split <;> rfl
      simpa [queue] using h
  unfold MU.walkDone
  split
  · exact .refl _
  · dsimp only
    refine MU.Keeps.trans ?_ (MU.reportClear_keeps _ _)
    refine MU.Keeps.trans ?_ (MU.retryWaiting_keeps _)
    refine MU.Keeps.trans ?_ (MU.askNext_keeps _)
    refine MU.Keeps.trans ?_ (MU.payRetry_keeps _)
    exact ((MU.tellAll_keeps _ _ _ _ _).trans (fill _ _ _ _ _)).trans (.of_same rfl (Nat.le_refl _))

theorem MU.mapWriteDone_keeps (i : StreamId) (lpn : Lpn) (rec : MapRec) (w : Work MU) :
    w.st.Keeps (MU.mapWriteDone i lpn rec w).st := by
  unfold MU.mapWriteDone
  refine MU.Keeps.trans ?_ (MU.reportClear_keeps _ _)
  have same {γ : Type} (g : CacheLine → γ) (hg : ∀ l : CacheLine, g { l with record := rec } = g l) :
      (w.st.cache.map fun l => if l.isFor i lpn then { l with record := rec } else l).map g = w.st.cache.map g := by
    rw [List.map_map]
    refine List.map_congr_left fun l _ => ?_
    simp only [Function.comp]
    split
    · exact hg l
    · rfl
  refine ⟨fun h => ⟨?_, ?_⟩, id⟩
  · exact (same CacheLine.num fun _ => rfl).symm ▸ h.1
  · exact (same (fun l => (l.stream, l.lpn)) fun _ => rfl).symm ▸ h.2

theorem MU.invalidate_keeps (p : CacheLine → Bool) (m : MU) : m.Keeps (m.invalidate p) :=
  ⟨fun h => h.sublist List.filter_sublist, id⟩

theorem MU.deleteOrder_keeps (i : StreamId) (w : Work MU) : w.st.Keeps (MU.deleteOrder i w).st := by
  refine MU.Keeps.trans ?_ (MU.reportClear_keeps _ _)
  refine MU.Keeps.trans ?_ (MU.resolveFront_keeps _ _)
  exact ⟨fun h => h.sublist List.filter_sublist, Nat.le_trans (List.length_filter_le _ _)⟩

theorem MU.flush_keeps (r : Req) (body : List Byte) (w : Work MU) : w.st.Keeps (MU.flush r body w).st :=
  Work.layout_keeps (P := fun x : Work MU => w.st.Keeps x.st) (fun _ => .refl _) fun _ =>
    ⟨fun h => h.sublist List.filter_sublist, id⟩

theorem MU.status_keeps (r : Req) (body : List Byte) (w : Work MU) : w.st.Keeps (MU.status r body w).st := by
  refine Work.layout_keeps (P := fun x : Work MU => w.st.Keeps x.st) (fun _ => .refl _) fun clear => ?_
  dsimp only
  split <;> exact .of_same rfl (Nat.le_refl _)

/-! ### The lost counts (R154) -/

/-- No lost count exceeds 65,535. -/
def NU.LostBounded (n : NU) : Prop := ∀ p : Port, n.ports[p].lost ≤ 65535

theorem NU.change_bounded {p : Port} {f : NuPort → NuPort} {w : Work NU} (hf : w.st.ports[p].lost ≤ 65535 → (f w.st.ports[p]).lost ≤ 65535)
    (h : w.st.LostBounded) : (NU.change p f w).st.LostBounded := by
  intro q
  by_cases e : q = p
  · subst e
    simpa [NU.change, -Fin.getElem_fin] using hf (h q)
  · simpa [NU.change, upd_ne _ _ e, -Fin.getElem_fin] using h q

theorem NU.enqueue_bounded {p : Port} {f : NuPort → NuPort} {w : Work NU} (hf : ∀ q, q.lost ≤ 65535 → (f q).lost ≤ 65535)
    (h : w.st.LostBounded) : (NU.enqueue p f w).st.LostBounded := by
  unfold NU.enqueue
  dsimp only
  split <;> exact NU.change_bounded (hf _) h

theorem lose_bounded (p : NuPort) (n : Nat) : (lose p n).lost ≤ 65535 := Nat.min_le_left _ _

theorem queueCopy_bounded (n : Notice) (q : NuPort) (_ : q.lost ≤ 65535) : (queueCopy n q).lost ≤ 65535 := by
  unfold queueCopy
  split
  · exact Nat.zero_le _
  · exact lose_bounded _ _

theorem NU.giveBack_st (kind : NoticeKind) (c : Option CursorId) (v : Option Nat) (sess : SessId) (w : Work NU) :
    (NU.giveBack kind c v sess w).st = w.st := by
  unfold NU.giveBack
  split <;> rfl

theorem NU.fan_bounded (wants : Mask → Bool) (n : Notice) (l : List Port) {w : Work NU} (h : w.st.LostBounded) :
    (l.foldl (NU.fan wants n) w).st.LostBounded := by
  induction l generalizing w with
  | nil => exact h
  | cons p l ih =>
    refine ih ?_
    unfold NU.fan
    dsimp only
    split
    · exact NU.enqueue_bounded (queueCopy_bounded n) h
    · exact h

theorem NU.event_bounded (clock : Clock) (e : Event) {w : Work NU} (h : w.st.LostBounded) :
    (NU.event clock e w).st.LostBounded := by
  have cursor (n : Notice) (sess : SessId) : (NU.cursorEvent n sess w).st.LostBounded := by
    unfold NU.cursorEvent
    split
    · dsimp only
      split
      · exact NU.enqueue_bounded (queueCopy_bounded n) h
      · exact h
    · rw [NU.giveBack_st]
      exact h
  have always (n : Notice) (sess : SessId) : (NU.alwaysEvent n sess w).st.LostBounded := by
    have room : (NU.enqueue sess.port (queueAlways n) w).st.LostBounded :=
      NU.enqueue_bounded (fun _ _ => Nat.zero_le _) h
    unfold NU.alwaysEvent
    split
    · dsimp only
      split
      · exact NU.change_bounded id room
      · exact room
    · exact h
  unfold NU.event
  dsimp only
  cases e.kind with
  | pressureOn | pressureOff => exact NU.fan_bounded _ _ _ h
  | streamFull | streamSealed | streamDeleted => exact NU.fan_bounded _ _ _ h
  | cursorGap | cursorStalled | cursorDrained | entryDamaged =>
    dsimp only
    split
    · exact cursor _ _
    · exact h
  | roleChanged | restart =>
    dsimp only
    split
    · exact always _ _
    · exact h

theorem NU.endSession_bounded (restarting : Bool) (sess : SessId) {w : Work NU} (h : w.st.LostBounded) :
    (NU.endSession restarting sess w).st.LostBounded := by
  unfold NU.endSession
  split
  · dsimp only
    have back (l : List Notice) (x : Work NU) :
        (l.foldl (fun w n => NU.giveBack n.kind n.cursor n.value sess w) x).st = x.st :=
      foldl_keeps Work.st (fun _ _ => NU.giveBack_st _ _ _ _ _) l x
    have closed : (NU.change sess.port (fun _ => noSession) w).st.LostBounded :=
      NU.change_bounded (fun _ => Nat.zero_le _) h
    split
    · rw [Work.send_st, back]
      exact closed
    · rw [back]
      exact closed
  · exact h

theorem NU.taken_bounded (p : Port) {w : Work NU} (h : w.st.LostBounded) : (NU.taken p w).st.LostBounded := by
  unfold NU.taken
  dsimp only
  split <;> exact NU.change_bounded id h

theorem NU.report_bounded (restarting : Bool) (sess : SessId) (n : Notice) (sent : Bool) {w : Work NU}
    (h : w.st.LostBounded) : (NU.report restarting sess n sent w).st.LostBounded := by
  unfold NU.report
  split
  · exact NU.endSession_bounded _ _ h
  · split
    · exact h
    · rw [NU.giveBack_st]
      exact h

theorem NU.noticeMask_bounded (r : Req) (body : List Byte) {w : Work NU} (h : w.st.LostBounded) :
    (NU.noticeMask r body w).st.LostBounded := by
  refine Work.layout_keeps (P := fun x : Work NU => x.st.LostBounded) (fun _ => h) fun v => ?_
  split
  · exact h
  · rw [Work.answer_st]
    split
    · exact NU.change_bounded id h
    · exact h

/-! ### The Time Base (R176) -/

theorem TB.clockSet_micros (r : Req) (body : List Byte) (w : Work TB) : (TB.clockSet r body w).st.micros = w.st.micros :=
  Work.layout_keeps (P := fun x : Work TB => x.st.micros = w.st.micros) (fun _ => rfl) fun _ => rfl

theorem TB.advance_micros {t : TB} (h : t.micros < 1000) : t.advance.micros < 1000 := by
  unfold TB.advance
  split
  · exact Nat.zero_lt_succ _
  · simp only
    omega

end Sys2Proof.Machine

/-! SUPPORT. What every event at PP keeps: the marks in order, the reservations covered by the free list (R28, R38), and each pool
page FREE or recorded, exactly once (R25, R26, R36). -/

namespace Sys2Proof.Machine

/-- The pressure marks are in order and within a pool of `size` pages (R38). -/
def PP.MarksIn (size : Nat) (p : PP) : Prop := p.lowMark < p.clearMark ∧ p.clearMark ≤ size

/-- The free list covers all unused reservations (R28). -/
def PP.Covers (p : PP) : Prop := p.unused ≤ (freeList p.free).length

/-- Each of `size` pool pages is FREE or recorded, exactly once; before the build none is either (R25, R26, R27). -/
def PP.Accounts (size : Nat) (p : PP) : Prop :=
  (p.free = [] ∧ p.pages = []) ∨ (freeList p.free ++ p.pages.map PageRec.ppn).Perm (List.range' Config.firstPool size)

/-- What a step of PP keeps in a pool of `size` pages. -/
structure PP.Keeps (size : Nat) (p q : PP) : Prop where
  marks : p.MarksIn size → q.MarksIn size
  covers : p.Covers → q.Covers
  accounts : p.Accounts size → q.Accounts size

theorem PP.Keeps.trans {size : Nat} {a b c : PP} (h : PP.Keeps size a b) (g : PP.Keeps size b c) : PP.Keeps size a c :=
  ⟨g.marks ∘ h.marks, g.covers ∘ h.covers, g.accounts ∘ h.accounts⟩

/-- A step that leaves the marks, the free list and U, and renames no recorded page. -/
theorem PP.Keeps.of_same {size : Nat} {p q : PP} (hl : q.lowMark = p.lowMark) (hc : q.clearMark = p.clearMark)
    (hf : q.free = p.free) (hu : q.quotas = p.quotas) (hp : q.pages.map PageRec.ppn = p.pages.map PageRec.ppn) :
    PP.Keeps size p q := by
  refine ⟨fun h => ?_, fun h => ?_, fun h => ?_⟩
  · simpa only [PP.MarksIn, hl, hc] using h
  · simpa only [PP.Covers, PP.unused, hf, hu] using h
  · rcases h with ⟨h1, h2⟩ | h
    · exact .inl ⟨hf.trans h1, List.map_eq_nil_iff.1 (hp.trans (by rw [h2]; rfl))⟩
    · exact .inr (by rw [hf, hp]; exact h)

theorem PP.Keeps.refl (size : Nat) (p : PP) : PP.Keeps size p p := .of_same rfl rfl rfl rfl rfl

theorem PP.evaluate_keeps (size : Nat) (w : Work PP) : PP.Keeps size w.st (PP.evaluate w).st := by
  obtain ⟨b, ev, h, -⟩ := PP.evaluate_frame w
  rw [h]
  exact .of_same rfl rfl rfl rfl rfl

/-- What follows a change of the accounting keeps what the change keeps. -/
theorem PP.account_keeps {size : Nat} {w : Work PP} {f : PP → PP} (h : PP.Keeps size w.st (f w.st)) :
    PP.Keeps size w.st (PP.account w f).st := by
  obtain ⟨b, k, ev, e, -⟩ := PP.account_frame w f
  rw [e]
  exact h.trans (.of_same rfl rfl rfl rfl rfl)

/-- A change of one quota record that U stays covered with. -/
theorem PP.onQuota_keeps {size : Nat} {p : PP} {i : StreamId} {f : Quota → Quota}
    (h : p.Covers → (f p.quotas[i]).unused ≤ p.quotas[i].unused + p.sharedFree) : PP.Keeps size p (p.onQuota i f) := by
  refine ⟨id, fun c => ?_, id⟩
  have sum := PP.unused_onQuota p i f
  have := h c
  rw [PP.sharedFree_eq] at this
  have : p.unused ≤ (freeList p.free).length := c
  show (p.onQuota i f).unused ≤ (freeList p.free).length
  omega

/-- A change of one page's record that leaves its number. -/
theorem PP.onPage_ppns {p : PP} {ppn : Ppn} {f : PageRec → PageRec} (hf : ∀ r, r.ppn = ppn → (f r).ppn = ppn) :
    (p.onPage ppn f).pages.map PageRec.ppn = p.pages.map PageRec.ppn := by
  unfold PP.onPage
  rw [List.map_map]
  refine List.map_congr_left fun r _ => ?_
  simp only [Function.comp]
  split
  · rename_i e
    rw [hf r e, e]
  · rfl

theorem PP.onPage_keeps {size : Nat} {p : PP} {ppn : Ppn} {f : PageRec → PageRec}
    (hf : ∀ r, r.ppn = ppn → (f r).ppn = ppn) : PP.Keeps size p (p.onPage ppn f) :=
  .of_same rfl rfl rfl rfl (PP.onPage_ppns hf)

/-! ### A page leaves the free list, and comes back (R26, R32, R36) -/

/-- The pool in which the page at the head of the free list is ALLOCATED to a stream (R32). -/
def PP.granted (i : StreamId) (ppn : Ppn) (rest : List Run) (p : PP) : PP :=
  { (p.onQuota i fun q => { q with held := q.held + 1 }) with free := rest, pages := ⟨ppn, false, i, 0, false⟩ :: p.pages }

theorem PP.granted_keeps {size : Nat} {p : PP} {i : StreamId} {ppn : Ppn} {rest : List Run}
    (ht : takeFree p.free = some (ppn, rest)) (hs : p.quotas[i].reservation ≤ p.quotas[i].held → p.sharedFree ≠ 0) :
    PP.Keeps size p (p.granted i ppn rest) := by
  have head := takeFree_some ht
  refine ⟨id, fun c => ?_, fun h => ?_⟩
  · have sum := PP.unused_onQuota p i fun q => { q with held := q.held + 1 }
    have : p.unused ≤ (freeList p.free).length := c
    have shared := PP.sharedFree_eq p
    rw [head] at this shared
    show (p.onQuota i fun q => { q with held := q.held + 1 }).unused ≤ (freeList rest).length
    simp only [Quota.unused, List.length_cons] at sum this shared
    by_cases hr : p.quotas[i].reservation ≤ p.quotas[i].held
    · have := hs hr
      omega
    · omega
  · rcases h with ⟨h, -⟩ | h
    · rw [h] at ht
      cases ht
    · refine .inr ((List.Perm.trans ?_ h))
      rw [head]
      exact List.perm_middle

/-- In a pool with each page accounted for, the records but one page's are the list of records with that page taken out. -/
theorem filter_ppns_perm {l : List PageRec} {r : PageRec} (hm : r ∈ l) (nodup : (l.map PageRec.ppn).Nodup) :
    (r.ppn :: (l.filter fun x => x.ppn ≠ r.ppn).map PageRec.ppn).Perm (l.map PageRec.ppn) := by
  have e : (l.filter fun x => x.ppn ≠ r.ppn).map PageRec.ppn = (l.map PageRec.ppn).erase r.ppn := by
    rw [nodup.erase_eq_filter, List.filter_map]
    refine congrArg (List.map PageRec.ppn) (List.filter_congr fun x _ => ?_)
    by_cases h : x.ppn = r.ppn <;> simp [h]
  rw [e]
  exact (List.perm_cons_erase (List.mem_map_of_mem hm)).symm

theorem PP.freed_keeps {size : Nat} {p : PP} {r r' : PageRec} (hm : r' ∈ p.pages) (hp : r'.ppn = r.ppn) :
    PP.Keeps size p (p.freed r) := by
  refine ⟨id, fun c => ?_, fun h => ?_⟩
  · have sum := PP.unused_onQuota p r.owner fun q => { q with held := q.held - 1 }
    have : p.unused ≤ (freeList p.free).length := c
    show (p.onQuota r.owner fun q => { q with held := q.held - 1 }).unused ≤ (freeList (putFree r.ppn p.free)).length
    rw [freeList_putFree, List.length_append]
    simp only [Quota.unused, List.length_cons, List.length_nil] at sum ⊢
    omega
  · rcases h with ⟨-, h⟩ | h
    · rw [h] at hm
      cases hm
    · right
      show (freeList (putFree r.ppn p.free) ++ (p.pages.filter fun x => x.ppn ≠ r.ppn).map PageRec.ppn).Perm _
      have nodup : (p.pages.map PageRec.ppn).Nodup :=
        (List.nodup_append.1 (h.nodup_iff.2 (List.nodup_range' ..))).2.1
      rw [freeList_putFree, List.append_assoc, ← hp]
      exact ((filter_ppns_perm hm nodup).append_left _).trans h

/-- A page that is completed, after what kept the invariants. -/
theorem PP.Keeps.complete {size : Nat} {p : PP} {r r' : PageRec} {w : Work PP} (h : PP.Keeps size p w.st)
    (hm : r' ∈ w.st.pages) (hp : r'.ppn = r.ppn) : PP.Keeps size p (PP.complete r w).st := by
  cases hr : r.recycle with
  | true =>
    have back : PP.Keeps size w.st (w.st.onPage r.ppn PageRec.recycled) := PP.onPage_keeps fun _ e => e
    rw [PP.complete_recycled w hr]
    exact (h.trans back).trans (.of_same rfl rfl rfl rfl rfl)
  | false =>
    rw [PP.complete_freed w hr]
    exact h.trans (PP.account_keeps (PP.freed_keeps hm hp))

/-! ### The events at PP -/

theorem PP.build_keeps (memsize : Bool) (w : Work PP) :
    PP.Keeps (Config.poolSize memsize) w.st (PP.build (Config.poolSize memsize) w).st := by
  refine ⟨fun _ => ?_, fun _ => ?_, fun _ => .inr ?_⟩
  · show 1024 < 2048 ∧ 2048 ≤ Config.poolSize memsize
    cases memsize <;> decide
  · have none : ((Vector.replicate 32 noQuota).toList.map Quota.unused).sum = 0 := by decide
    exact Nat.le_trans (Nat.le_of_eq none) (Nat.zero_le _)
  · simp [PP.build, PP.init, freeList]

theorem PP.createClaim_keeps (size : Nat) (i : StreamId) (reservation ceiling : Nat) (w : Work PP) :
    PP.Keeps size w.st (PP.createClaim i reservation ceiling w).st := by
  unfold PP.createClaim
  split
  · exact PP.account_keeps (PP.onQuota_keeps fun _ => by simp only [Quota.unused]; omega)
  · exact .refl _ _

theorem PP.tuneClaim_keeps (size : Nat) (i : StreamId) (reservation ceiling : Nat) (w : Work PP) :
    PP.Keeps size w.st (PP.tuneClaim i reservation ceiling w).st := by
  unfold PP.tuneClaim
  dsimp only
  split
  · exact .refl _ _
  · split
    · exact .refl _ _
    · exact PP.account_keeps (PP.onQuota_keeps fun _ => by simp only [Quota.unused] at *; omega)

theorem PP.deleteClaim_keeps (size : Nat) (i : StreamId) (ceiling : Nat) (w : Work PP) :
    PP.Keeps size w.st (PP.deleteClaim i ceiling w).st :=
  PP.account_keeps (PP.onQuota_keeps fun _ => by simp only [Quota.unused]; omega)

theorem PP.absentReport_keeps (size : Nat) (i : StreamId) (w : Work PP) :
    PP.Keeps size w.st (PP.absentReport i w).st :=
  PP.account_keeps (PP.onQuota_keeps fun _ => by simp only [noQuota, Quota.unused]; omega)

theorem PP.heldQuestion_keeps (size : Nat) (i : StreamId) (asker : HeldAsker) (w : Work PP) :
    PP.Keeps size w.st (PP.heldQuestion i asker w).st := by
  cases asker <;> exact .refl _ _

theorem PP.allocate_keeps (size : Nat) (i : StreamId) (w : Work PP) : PP.Keeps size w.st (PP.allocate i w).st := by
  rcases PP.allocate_cases i w with ⟨c, h⟩ | ⟨ppn, rest, ht, -, hs, h⟩ <;> rw [h]
  · exact .of_same rfl rfl rfl rfl rfl
  · exact (PP.account_keeps (PP.granted_keeps ht hs)).trans (.of_same rfl rfl rfl rfl rfl)

theorem PP.holdRequest_keeps (size : Nat) (i : StreamId) (ppn : Ppn) (b : BufId) (w : Work PP) :
    PP.Keeps size w.st (PP.holdRequest i ppn b w).st := by
  unfold PP.holdRequest
  split
  · exact .refl _ _
  · split
    · exact .refl _ _
    · split
      · exact PP.onPage_keeps fun r e => e
      · exact .refl _ _

/-- A page whose record is found has one after a change that leaves the page numbers. -/
theorem PP.page_mem_after {p q : PP} {ppn : Ppn} {r : PageRec} (h : p.page ppn = some r)
    (hq : q.pages.map PageRec.ppn = p.pages.map PageRec.ppn) : ∃ r' ∈ q.pages, r'.ppn = r.ppn := by
  have : r.ppn ∈ q.pages.map PageRec.ppn := hq ▸ List.mem_map_of_mem (PP.page_ppn h).2
  simpa using this

theorem PP.holdDrop_keeps (size : Nat) (ppn : Ppn) (w : Work PP) : PP.Keeps size w.st (PP.holdDrop ppn w).st := by
  unfold PP.holdDrop
  split
  · exact .refl _ _
  · rename_i r hr
    split
    · exact .refl _ _
    · have dropped : PP.Keeps size w.st (w.st.onPage ppn fun r => { r with holds := r.holds - 1 }) :=
        PP.onPage_keeps fun r e => e
      dsimp only
      split
      · obtain ⟨r', hm, hp⟩ := PP.page_mem_after hr (PP.onPage_ppns (p := w.st) (ppn := ppn)
          (f := fun r => { r with holds := r.holds - 1 }) fun r e => e)
        exact PP.Keeps.complete dropped hm hp
      · exact dropped

theorem PP.handOver_keeps (size : Nat) (i : StreamId) (ppn : Ppn) (kind : RelKind) (w : Work PP) :
    PP.Keeps size w.st (PP.handOver i ppn kind w).st := by
  unfold PP.handOver
  split
  · exact .refl _ _
  · rename_i r hr
    split
    · exact .refl _ _
    · have same : ∀ x : PageRec, x.ppn = ppn →
          ({ r with releasing := true, recycle := kind = .recycle } : PageRec).ppn = ppn := fun _ _ => (PP.page_ppn hr).1
      have handed : PP.Keeps size w.st ((w.st.onPage ppn fun _ =>
          { r with releasing := true, recycle := kind = .recycle }).onCounters (releaseCount kind)) :=
        (PP.onPage_keeps same).trans (.of_same rfl rfl rfl rfl rfl)
      dsimp only
      split
      · obtain ⟨r', hm, hp⟩ := PP.page_mem_after hr (PP.onPage_ppns same)
        exact PP.Keeps.complete handed hm hp
      · exact handed

theorem PP.tune_keeps (size : Nat) (r : Req) (body : List Byte) (w : Work PP) :
    PP.Keeps size w.st (PP.tune size r body w).st := by
  refine Work.layout_keeps (P := fun x : Work PP => PP.Keeps size w.st x.st) (fun _ => .refl _ _) fun b => ?_
  split
  · exact .refl _ _
  · split
    · exact .refl _ _
    · refine PP.Keeps.trans ?_ (PP.evaluate_keeps _ _)
      refine ⟨fun _ => ?_, id, id⟩
      simp only [PP.MarksIn, Work.mod_st]
      omega

theorem PP.status_keeps (size : Nat) (r : Req) (body : List Byte) (w : Work PP) :
    PP.Keeps size w.st (PP.status size r body w).st := by
  refine Work.layout_keeps (P := fun x : Work PP => PP.Keeps size w.st x.st) (fun _ => .refl _ _) fun clear => ?_
  dsimp only
  split <;> exact .of_same rfl rfl rfl rfl rfl

theorem PP.readyReport_keeps (size : Nat) (w : Work PP) : PP.Keeps size w.st (PP.readyReport w).st := by
  unfold PP.readyReport
  refine PP.Keeps.trans ?_ (PP.evaluate_keeps _ _)
  exact .of_same rfl rfl rfl rfl rfl

end Sys2Proof.Machine

/-! SUPPORT. Everything that a command can do: the effect of each, and that each effect keeps the invariants. -/

namespace Sys2Proof.Machine

/-- What a command does in the state in which it takes effect, but for the two of RESET_N and the end of a DRAM operation: an event
at one block, or a change by the device state machine. -/
inductive Effect : Instr → State → State → Prop
  | same (c : Instr) (t : State) : Effect c t t
  | sd (c : Instr) (t : State) (f : Work SD → Work SD) : Effect c t (t.onSd f)
  | pp {t : State} {f : Work PP → Work PP} (c : Instr) (h : ∀ w : Work PP, PP.Keeps t.poolSize w.st (f w).st) : Effect c t (t.onPp f)
  | mu {f : Work MU → Work MU} (c : Instr) (t : State) (h : ∀ w : Work MU, w.st.Keeps (f w).st) : Effect c t (t.onMu f)
  | ae {f : Work AE → Work AE} (c : Instr) (t : State) (h : AE.QueueKept f) : Effect c t (t.onAe f)
  | de (c : Instr) (t : State) (f : Work DE → Work DE) : Effect c t (t.onDe f)
  | ru (c : Instr) (t : State) (f : Work RU → Work RU) : Effect c t (t.onRu f)
  | nu {f : Work NU → Work NU} (c : Instr) (t : State) (h : ∀ w : Work NU, w.st.LostBounded → (f w).st.LostBounded) :
      Effect c t (t.onNu f)
  | mask (r : Req) (t : State) : Effect (.noticeMask r) t ((t.onNu (NU.noticeMask r (t.body r))).copyMask r)
  | tb {f : Work TB → Work TB} (c : Instr) (t : State) (h : ∀ w : Work TB, (f w).st.micros = w.st.micros) : Effect c t (t.onTb f)
  | holder (c : Instr) (t : State) (f : Work (Option Port) → Work (Option Port)) : Effect c t (t.onHolder f)
  | pe {p : Port} {f : Work PE → Work PE} (c : Instr) (t : State)
      (h : ∀ w : Work PE, p = 0 → w.st.grant = true → (f w).st.grant = true) : Effect c t (t.onPe p f)
  | teardown (p : Port) (t : State) :
      Effect (.teardownOrder p) t ((t.settleOwn p).onPe p (PE.teardown p (t.ownAnswers p)))
  | issue (op : MpOp) (t : State) : Effect (.mpOperationIssue op) t (t.onMp fun w => w.mod (MP.issue op))
  | calibrated (ok : Bool) (t : State) : Effect (.calibrationDone ok) t (t.calibrated ok)
  | checked (equal : Bool) (t : State) : Effect (.memoryCheckDone equal) t (t.memoryChecked equal)
  | built (t : State) : Effect .buildComplete t t.built
  | restart (r : Req) (t : State) : Effect (.deviceRestart r) t (t.restart r)
  | abandon (b : CoreBlock) (t : State) : Effect (.abandonOrder b) t (t.abandon b)
  | blockDone (b : CoreBlock) (t : State) : Effect (.abandonDoneReport b) t (t.blockDone b)
  | portSettled (p : Port) (t : State) : Effect (.portSettledReport p) t (t.portSettled p)
  | nuDone (t : State) : Effect .nuResetReport t t.nuDone

/-- An event at a Port Engine that leaves its grant. -/
theorem Effect.pe_same {p : Port} {f : Work PE → Work PE} (c : Instr) (t : State) (h : ∀ w : Work PE, (f w).st.grant = w.st.grant) :
    Effect c t (t.onPe p f) := .pe c t fun w _ hg => (h w).trans hg

/-- Every command but three arrives, and has one of the effects where it is taken. -/
theorem exec_shape (c : Instr) (s : State) : c = .resetNLow ∨ (∃ m, c = .resetNRelease m) ∨ c = .mpOperationFinished ∨
    ∃ act : State → State, exec c s = arrive c s act ∧ ∀ t, Effect c t (act t) := by
  have arrives {c : Instr} {act : State → State} (h : exec c s = arrive c s act) (e : ∀ t, Effect c t (act t)) :
      c = .resetNLow ∨ (∃ m, c = .resetNRelease m) ∨ c = .mpOperationFinished ∨
        ∃ act : State → State, exec c s = arrive c s act ∧ ∀ t, Effect c t (act t) := .inr (.inr (.inr ⟨act, h, e⟩))
  cases c with
  | resetNLow => exact .inl rfl
  | resetNRelease m => exact .inr (.inl ⟨m, rfl⟩)
  | mpOperationFinished => exact .inr (.inr (.inl rfl))
  | padWriteDone => exact arrives rfl fun t => .same _ t
  | streamCreate | streamTune | streamSeal | streamDelete | streamInfo | createClaimAnswer | tuneClaimAnswer | heldAnswerAtSd
  | pageOpen | pageClose | commit | releaseMarkSet | headRaise | releaseMarkClear | sealAnswer | bind | rebind | unbind
  | admission | appendLeave | counterUpdate | emptiedReport | streamClearReport | rangeQuestion | placeQuestion
  | refusalQuestion | positionQuestion | viewQuestion | scanQuestion | deleteClaimAnswer =>
    exact arrives rfl fun t => .sd _ t _
  | cursorOpen | bindAnswer | searchAnswer | positionAnswer | cursorSeek | cursorPause | cursorResume | cursorClose
  | cursorAttach | rebindAnswer | cursorInfo | ack | sessionEndAtDe | deleteOrderAtDe | commitReport | sealedSettledReport
  | lookupAnswer | trackerFreeReport | holdAnswer | headerReadDone | payloadReadDone | deliverTaken | deliverSent
  | deliverDropped | ackDeadlineExpiry | advanceOrder | floorQuestion | returnedCursorGap =>
    exact arrives rfl fun t => .de _ t _
  | readyReportAtRu | evaluationTrigger | evaluationAnswer | releaseMarkSetAnswer | advanceOrderAnswer | headRaiseAnswer
  | clearDoneReport | pageReturnedReport | recycleRequest | recycleHeadAnswer | ageScanExpiry | scanAnswer | teardownHandover
  | teardownHeadAnswer | teardownHeldAnswer =>
    exact arrives rfl fun t => .ru _ t _
  | adminClaim | adminRelease => exact arrives rfl fun t => .holder _ t _
  | clockSet r => exact arrives rfl fun t => .tb _ t (TB.clockSet_micros r _)
  -- PP
  | freeListBuild => exact arrives rfl fun t => .pp _ (PP.build_keeps _)
  | createClaim i r k => exact arrives rfl fun t => .pp _ (PP.createClaim_keeps _ i r k)
  | tuneClaim i r k => exact arrives rfl fun t => .pp _ (PP.tuneClaim_keeps _ i r k)
  | deleteClaim i k => exact arrives rfl fun t => .pp _ (PP.deleteClaim_keeps _ i k)
  | streamAbsentReport i => exact arrives rfl fun t => .pp _ (PP.absentReport_keeps _ i)
  | heldQuestion i a => exact arrives rfl fun t => .pp _ (PP.heldQuestion_keeps _ i a)
  | allocationRequest i => exact arrives rfl fun t => .pp _ (PP.allocate_keeps _ i)
  | holdRequest i ppn b => exact arrives rfl fun t => .pp _ (PP.holdRequest_keeps _ i ppn b)
  | holdDrop ppn => exact arrives rfl fun t => .pp _ (PP.holdDrop_keeps _ ppn)
  | handOver i ppn k => exact arrives rfl fun t => .pp _ (PP.handOver_keeps _ i ppn k)
  | poolTune r => exact arrives rfl fun t => .pp _ (PP.tune_keeps _ r _)
  | poolStatus r => exact arrives rfl fun t => .pp _ (PP.status_keeps _ r _)
  | readyReportAtPp => exact arrives rfl fun t => .pp _ (PP.readyReport_keeps _)
  -- MU
  | mapWrite | slotClear | lookupByLpn | lookupBySequence | headRead | headReadDone =>
    exact arrives rfl fun t => .mu _ t fun w => .of_same rfl (Nat.le_refl _)
  | mapWriteDone i lpn r => exact arrives rfl fun t => .mu _ t (MU.mapWriteDone_keeps i lpn r)
  | slotClearDone i lpn => exact arrives rfl fun t => .mu _ t fun w => MU.invalidate_keeps _ w.st
  | rangeAnswer i ref a => exact arrives rfl fun t => .mu _ t (MU.rangeAnswer_keeps i ref a)
  | walkDone k bytes => exact arrives rfl fun t => .mu _ t (MU.walkDone_keeps k bytes)
  | deleteOrderAtMu i => exact arrives rfl fun t => .mu _ t (MU.deleteOrder_keeps i)
  | mapFlush r => exact arrives rfl fun t => .mu _ t (MU.flush_keeps r _)
  | mapStatus r => exact arrives rfl fun t => .mu _ t (MU.status_keeps r _)
  -- AE
  | append r => exact arrives rfl fun t => .ae _ t (AE.append_kept r _)
  | admissionAnswer r a => exact arrives rfl fun t => .ae _ t (AE.admissionAnswer_kept r a)
  | placeAnswer i info => exact arrives rfl fun t => .ae _ t (AE.placeAnswer_kept _ _ i info)
  | allocationGrant i ppn => exact arrives rfl fun t => .ae _ t (AE.allocationGrant_kept _ _ i ppn)
  | allocationRefusal i k => exact arrives rfl fun t => .ae _ t (AE.allocationRefusal_kept i)
  | refusalAnswer i info => exact arrives rfl fun t => .ae _ t (AE.refusalAnswer_kept i info)
  | recycledPage i ppn => exact arrives rfl fun t => .ae _ t (AE.recycledPage_kept _ _ i ppn)
  | noPage i => exact arrives rfl fun t => .ae _ t (AE.noPage_kept i)
  | entryWriteDone => exact arrives rfl fun t => .ae _ t AE.entryWriteDone_kept
  | sealOrder i => exact arrives rfl fun t => .ae _ t (AE.sealOrder_kept i)
  | deleteOrderAtAe i => exact arrives rfl fun t => .ae _ t (AE.deleteOrder_kept i)
  -- NU
  | noticeEvent e => exact arrives rfl fun t => .nu _ t fun w => NU.event_bounded _ e
  | sessionOpenReport sess m => exact arrives rfl fun t => .nu _ t fun w => NU.change_bounded fun _ => Nat.zero_le _
  | sessionEndReportAtNu sess => exact arrives rfl fun t => .nu _ t fun w => NU.endSession_bounded _ sess
  | noticeTaken p => exact arrives rfl fun t => .nu _ t fun w => NU.taken_bounded p
  | noticeSentReport sess n b => exact arrives rfl fun t => .nu _ t fun w => NU.report_bounded _ sess n b
  | noticeMask r => exact arrives rfl fun t => .mask r t
  -- The Port Engines
  | stateReport | linkLock | transmitOffer => exact arrives rfl fun t => .pe_same _ t fun w => rfl
  | linkLoss p => exact arrives rfl fun t => .pe_same _ t (PE.linkLoss_grant p)
  | frameByte p b => exact arrives rfl fun t => .pe_same _ t (PE.frameByte_grant p _ b)
  | byteGapAbort p => exact arrives rfl fun t => .pe_same _ t (PE.byteGapAbort_grant p _)
  | answerArrival p k a => exact arrives rfl fun t => .pe_same _ t (PE.takeAnswer_grant p k a _)
  | frameSent p => exact arrives rfl fun t => .pe_same _ t (PE.frameSent_grant p)
  | keepaliveExpiry p d => exact arrives rfl fun t => .pe_same _ t (PE.keepaliveExpiry_grant p d)
  | hello p k => exact arrives rfl fun t => .pe_same _ t (PE.hello_grant p _ k)
  | adminClaimAnswer p g => exact arrives rfl fun t => .pe_same _ t (PE.claimAnswer_grant p _ g)
  | bye r => exact arrives rfl fun t => .pe_same _ t (PE.bye_grant r _)
  | ping r => exact arrives rfl fun t => .pe_same _ t (PE.ping_grant _ r _)
  | portStatus r p => exact arrives rfl fun t => .pe_same _ t (PE.portStatus_grant p _ _ _ r _)
  | portGrant r p => exact arrives rfl fun t => .pe _ t fun w hp => hp ▸ PE.portGrant_administrator r _ w
  | teardownOrder p => exact arrives rfl fun t => .teardown p t
  -- MP and the device state machine
  | mpOperationIssue op => exact arrives rfl fun t => .issue op t
  | calibrationDone ok => exact arrives rfl fun t => .calibrated ok t
  | memoryCheckDone equal => exact arrives rfl fun t => .checked equal t
  | buildComplete => exact arrives rfl fun t => .built t
  | deviceRestart r => exact arrives rfl fun t => .restart r t
  | abandonOrder b => exact arrives rfl fun t => .abandon b t
  | abandonDoneReport b => exact arrives rfl fun t => .blockDone b t
  | portSettledReport p => exact arrives rfl fun t => .portSettled p t
  | nuResetReport => exact arrives rfl fun t => .nuDone t

/-! ### The invariants of the whole part -/

/-- What a step keeps. -/
structure State.Keeps (s u : State) : Prop where
  memory : s.memoryOk → u.memoryOk
  pages : s.pagesOk → u.pagesOk
  reserved : s.reservedOk → u.reservedOk
  marks : s.marksOk → u.marksOk
  cache : s.cacheOk → u.cacheOk
  queues : s.queuesOk → u.queuesOk
  grant : s.grantOk → u.grantOk
  lost : s.lostOk → u.lostOk
  tick : s.tickOk → u.tickOk

theorem State.Keeps.refl (s : State) : s.Keeps s := ⟨id, id, id, id, id, id, id, id, id⟩

theorem State.Keeps.trans {a b c : State} (h : a.Keeps b) (g : b.Keeps c) : a.Keeps c :=
  ⟨g.memory ∘ h.memory, g.pages ∘ h.pages, g.reserved ∘ h.reserved, g.marks ∘ h.marks, g.cache ∘ h.cache,
    g.queues ∘ h.queues, g.grant ∘ h.grant, g.lost ∘ h.lost, g.tick ∘ h.tick⟩

/-- The messages on their way and the commands that wait carry no invariant. -/
theorem State.Keeps.wires (s : State) (ws : List Wire) : s.Keeps { s with wires := ws } :=
  ⟨id, id, id, id, id, id, id, id, id⟩

/-- A step that leaves the parts which the invariants speak of. -/
theorem State.Keeps.of_parts {s u : State} (mp : u.mp.dram = s.mp.dram) (pp : u.pp = s.pp) (size : u.poolSize = s.poolSize)
    (mu : u.mu = s.mu) (ae : u.ae = s.ae) (pe : u.pe[0].grant = s.pe[0].grant) (nu : u.nu = s.nu) (tb : u.tb = s.tb) :
    s.Keeps u := by
  constructor
  · exact fun h => by rwa [State.memoryOk, mp]
  · exact fun h => by rwa [State.pagesOk, pp, size]
  · exact fun h => by rwa [State.reservedOk, pp]
  · exact fun h => by rwa [State.marksOk, pp, size]
  · exact fun h => by rwa [State.cacheOk, mu]
  · exact fun h => by rwa [State.queuesOk, mu, ae]
  · exact fun h => by rwa [State.grantOk, pe]
  · exact fun h => by rwa [State.lostOk, nu]
  · exact fun h => by rwa [State.tickOk, tb]

theorem State.Keeps.post (s : State) (b : Block) (ms : List Instr) : s.Keeps (s.post b ms) := .wires s _

theorem State.Keeps.onPp {t : State} {f : Work PP → Work PP} (h : ∀ w : Work PP, PP.Keeps t.poolSize w.st (f w).st) :
    t.Keeps (t.onPp f) := by
  obtain ⟨marks, covers, accounts⟩ := h (Work.start t.pp)
  exact ⟨id, accounts, covers, marks, id, id, id, id, id⟩

/-- Another Port Engine record takes the place of one whose grant it has where that is P0's. -/
theorem State.grantOk_set {t : State} {p : Port} {e : PE} (h : p = 0 → t.pe[p].grant = true → e.grant = true) (ws : List Wire)
    (hg : t.grantOk) : ({ t with pe := t.pe.set p e, wires := ws } : State).grantOk := by
  unfold State.grantOk at *
  by_cases hp : p = 0
  · subst hp
    simpa using h rfl hg
  · exact (congrArg PE.grant (set_ne t.pe e (Ne.symm hp))).trans hg

theorem State.Keeps.onPe {t : State} {p : Port} {f : Work PE → Work PE}
    (h : ∀ w : Work PE, p = 0 → w.st.grant = true → (f w).st.grant = true) : t.Keeps (t.onPe p f) :=
  ⟨id, id, id, id, id, id, State.grantOk_set (fun hp hg => (PE.arbitrate_grant _ _ _).trans (h _ hp hg)) _, id, id⟩

/-- The mask's copy leaves everything but a session record. -/
theorem State.Keeps.copyMask (t : State) (r : Req) : t.Keeps (t.copyMask r) := by
  unfold State.copyMask
  split
  · exact .refl _
  · split
    · exact .refl _
    · refine ⟨id, id, id, id, id, id, State.grantOk_set (fun _ hg => ?_) _, id, id⟩
      dsimp only
      split <;> exact hg

/-- PP's reset values meet its invariants (R27). -/
theorem PP.init_fine (memsize : Bool) : PP.init.MarksIn (Config.poolSize memsize) ∧ PP.init.Covers ∧
    PP.init.Accounts (Config.poolSize memsize) := by
  refine ⟨?_, ?_, .inl ⟨rfl, rfl⟩⟩
  · show 1024 < 2048 ∧ 2048 ≤ Config.poolSize memsize
    cases memsize <;> decide
  · unfold PP.Covers
    decide

theorem State.Keeps.clearBlock (t : State) (b : CoreBlock) : t.Keeps (t.clearBlock b) := by
  cases b with
  | sd | de | ru | tb => exact ⟨id, id, id, id, id, id, id, id, id⟩
  | pp =>
    obtain ⟨marks, covers, accounts⟩ := PP.init_fine t.dev.memsize
    exact ⟨id, fun _ => accounts, fun _ => covers, fun _ => marks, id, id, id, id, id⟩
  | mu => exact ⟨id, id, id, id, fun _ => ⟨List.nodup_nil, List.nodup_nil⟩, fun h => ⟨h.1, Nat.zero_le _⟩, id, id, id⟩
  | ae => exact ⟨id, id, id, id, id, fun h => ⟨Nat.zero_le _, h.2⟩, id, id, id⟩
  | mp => exact ⟨fun h => MP.cut_wf _ _ h, id, id, id, id, id, id, id, id⟩

theorem NU.init_bounded : NU.init.LostBounded := by
  intro p
  simp [NU.init, noSession]

theorem State.Keeps.tryEnd (t : State) : t.Keeps t.tryEnd := by
  unfold State.tryEnd
  split
  · refine ⟨id, id, id, id, id, id, fun _ => ?_, fun _ => NU.init_bounded, id⟩
    simp [State.endTeardown, State.grantOk, PE.renew, grantAtReset]
  · exact .refl _

/-- The device state machine's record leaves the invariants, but for the sampled size. -/
theorem State.Keeps.onDev (t : State) (f : Device → Device) (h : (f t.dev).memsize = t.dev.memsize) : t.Keeps (t.onDev f) :=
  .of_parts rfl rfl (congrArg Config.poolSize h) rfl rfl rfl rfl rfl

theorem State.Keeps.enter (t : State) (d : DevState) : t.Keeps (t.enter d) := .of_parts rfl rfl rfl rfl rfl rfl rfl rfl

/-- Every effect keeps the invariants. -/
theorem Effect.keeps {c : Instr} {t u : State} (h : Effect c t u) : t.Keeps u := by
  cases h with
  | same => exact .refl _
  | sd | ru | holder => exact .of_parts rfl rfl rfl rfl rfl rfl rfl rfl
  | de _ _ f =>
    exact .of_parts (congrArg MP.dram (State.onDe_mp t f)) (State.onDe_pp t f) (by simp [State.poolSize])
      (State.onDe_mu t f) (State.onDe_ae t f) (by rw [State.onDe_pe]) (State.onDe_nu t f) (State.onDe_tb t f)
  | pp c h => exact .onPp h
  | mu c t h =>
    obtain ⟨cache, queue⟩ := h (Work.start t.mu)
    exact ⟨id, id, id, id, cache, fun q => ⟨q.1, queue q.2⟩, id, id, id⟩
  | ae c t h => exact ⟨id, id, id, id, id, fun q => ⟨h (Work.start t.ae) q.1, q.2⟩, id, id, id⟩
  | nu c t h => exact ⟨id, id, id, id, id, id, id, h (Work.start t.nu), id⟩
  | mask r t =>
    refine .trans ?_ (.copyMask _ r)
    exact ⟨id, id, id, id, id, id, id, NU.noticeMask_bounded r _ (w := Work.start t.nu), id⟩
  | tb c t h => exact ⟨id, id, id, id, id, id, id, id, Nat.lt_of_le_of_lt (Nat.le_of_eq (h (Work.start t.tb)))⟩
  | pe c t h => exact .onPe h
  | teardown p t => exact .trans (.wires t _) (.onPe fun w _ => (PE.teardown_grant p _ w).trans)
  | issue op t =>
    exact .of_parts (MP.issue_dram op t.mp) rfl rfl rfl rfl rfl rfl rfl
  | calibrated ok t =>
    unfold State.calibrated
    split
    · have spoilt : t.Keeps { t with mp := { t.mp with calibrated := ok, dram := t.mp.dram.spoil 0 areaBytes } } :=
        ⟨fun h => Dram.spoil_wf h _ _, id, id, id, id, id, id, id, id⟩
      cases ok <;> exact spoilt.trans (.enter _ _)
    · exact .refl _
  | checked equal t =>
    have step (r : Dram × Bool) (n : Nat) (h : t.mp.dram.wf = true → r.1.wf = true) :
        t.Keeps (if r.2 then State.beginBuild { t with mp := { t.mp with dram := r.1 }, free := n }
          else State.enter { t with mp := { t.mp with dram := r.1 }, free := n } .failed) := by
      split <;> exact ⟨h, id, id, id, id, id, id, id, id⟩
    unfold State.memoryChecked
    split
    · exact step _ _ (Dram.check_wf _ _)
    · exact .refl _
  | built t =>
    unfold State.built
    split
    · exact (State.Keeps.enter t _).trans (.post _ _ _)
    · exact .refl _
  | restart r t =>
    unfold State.restart
    split
    · exact .refl _
    · split
      · exact .post _ _ _
      · split
        · exact (State.Keeps.onDev t _ rfl).trans (.post _ _ _)
        · exact .refl _
  | abandon b t =>
    unfold State.abandon
    split
    · refine (State.Keeps.clearBlock t b).trans (.trans ?_ (.post _ _ _))
      exact .of_parts rfl rfl rfl rfl rfl rfl rfl rfl
    · exact .refl _
  | blockDone b t =>
    unfold State.blockDone
    split
    · refine .trans ?_ (.tryEnd _)
      exact .onDev t _ rfl
    · exact .refl _
  | portSettled p t =>
    unfold State.portSettled
    split
    · refine .trans ?_ (.tryEnd _)
      exact .onDev t _ rfl
    · exact .refl _
  | nuDone t =>
    unfold State.nuDone
    split
    · refine .trans ?_ (.tryEnd _)
      exact .onDev t _ rfl
    · exact .refl _

/-- The reset values meet every invariant but the DRAM's, whatever the DRAM and the pins (R200). -/
theorem State.powerUp_fine (memsize : Bool) (m : MP) (d : Device) (l : List Instr) (n : Nat) (hd : d.memsize = memsize)
    {u : State} (hu : u = { State.powerUp memsize with mp := m, dev := d, pending := l, free := n }) :
    u.pagesOk ∧ u.reservedOk ∧ u.marksOk ∧ u.cacheOk ∧ u.queuesOk ∧ u.grantOk ∧ u.lostOk ∧ u.tickOk := by
  subst hd hu
  obtain ⟨marks, covers, accounts⟩ := PP.init_fine d.memsize
  exact ⟨accounts, covers, marks, ⟨List.nodup_nil, List.nodup_nil⟩, ⟨Nat.zero_le _, Nat.zero_le _⟩, rfl, NU.init_bounded,
    Nat.zero_lt_succ _⟩

/-- A step to the reset values keeps the invariants where it keeps the DRAM's. -/
theorem State.Keeps.of_powerUp {s u : State} (memory : s.memoryOk → u.memoryOk) (fine : u.pagesOk ∧ u.reservedOk ∧
    u.marksOk ∧ u.cacheOk ∧ u.queuesOk ∧ u.grantOk ∧ u.lostOk ∧ u.tickOk) : s.Keeps u := by
  obtain ⟨pages, reserved, marks, cache, queues, grant, lost, tick⟩ := fine
  exact ⟨memory, fun _ => pages, fun _ => reserved, fun _ => marks, fun _ => cache, fun _ => queues, fun _ => grant,
    fun _ => lost, fun _ => tick⟩

theorem State.Keeps.hold (s : State) : s.Keeps s.hold :=
  .of_powerUp (fun h => MP.cut_wf _ _ h) (State.powerUp_fine s.dev.memsize _ { Device.init s.dev.memsize with low := true } _ _ rfl rfl)

theorem State.Keeps.release (memsize : Bool) (s : State) : s.Keeps (s.release memsize) :=
  .of_powerUp (fun _ => Dram.lose_wf _) (State.powerUp_fine memsize _ (Device.init memsize) _ _ rfl rfl)

/-- What arrives has left the wires, and nothing else differs. -/
theorem State.Keeps.receive {m : Instr} {s t : State} (h : s.receive m = some t) : s.Keeps t := by
  rw [receive_frame h]
  exact .wires s _

/-- The end of a DRAM operation keeps the invariants (R197). -/
theorem State.Keeps.finishOperation {t u : State} (h : t.finishOperation = .next u) : t.Keeps u := by
  unfold State.finishOperation at h
  split at h
  · cases h
    exact .refl _
  · split at h
    · cases h
      rename_i op _ _
      have dram : (t.onMp (MP.finish op)).mp.dram = Dram.perform op t.mp.dram := MP.finish_dram op (Work.start t.mp)
      exact ⟨fun wf => (congrArg Dram.wf dram).trans (Dram.perform_wf wf op), id, id, id, id, id, id, id, id⟩
    · cases h

/-- Everything that a command that arrives comes to. -/
theorem arrive_effect {c : Instr} {s u : State} {act : State → State} (effect : ∀ t, Effect c t (act t))
    (h : arrive c s act = .next u) : u = s ∨ ∃ t, s.receive c = some t ∧ (u = t ∨ Effect c t u) := by
  rcases arrive_cases c s act with e | ⟨t, ht, e | e⟩ <;> rw [e] at h <;> cases h
  · exact .inl rfl
  · exact .inr ⟨_, ht, .inl rfl⟩
  · exact .inr ⟨t, ht, .inr (effect t)⟩

/-- Everything that the end of a DRAM operation comes to. -/
theorem execMpOperationFinished_cases {s u : State} (h : execMpOperationFinished s = .next u) :
    u = s ∨ ∃ t, s.receive .mpOperationFinished = some t ∧ (u = t ∨ t.finishOperation = .next u) := by
  unfold execMpOperationFinished at h
  split at h
  · cases h
    exact .inl rfl
  · rename_i t ht
    refine .inr ⟨t, ht, ?_⟩
    split at h
    · cases h
      exact .inl rfl
    · exact .inr h

/-- Every command keeps the invariants. -/
theorem exec_keeps {c : Instr} {s u : State} (h : exec c s = .next u) : s.Keeps u := by
  rcases exec_shape c s with rfl | ⟨m, rfl⟩ | rfl | ⟨act, e, effect⟩
  · cases h
    exact .hold s
  · change Host.Outcome.next (if s.dev.low then s.release m else s) = .next u at h
    cases h
    split
    · exact .release m s
    · exact .refl s
  · rcases execMpOperationFinished_cases h with rfl | ⟨t, ht, rfl | finished⟩
    · exact .refl _
    · exact .receive ht
    · exact (State.Keeps.receive ht).trans (.finishOperation finished)
  · rw [e] at h
    rcases arrive_effect effect h with rfl | ⟨t, ht, rfl | eff⟩
    · exact .refl _
    · exact .receive ht
    · exact (State.Keeps.receive ht).trans eff.keeps

/-- A microsecond keeps the invariants. -/
theorem State.Keeps.passTime (s : State) : s.Keeps s.passTime := by
  have gap (t : State) (p : Port) : t.Keeps (t.gapRuns p) := by
    unfold State.gapRuns
    dsimp only
    split
    · exact .refl _
    · split
      · refine ⟨id, id, id, id, id, id, fun hg => ?_, id, id⟩
        exact State.grantOk_set (e := { t.pe[p] with framer := { t.pe[p].framer with gap := t.pe[p].framer.gap + 1 } })
          (fun _ h => h) t.wires hg
      · exact .onPe fun w _ => (PE.byteGapAbort_grant p _ w).trans
  have gaps (l : List Port) (t : State) : t.Keeps (l.foldl State.gapRuns t) := by
    induction l generalizing t with
    | nil => exact .refl _
    | cons p l ih => exact (gap t p).trans (ih _)
  unfold State.passTime
  split
  · exact .refl _
  · refine State.Keeps.trans ?_ (gaps _ _)
    exact ⟨id, id, id, id, id, id, id, id, TB.advance_micros⟩

/-- Every step keeps the invariants. -/
theorem step_keeps {s u : State} (h : step s = .next u) : s.Keeps u := by
  unfold step at h
  split at h
  · refine State.Keeps.trans ?_ (exec_keeps h)
    exact ⟨id, id, id, id, id, id, id, id, id⟩
  · unfold State.idle at h
    split at h
    · exact exec_keeps h
    · cases h
      exact .passTime s

/-! ### The DRAM, and the state FAILED -/

@[simp] theorem State.copyMask_mp (t : State) (r : Req) : (t.copyMask r).mp = t.mp := by
  unfold State.copyMask
  split
  · rfl
  · split <;> rfl

@[simp] theorem State.copyMask_dev (t : State) (r : Req) : (t.copyMask r).dev = t.dev := by
  unfold State.copyMask
  split
  · rfl
  · split <;> rfl

theorem State.tryEnd_mp (t : State) : t.tryEnd.mp = t.mp := by
  unfold State.tryEnd
  split <;> rfl

/-- An effect of a command other than those of start-up and of MP's abandon order leaves the DRAM. -/
theorem Effect.dram {c : Instr} {t u : State} (h : Effect c t u) (cal : ∀ ok, c ≠ .calibrationDone ok)
    (check : ∀ ok, c ≠ .memoryCheckDone ok) (mp : c ≠ .abandonOrder .mp) : u.mp.dram = t.mp.dram := by
  cases h with
  | same | sd | ru | holder | pp | mu | ae | nu | tb | pe | teardown => rfl
  | de _ _ f => rw [State.onDe_mp]
  | mask r t => rw [State.copyMask_mp, State.onNu_mp]
  | issue op t => exact MP.issue_dram op t.mp
  | calibrated ok t => exact absurd rfl (cal ok)
  | checked equal t => exact absurd rfl (check equal)
  | built t =>
    unfold State.built
    split <;> rfl
  | restart r t =>
    unfold State.restart
    split
    · rfl
    · split
      · rfl
      · split <;> rfl
  | abandon b t =>
    unfold State.abandon
    split
    · cases b with
      | mp => exact absurd rfl mp
      | sd | pp | mu | ae | de | ru | tb => rfl
    · rfl
  | blockDone b t =>
    unfold State.blockDone
    split
    · rw [State.tryEnd_mp, State.onDev_mp]
    · rfl
  | portSettled p t =>
    unfold State.portSettled
    split
    · rw [State.tryEnd_mp, State.onDev_mp]
    · rfl
  | nuDone t =>
    unfold State.nuDone
    split
    · rw [State.tryEnd_mp, State.onDev_mp]
    · rfl

/-- No effect leaves FAILED: each change of the device state begins in another one (R204). -/
theorem Effect.failed {c : Instr} {t u : State} (h : Effect c t u) (ht : t.dev.state = .failed) : u.dev.state = .failed := by
  have not {d : DevState} (hd : d ≠ .failed) : t.dev.state ≠ d := fun e => hd (e.symm.trans ht)
  cases h with
  | same | sd | ru | holder | pp | mu | ae | nu | tb | pe | teardown | issue => exact ht
  | de _ _ f => rwa [State.onDe_dev]
  | mask r t => rwa [State.copyMask_dev, State.onNu_dev]
  | calibrated ok t => rwa [State.calibrated, if_neg (not (by decide))]
  | checked equal t => rwa [State.memoryChecked, if_neg (not (by decide))]
  | built t => rwa [State.built, if_neg (not (by decide))]
  | restart r t =>
    rw [State.restart, if_neg (not (by decide)), if_neg (not (by decide))]
    split <;> exact ht
  | abandon b t => rwa [State.abandon, if_neg (not (by decide))]
  | blockDone b t => rwa [State.blockDone, if_neg (not (by decide))]
  | portSettled p t => rwa [State.portSettled, if_neg (not (by decide))]
  | nuDone t => rwa [State.nuDone, if_neg (not (by decide))]

end Sys2Proof.Machine

/-! The statements about the invariants. -/

section
open Sys2Proof Sys2Proof.Machine

/-- Settles O1: a step with a command waiting is its effect, by definition. -/
theorem stepRunsTheFrontCommand : Obligations.StepRunsTheFrontCommand := fun _ _ => rfl

/-- Settles O57: every effect of a command keeps the invariants, and so does a microsecond. -/
theorem stepKeepsTheInvariants : Obligations.StepKeepsTheInvariants := by
  refine ⟨fun s u ok h => (step_keeps h).memory ok, fun s u h => ?_⟩
  obtain ⟨-, -, reserved, marks, cache, queues, grant, lost, tick⟩ := step_keeps h
  exact ⟨marks, cache, queues, grant, lost, tick, reserved⟩

/-- Settles O58: the pages' part of what every step keeps. -/
theorem poolPagesStayAccountedFor : Obligations.PoolPagesStayAccountedFor := fun _ _ ok h => (step_keeps h).pages ok

/-- Settles O59: the reset state is one of the reset values. -/
theorem invariantsHoldAfterReset : Obligations.InvariantsHoldAfterReset := by
  obtain ⟨pages, reserved, marks, cache, queues, grant, lost, tick⟩ :=
    State.powerUp_fine true MP.init (Device.init true) [] 0 rfl (u := State.reset) rfl
  exact ⟨rfl, pages, marks, cache, queues, grant, lost, tick, reserved⟩

/-- Settles O56: what arrives leaves the DRAM, and so does every effect but those that the statement names. -/
theorem memoryChangesOnlyAtTheMemoryPort : Obligations.MemoryChangesOnlyAtTheMemoryPort := by
  intro c s u h notLow notRelease notCalibration notCheck notAbandon notFinished
  rcases exec_shape c s with rfl | ⟨m, rfl⟩ | rfl | ⟨act, e, effect⟩
  · exact absurd rfl notLow
  · exact absurd rfl (notRelease m)
  · exact absurd rfl notFinished
  · rw [e] at h
    rcases arrive_effect effect h with rfl | ⟨t, ht, rfl | eff⟩
    · rfl
    · rw [receive_frame ht]
    · rw [eff.dram notCalibration notCheck notAbandon, receive_frame ht]

/-- Settles O60: no effect leaves FAILED, nor does the end of a DRAM operation. -/
theorem failedIsLeftByResetAlone : Obligations.FailedIsLeftByResetAlone := by
  intro c s u failed notLow notRelease h
  have received {m : Instr} {t : State} (ht : s.receive m = some t) : t.dev.state = .failed := by
    rwa [receive_frame ht]
  rcases exec_shape c s with rfl | ⟨m, rfl⟩ | rfl | ⟨act, e, effect⟩
  · exact absurd rfl notLow
  · exact absurd rfl (notRelease m)
  · rcases execMpOperationFinished_cases h with rfl | ⟨t, ht, rfl | finished⟩
    · exact failed
    · exact received ht
    · have ht := received ht
      unfold State.finishOperation at finished
      split at finished
      · cases finished
        exact ht
      · split at finished <;> cases finished
        exact ht
  · rw [e] at h
    rcases arrive_effect effect h with rfl | ⟨t, ht, rfl | eff⟩
    · exact failed
    · exact received ht
    · exact eff.failed (received ht)

end

/-! SUPPORT. The step, the arrival of commands, and an event at a Port Engine: what the arbiter can do at its end (R187, R190, R191),
and that a microsecond's gap counts and aborts do not meet (R182). -/

namespace Sys2Proof.Machine

/-! ### What is held back, and what is discarded (R78, R187, R200, R206) -/

/-- While RESET_N is low a command that arrives changes nothing (R200). -/
theorem arrive_low {m : Instr} {s : State} (h : s.dev.low = true) (act : State → State) : arrive m s act = .next s :=
  arrive_absent (by rw [State.receive, if_pos h]) act

/-- A command at a core block that has been abandoned is discarded (R206). -/
theorem drops_of_abandoned {c : Instr} {b : CoreBlock} {t : State} (hb : dstOf c = .core b) (ha : ∀ x, c ≠ .abandonOrder x)
    (hc : ∀ r, c ≠ .clockSet r) (h : b ∈ t.abandoned) : t.drops c = true := by
  unfold State.drops
  split
  · exact absurd rfl (ha _)
  · exact absurd rfl (hc _)
  · rename_i d e
    rw [hb] at e
    cases e
    simpa using h
  · rename_i no
    exact absurd hb (no b)

/-- The model's test of the order in which messages arrive is the statement's. -/
theorem keepsBack_iff (x y : Wire) : keepsBack x y = true ↔ HeldBackBy x y := by
  have commit : commitAhead y.msg x.msg = true ↔ (∃ i q stamp, y.msg = .commit i q stamp) ∧
      ∃ p k st d q stamp, x.msg = .answerArrival p k ⟨st, d, .append q stamp⟩ := by
    constructor
    · intro h
      unfold commitAhead at h
      split at h
      · exact ⟨⟨_, _, _, ‹_›⟩, _, _, _, _, _, _, ‹_›⟩
      · cases h
    · rintro ⟨⟨i, q, stamp, hy⟩, p, k, st, d, q', stamp', hx⟩
      rw [hy, hx]
      rfl
  simp only [keepsBack, HeldBackBy, Bool.and_eq_true, Bool.or_eq_true, decide_eq_true_eq, commit, ne_eq, and_assoc]
  exact and_congr Iff.rfl and_comm

/-- Behind messages that are not the one that arrives, the search goes on with them as the older ones. -/
theorem arrivalOf_append {m : Instr} {before : List Wire} (h : ∀ y ∈ before, y.msg ≠ m) (seen rest : List Wire)
    (kept : Bool) : arrivalOf m seen kept (before ++ rest) = arrivalOf m (before.reverse ++ seen) kept rest := by
  induction before generalizing seen with
  | nil => rfl
  | cons y ys ih =>
    rw [List.cons_append, arrivalOf, if_neg (h y (by simp)), ih fun z hz => h z (by simp [hz])]
    simp

/-- Without the message among those that are left, it has come from outside or is kept back. -/
theorem arrivalOf_none {m : Instr} {rest : List Wire} (h : ∀ y ∈ rest, y.msg ≠ m) (seen : List Wire) (kept : Bool) :
    arrivalOf m seen kept rest = if kept then .blocked else .outside := by
  rw [← List.append_nil rest, arrivalOf_append h]
  rfl

/-! ### A microsecond (R176, R182) -/

/-- The deadlines that a tick reaches, as the spec names them (R123, R145, R170). -/
theorem State.mem_expiries {s : State} {k : Tick} (h : .tb ∉ s.abandoned) (m : Instr) : m ∈ s.expiries k ↔
    (∃ p : Port, m = .keepaliveExpiry p k ∧ s.pe[p].sess.deadline = some k) ∨
      (∃ (c : CursorId) (e : InFlight), m = .ackDeadlineExpiry c e.seq e.tries ∧ e ∈ s.de.cursors[c].list ∧
        e.due = false ∧ e.deadline = k) ∨
      (m = .ageScanExpiry k ∧ s.ru.scan = some k) := by
  have alive : s.abandoned.contains .tb = false := by simpa using h
  have keep : m ∈ s.keepalives k ↔ ∃ p : Port, m = .keepaliveExpiry p k ∧ s.pe[p].sess.deadline = some k := by
    simp only [State.keepalives, List.mem_filterMap, List.mem_finRange, true_and, Option.ite_none_right_eq_some,
      Option.some.injEq]
    exact exists_congr fun p => ⟨fun ⟨a, b⟩ => ⟨b.symm, a⟩, fun ⟨a, b⟩ => ⟨b, a.symm⟩⟩
  have ack : m ∈ s.ackDeadlines k ↔ ∃ (c : CursorId) (e : InFlight), m = .ackDeadlineExpiry c e.seq e.tries ∧
      e ∈ s.de.cursors[c].list ∧ e.due = false ∧ e.deadline = k := by
    simp only [State.ackDeadlines, List.mem_flatMap, List.mem_finRange, true_and, List.mem_map, List.mem_filter,
      Bool.and_eq_true, Bool.not_eq_true', decide_eq_true_eq]
    exact exists_congr fun c => exists_congr fun e => ⟨fun ⟨⟨a, b, c⟩, d⟩ => ⟨d.symm, a, b, c⟩, fun ⟨a, b, c, d⟩ =>
      ⟨⟨b, c, d⟩, a.symm⟩⟩
  have scan : m ∈ s.scanDeadline k ↔ m = .ageScanExpiry k ∧ s.ru.scan = some k := by
    unfold State.scanDeadline
    split <;> simp [*]
  rw [State.expiries, alive, if_neg (by decide), List.mem_append, List.mem_append, keep, ack, scan, or_assoc]

/-- One microsecond more in the frame in progress at a port. -/
def PE.gapCounted (e : PE) : PE := { e with framer := { e.framer with gap := e.framer.gap + 1 } }

/-- The frame in progress at a port has reached 2 ms (R182). -/
def State.gapOver (s : State) (p : Port) : Bool :=
  s.pe[p].framer.state ≠ .hunting && decide (2000 ≤ s.pe[p].framer.gap)

/-- The abort of the frame in progress at a port (R182). -/
def State.gapAborted (s : State) (p : Port) : State := s.onPe p (PE.byteGapAbort p s.tb.tick)

/-- The gap count of the frame in progress at a port, where it has not reached 2 ms. -/
def State.gapStep (s : State) (p : Port) : State :=
  if s.pe[p].framer.state ≠ .hunting ∧ s.pe[p].framer.gap < 2000 then { s with pe := upd s.pe p PE.gapCounted } else s

/-- A microsecond at a port is the gap's count, or the abort. -/
theorem State.gapRuns_eq (s : State) (p : Port) :
    s.gapRuns p = if s.gapOver p then s.gapAborted p else s.gapStep p := by
  unfold State.gapRuns State.gapOver State.gapStep State.gapAborted
  by_cases hs : s.pe[p].framer.state = .hunting
  · simp [-Fin.getElem_fin, hs]
  · by_cases hg : s.pe[p].framer.gap < 2000
    · simp [-Fin.getElem_fin, hs, hg, Nat.not_le.2 hg]
      rfl
    · simp [-Fin.getElem_fin, hs, hg, Nat.not_lt.1 hg]

/-- An event at one Port Engine leaves the others. -/
theorem State.onPe_pe_ne (s : State) {p q : Port} (f : Work PE → Work PE) (h : q ≠ p) : (s.onPe p f).pe[q] = s.pe[q] :=
  set_ne _ _ h

/-- A gap's count leaves the other Port Engines. -/
theorem State.gapStep_pe_ne (s : State) {p q : Port} (h : q ≠ p) : (s.gapStep p).pe[q] = s.pe[q] := by
  unfold State.gapStep
  split
  · exact upd_ne _ _ h
  · rfl

/-- A gap's count at its own Port Engine. -/
theorem State.gapStep_pe_self (s : State) (p : Port) : (s.gapStep p).pe[p] =
    if s.pe[p].framer.state ≠ .hunting ∧ s.pe[p].framer.gap < 2000 then s.pe[p].gapCounted else s.pe[p] := by
  unfold State.gapStep
  split
  · exact upd_self _ _ _
  · rfl

/-- A gap's count differs from before in the Port Engines alone. -/
theorem State.gapStep_frame (s : State) (p : Port) : s.gapStep p = { s with pe := (s.gapStep p).pe } := by
  unfold State.gapStep
  split <;> rfl

/-- The gap's count at one port and an event at another do not meet. -/
theorem State.gapStep_onPe (s : State) {p q : Port} (f : Work PE → Work PE) (h : q ≠ p) :
    (s.onPe p f).gapStep q = (s.gapStep q).onPe p f := by
  have same : (s.gapStep q).pe[p] = s.pe[p] := State.gapStep_pe_ne s (Ne.symm h)
  have env : (s.gapStep q).peEnv p = s.peEnv p := by
    have session : (s.gapStep q).session p = s.session p := by
      unfold State.session
      rw [same]
    have num : (s.gapStep q).pe[p].sess.number = s.pe[p].sess.number := by rw [same]
    rw [State.gapStep_frame s q] at session ⊢
    unfold State.peEnv
    rw [session]
    rfl
  by_cases hq : s.pe[q].framer.state ≠ .hunting ∧ s.pe[q].framer.gap < 2000
  · have hq' : (s.onPe p f).pe[q].framer.state ≠ .hunting ∧ (s.onPe p f).pe[q].framer.gap < 2000 := by
      rwa [State.onPe_pe_ne s f h]
    have comm (x : PE) : upd (s.pe.set p x) q PE.gapCounted = (upd s.pe q PE.gapCounted).set p x := by
      unfold upd
      rw [set_ne _ _ h]
      exact Vector.set_comm _ _ fun e => h (Fin.ext e.symm)
    unfold State.gapStep at same env ⊢
    rw [if_pos hq] at same env ⊢
    rw [if_pos hq']
    unfold State.onPe
    rw [env, same]
    simp only [State.post, comm]
  · have hq' : ¬ ((s.onPe p f).pe[q].framer.state ≠ .hunting ∧ (s.onPe p f).pe[q].framer.gap < 2000) := by
      rwa [State.onPe_pe_ne s f h]
    rw [State.gapStep, State.gapStep, if_neg hq, if_neg hq']

theorem State.gapStep_gapAborted (s : State) {p q : Port} (h : q ≠ p) :
    (s.gapAborted p).gapStep q = (s.gapStep q).gapAborted p := by
  unfold State.gapAborted
  rw [State.gapStep_onPe s _ h, State.gapStep_frame s q]

/-- Gap counts at other ports come to the same ahead of an abort as behind it. -/
theorem State.foldl_gapStep_gapAborted (l : List Port) (s : State) {p : Port} (h : p ∉ l) :
    l.foldl State.gapStep (s.gapAborted p) = (l.foldl State.gapStep s).gapAborted p := by
  induction l generalizing s with
  | nil => rfl
  | cons q l ih =>
    rw [List.foldl_cons, List.foldl_cons, State.gapStep_gapAborted s fun e => h (by simp [e]), ih _ fun e => h (by simp [e])]

/-- A microsecond at several ports: all gaps are counted, then the frames that have reached 2 ms are aborted. -/
theorem State.foldl_gapRuns (l : List Port) (s : State) (nodup : l.Nodup) :
    l.foldl State.gapRuns s = (l.filter s.gapOver).foldl State.gapAborted (l.foldl State.gapStep s) := by
  induction l generalizing s with
  | nil => rfl
  | cons p l ih =>
    obtain ⟨hp, hl⟩ := List.nodup_cons.1 nodup
    rw [List.foldl_cons, State.gapRuns_eq]
    cases hov : s.gapOver p with
    | true =>
      have others : l.filter (s.gapAborted p).gapOver = l.filter s.gapOver := by
        refine List.filter_congr fun q hq => ?_
        unfold State.gapOver State.gapAborted
        rw [State.onPe_pe_ne s _ (ne_of_mem_of_not_mem hq hp)]
      have counted : s.gapStep p = s := by
        unfold State.gapStep State.gapOver at *
        simp only [ne_eq, decide_not, Bool.and_eq_true, Bool.not_eq_true', decide_eq_false_iff_not, decide_eq_true_eq] at hov
        exact if_neg fun e => absurd e.2 (Nat.not_lt.2 hov.2)
      rw [if_pos rfl, ih _ hl, others, State.foldl_gapStep_gapAborted l s hp, List.foldl_cons, counted,
        List.filter_cons_of_pos hov, List.foldl_cons]
    | false =>
      have others : l.filter (s.gapStep p).gapOver = l.filter s.gapOver := by
        refine List.filter_congr fun q hq => ?_
        unfold State.gapOver
        rw [State.gapStep_pe_ne s (ne_of_mem_of_not_mem hq hp)]
      rw [if_neg (by decide), ih _ hl, others, List.foldl_cons, List.filter_cons_of_neg (by simp [hov])]

/-- Gap counts at several ports change each of them as its own count does. -/
theorem State.foldl_gapStep_pe (l : List Port) (s : State) (nodup : l.Nodup) (p : Port) :
    (l.foldl State.gapStep s).pe[p] = if p ∈ l then (s.gapStep p).pe[p] else s.pe[p] := by
  induction l generalizing s with
  | nil => rfl
  | cons q l ih =>
    obtain ⟨hq, hl⟩ := List.nodup_cons.1 nodup
    rw [List.foldl_cons, ih _ hl]
    by_cases e : p = q
    · subst e
      rw [if_neg hq, if_pos (by simp)]
    · have same : (s.gapStep q).pe[p] = s.pe[p] := State.gapStep_pe_ne s e
      have both : ((s.gapStep q).gapStep p).pe[p] = (s.gapStep p).pe[p] := by
        rw [State.gapStep_pe_self, State.gapStep_pe_self, same]
      simp only [List.mem_cons, e, false_or, same, both]

/-- Gap counts differ from before in the Port Engines alone. -/
theorem State.foldl_gapStep_frame (l : List Port) (s : State) : ∃ v, l.foldl State.gapStep s = { s with pe := v } := by
  induction l generalizing s with
  | nil => exact ⟨s.pe, rfl⟩
  | cons p l ih =>
    obtain ⟨v, h⟩ := ih (s.gapStep p)
    refine ⟨v, h.trans ?_⟩
    rw [State.gapStep_frame s p]

/-! ### An event at a Port Engine -/

/-- Everything that the arbiter can do: it takes a frame for the line, a REPLY from the queue or an offer, and tells what it has taken
(R190, R191). -/
theorem PE.arbitrate_frame (p : Port) (env : PeEnv) (w : Work PE) : ∃ tx replies prefer last more,
    PE.arbitrate p env w =
      ⟨{ w.st with tx := tx, replies := replies, preferDeliver := prefer, lastCursor := last }, w.out ++ more⟩ := by
  have same : ∃ tx replies prefer last more, w =
      ⟨{ w.st with tx := tx, replies := replies, preferDeliver := prefer, lastCursor := last }, w.out ++ more⟩ :=
    ⟨w.st.tx, w.st.replies, w.st.preferDeliver, w.st.lastCursor, [], by simp⟩
  have notice (sess : SessId) (n : Notice) : ∃ tx replies prefer last more, PE.takeNotice p sess n w =
      ⟨{ w.st with tx := tx, replies := replies, preferDeliver := prefer, lastCursor := last }, w.out ++ more⟩ :=
    ⟨_, _, _, _, _, rfl⟩
  have deliver (o : Offer) : ∃ tx replies prefer last more, PE.takeDeliver o w =
      ⟨{ w.st with tx := tx, replies := replies, preferDeliver := prefer, lastCursor := last }, w.out ++ more⟩ :=
    ⟨_, _, _, _, _, rfl⟩
  unfold PE.arbitrate
  dsimp only
  split
  · exact same
  · split
    · exact ⟨_, _, _, w.st.lastCursor, [], by rw [List.append_nil]; rfl⟩
    · split
      · split
        · exact deliver _
        · exact notice _ _
      · exact notice _ _
      · exact deliver _
      · exact same

/-- An event at a Port Engine touches that Port Engine and the messages on their way. -/
theorem State.onPe_only (t : State) (p : Port) (f : Work PE → Work PE) : OnlyPe p t (t.onPe p f) := by
  simp [OnlyPe, State.onPe, State.post]

/-- An event at a Port Engine leaves it as the event's own work does, but for what the arbiter takes, and sends its own messages
first (R190, R191). -/
theorem State.onPe_frame (t : State) (p : Port) (f : Work PE → Work PE) :
    ∃ tx replies prefer last, (t.onPe p f).pe[p] = { (f (Work.start t.pe[p])).st with
        tx := tx, replies := replies, preferDeliver := prefer, lastCursor := last } ∧
      SendsFirst (.pe p) t (t.onPe p f) (f (Work.start t.pe[p])).out := by
  obtain ⟨tx, replies, prefer, last, more, h⟩ := PE.arbitrate_frame p (t.peEnv p) (f (Work.start t.pe[p]))
  refine ⟨tx, replies, prefer, last, ?_, more, ?_⟩
  · rw [State.onPe_pe, h]
    exact set_self _ _ _
  · rw [Sends, State.onPe_wires, h]

end Sys2Proof.Machine

/-! The statements about the step, the arrival of commands, the reset values and the status codes. -/

section
open Sys2Proof Sys2Proof.Machine

/-- Settles O2: of a microsecond's counts and aborts the counts can all be taken first. -/
theorem stepWithoutACommand : Obligations.StepWithoutACommand := by
  intro s quiet
  have idle : step s = s.idle := by rw [step, quiet]
  refine ⟨fun w ws hw => ?_, fun hw low => ?_, fun hw high => ?_⟩
  · rw [idle, State.idle, hw]
  · rw [idle, State.idle, hw]
    dsimp only
    rw [State.passTime, if_pos low]
  · let due := if s.tb.advance.micros = 0 then s.expiries s.tb.advance.tick else []
    let ticked : State := { s with tb := s.tb.advance }.post (.core .tb) due
    obtain ⟨v, onlyPe⟩ := State.foldl_gapStep_frame (List.finRange 4) ticked
    have tb : ((List.finRange 4).foldl State.gapStep ticked).tb = s.tb.advance := by
      rw [onlyPe]
      rfl
    refine ⟨(List.finRange 4).foldl State.gapStep ticked, due, ?_, fun h => ?_, fun h => ?_, fun p => ?_, ?_⟩
    · rw [onlyPe]
      simp only [ticked, State.post, hw, List.nil_append]
    · have advance : s.tb.advance = ⟨s.tb.clock + 1, s.tb.tick, s.tb.micros + 1⟩ := by rw [TB.advance, if_neg h]
      refine ⟨tb.trans advance, if_neg ?_⟩
      rw [advance]
      exact Nat.succ_ne_zero _
    · have advance : s.tb.advance = ⟨s.tb.clock + 1, s.tb.tick + 1, 0⟩ := by rw [TB.advance, if_pos h]
      have all : due = s.expiries s.tb.advance.tick := if_pos (by rw [advance])
      refine ⟨tb.trans advance, fun dead => ?_, fun alive m => ?_⟩
      · rw [all, State.expiries, if_pos (by simpa using dead)]
      · rw [tb, all, State.mem_expiries alive]
    · rw [State.foldl_gapStep_pe _ _ (List.nodup_finRange 4), if_pos (List.mem_finRange p), State.gapStep_pe_self]
      refine ⟨fun h => if_pos h, fun h => if_neg ?_⟩
      rintro ⟨h1, h2⟩
      exact h.elim h1 (Nat.not_le.2 h2)
    · rw [idle, State.idle, hw]
      dsimp only
      rw [State.passTime, if_neg (by simp [high])]
      exact congrArg _ (State.foldl_gapRuns _ ticked (List.nodup_finRange 4))

/-- Settles O3: what does not arrive changes nothing, and what is discarded leaves the wires alone. -/
theorem heldAndDiscardedCommands : Obligations.HeldAndDiscardedCommands := by
  refine ⟨fun c s low notLow notRelease => ?_, fun c b s t hb ha hc abandoned received => ?_⟩
  · rcases exec_shape c s with rfl | ⟨m, rfl⟩ | rfl | ⟨act, e, -⟩
    · exact absurd rfl notLow
    · exact absurd rfl (notRelease m)
    · show execMpOperationFinished s = .next s
      rw [execMpOperationFinished, State.receive, if_pos low]
    · rw [e, arrive_low low]
  · have drops := drops_of_abandoned hb ha hc abandoned
    rcases exec_shape c s with rfl | ⟨m, rfl⟩ | rfl | ⟨act, e, -⟩
    · cases hb
    · cases hb
    · show execMpOperationFinished s = .next t
      rw [execMpOperationFinished, received]
      exact if_pos drops
    · rw [e, arrive_dropped received drops]

/-- Settles O4: the older messages are those ahead of the one that arrives. -/
theorem messagesArriveInTheOrderSent : Obligations.MessagesArriveInTheOrderSent := by
  intro m s x before after high hx hw others
  have ahead : ∀ y ∈ before, y.msg ≠ m := fun y hy => others y (List.mem_append_left _ hy)
  have behind : ∀ y ∈ after, y.msg ≠ m := fun y hy => others y (List.mem_append_right _ hy)
  have arrival : arrivalOf m [] false s.wires =
      if before.any (keepsBack x) then .blocked else .taken (before ++ after) := by
    rw [hw, arrivalOf_append ahead, arrivalOf, if_pos hx, arrivalOf_none behind, List.append_nil, List.any_reverse,
      List.reverse_reverse]
    rfl
  refine ⟨fun ⟨y, hy, back⟩ => ?_, fun free => ?_⟩
  · rw [State.receive, if_neg (by simp [high]), arrival, if_pos (List.any_eq_true.2 ⟨y, hy, (keepsBack_iff x y).2 back⟩)]
  · have none : before.any (keepsBack x) = false := by
      rw [List.any_eq_false]
      exact fun y hy back => free y hy ((keepsBack_iff x y).1 back)
    rw [State.receive, if_neg (by simp [high]), arrival, none]
    rfl

/-- Settles O5: each table of the reset state has one value in every entry, but for the Port Engines, of which P0 has the grant. -/
theorem resetLeavesTheResetValues : Obligations.ResetLeavesTheResetValues := by
  have entry {α : Type} {n : Nat} (x : α) (i : Fin n) : (Vector.replicate n x)[i] = x := by simp
  have port (p : Port) : State.reset.pe[p] = PE.init p := by
    revert p
    decide
  have stream (i : StreamId) : State.reset.sd.streams[i] = absentDescriptor := entry _ _
  have work (i : StreamId) : State.reset.sd.works[i] = noWork := entry _ _
  have cursor (c : CursorId) : State.reset.de.cursors[c] = freeCursor := entry _ _
  have buffer (b : BufId) : State.reset.de.buffer b = idleBuffer := by
    show (Vector.replicate 4 (Vector.replicate 2 idleBuffer))[b.port][b.idx] = idleBuffer
    rw [entry, entry]
  have release (i : StreamId) : State.reset.ru.recs[i] = noRelease := entry _ _
  have notices (p : Port) : State.reset.nu.ports[p] = noSession := entry _ _
  refine ⟨fun i => ?_, ⟨rfl, rfl, rfl, rfl, rfl, fun i => entry _ _⟩, ⟨rfl, rfl, fun k => entry _ _⟩,
    ⟨rfl, fun i => entry _ _⟩, fun c => ?_, fun b => ?_, ⟨fun i => ?_, rfl⟩, fun p => ?_, fun p => ?_,
    ⟨rfl, rfl, rfl, rfl, rfl, rfl, rfl⟩, rfl, rfl, rfl, rfl, rfl, rfl, rfl, rfl⟩
  · rw [stream, work]
    exact ⟨rfl, rfl, rfl, rfl, rfl, rfl, rfl⟩
  · rw [cursor]
    exact ⟨rfl, rfl, rfl, rfl⟩
  · rw [buffer]
    rfl
  · rw [release]
    rfl
  · rw [notices]
    exact ⟨rfl, rfl⟩
  · rw [port]
    exact ⟨rfl, rfl, rfl, rfl, rfl, rfl, rfl, rfl, rfl, rfl, fun k => congrArg Slot.state (entry freeSlot k)⟩

/-- Settles O50: the status stands behind the kind in every body, and an answer's arrival counts a refusal alone. -/
theorem statusCodesOfReplies : Obligations.StatusCodesOfReplies := by
  refine ⟨fun kind a => ⟨rfl, rfl, rfl⟩, rfl, fun p k a s t h => ⟨_, arrive_takes h _, State.onPe_only _ _ _, ?_⟩⟩
  have counted (e : PE) (stray : Bool) : (PE.takeAnswer p k a stray (Work.start e)).st.counters =
      (answeredFrom e k a).counters := by
    cases stray with
    | true =>
      show (e.countRefused a).counters = _
      rw [PE.countRefused_eq k a e]
    | false =>
      show (e.answered p k a).counters = _
      rw [PE.answered_eq]
      unfold afterAnswer
      split
      · rfl
      · split <;> rfl
  obtain ⟨tx, replies, prefer, last, e, -⟩ := State.onPe_frame t p (PE.takeAnswer p k a (s.strayAnswer p k a))
  rw [e]
  exact counted _ _

end

/-! SUPPORT. Reset, start-up and restart: the device state machine's changes where they apply, and the end of the teardown (R200 to
R208). -/

namespace Sys2Proof.Machine

/-- Each Port Engine of the reset values. -/
theorem State.powerUp_pe (memsize : Bool) (p : Port) : (State.powerUp memsize).pe[p] = PE.init p := by
  revert p memsize
  decide

/-! ### Start-up (R201 to R203) -/

theorem State.calibrated_eq {t : State} (ok : Bool) (h : t.dev.state = .calibrating) :
    t.calibrated ok = State.enter { t with mp := { t.mp with calibrated := ok, dram := t.mp.dram.spoil 0 areaBytes } }
      (if ok then .checking else .failed) := by
  rw [State.calibrated, if_pos h]
  cases ok <;> rfl

/-- A state that is reported as another one than before is told to the four ports (R199). -/
theorem State.enter_sends {t u : State} {d : DevState} (h : reportOf d ≠ reportOf u.dev.state) (hw : u.wires = t.wires) :
    Sends .dev t (u.enter d) ((List.finRange 4).map fun p => .stateReport p (reportOf d)) := by
  rw [Sends, State.enter_wires, if_neg h, hw]
  rfl

/-- A state that is reported like the one before is told to nobody (R199). -/
theorem State.enter_silent {u : State} {d : DevState} (h : reportOf d = reportOf u.dev.state) :
    (u.enter d).wires = u.wires := by
  rw [State.enter_wires, if_pos h, List.map_nil, List.append_nil]

/-- A check whose every comparison comes out equal goes on to the build (R202). -/
theorem State.memoryChecked_equal {t : State} (h : t.dev.state = .checking) : t.memoryChecked true =
    State.beginBuild { t with mp := { t.mp with dram := (t.mp.dram.filled t.dev.memsize passOne).filled t.dev.memsize passTwo } } := by
  unfold State.memoryChecked
  rw [if_pos h]
  simp only [if_true, Dram.check_equal]

/-- A check that fails leaves the pattern of one of the passes in both areas, and leads to FAILED (R202). -/
theorem State.memoryChecked_unequal {t : State} (h : t.dev.state = .checking) : t.memoryChecked false =
    State.enter { t with mp := { t.mp with dram := if (Config.unequalAt t.free).val < 2 then t.mp.dram.filled t.dev.memsize passOne
      else (t.mp.dram.filled t.dev.memsize passOne).filled t.dev.memsize passTwo }, free := t.free + 1 } .failed := by
  unfold State.memoryChecked
  rw [if_pos h]
  simp only [Bool.false_eq_true, if_false, Dram.check_unequal]

/-- A byte of a pass's pattern. -/
theorem passOne_byte {k : Nat} (h : k < passOne.length) : passOne[k] = BitVec.ofNat 8 (k % 256) := by
  simp [passOne]

theorem passTwo_byte {k : Nat} (h : k < passTwo.length) : passTwo[k] = BitVec.ofNat 8 (255 - k % 256) := by
  simp [passTwo]

/-- The second area begins at the last page. -/
theorem lastArea_eq (memsize : Bool) : lastArea memsize = (Config.pages memsize - 1) * 2048 := rfl

/-- Both areas hold pass 1's pattern after pass 1. -/
theorem Dram.filled_passOne (d : Dram) (memsize : Bool) (k : Nat) (h : k < 512) :
    (d.filled memsize passOne).byte k = BitVec.ofNat 8 (k % 256) ∧
      (d.filled memsize passOne).byte ((Config.pages memsize - 1) * 2048 + k) = BitVec.ofNat 8 (k % 256) := by
  rw [← lastArea_eq, Dram.filled_first d memsize _ passOne_length k h, Dram.filled_last d memsize _ passOne_length k h,
    passOne_byte]
  exact ⟨rfl, rfl⟩

/-- Both areas hold pass 2's pattern after pass 2. -/
theorem Dram.filled_passTwo (d : Dram) (memsize : Bool) (k : Nat) (h : k < 512) :
    (d.filled memsize passTwo).byte k = BitVec.ofNat 8 (255 - k % 256) ∧
      (d.filled memsize passTwo).byte ((Config.pages memsize - 1) * 2048 + k) = BitVec.ofNat 8 (255 - k % 256) := by
  rw [← lastArea_eq, Dram.filled_first d memsize _ passTwo_length k h, Dram.filled_last d memsize _ passTwo_length k h,
    passTwo_byte]
  exact ⟨rfl, rfl⟩

/-- A byte outside both areas, by the addresses of the second. -/
theorem Dram.filled_elsewhere (d : Dram) (memsize : Bool) {p : List Byte} (hp : p.length = 512) {a : Nat} (h0 : 512 ≤ a)
    (h1 : ∀ k < 512, a ≠ (Config.pages memsize - 1) * 2048 + k) : (d.filled memsize p).byte a = d.byte a := by
  refine Dram.filled_outside d memsize p hp a h0 ?_
  rw [lastArea_eq]
  refine Classical.byContradiction fun inside => ?_
  exact h1 (a - (Config.pages memsize - 1) * 2048) (by omega) (by omega)

/-! ### Pressure at the report of READY (R38, R203) -/

/-- The evaluation of pressure by a pool that is ready (R38). -/
theorem PP.evaluate_ready {p : PP} {out : List Instr} (h : p.ready = true) : PP.evaluate ⟨p, out⟩ =
    if p.pressure = false ∧ p.sharedFree < p.lowMark then
      ⟨{ p with pressure := true }, out ++ [poolEvent .pressureOn p.sharedFree]⟩
    else if p.pressure = true ∧ (p.clearMark ≤ p.sharedFree ∨ p.lowMark = 0) then
      ⟨{ p with pressure := false }, out ++ [poolEvent .pressureOff p.sharedFree]⟩
    else ⟨p, out⟩ := by
  unfold PP.evaluate
  cases hp : p.pressure with
  | false =>
    by_cases hl : p.sharedFree < p.lowMark <;> simp [h, hl, Work.mod, Work.send]
  | true =>
    by_cases hc : p.clearMark ≤ p.sharedFree ∨ p.lowMark = 0
    · have : (decide (p.clearMark ≤ p.sharedFree) || decide (p.lowMark = 0)) = true := by simpa using hc
      simp [h, hc, this, Work.mod, Work.send]
    · have : (decide (p.clearMark ≤ p.sharedFree) || decide (p.lowMark = 0)) = false := by simpa using hc
      simp [h, hc, this]

/-! ### The restart (R205 to R208) -/

/-- A body without bytes is the one that the layout of DEVICE_RESTART takes. -/
theorem emptyBody_nil : emptyBody [] = .ok () := rfl

theorem emptyBody_ne {body : List Byte} (h : body ≠ []) : emptyBody body = .error 0 :=
  if_neg fun e => h (List.length_eq_zero_iff.1 e)

theorem State.restart_eq {t : State} (r : Req) (h : t.dev.state ≠ .restarting) : t.restart r =
    if t.body r ≠ [] then t.post .dev [reply r (refusal .malformed 0)]
    else if t.dev.state = .ready then
      (t.onDev fun v => { v with state := .restarting }).post .dev
        (reply r okAnswer :: ((List.finRange 4).map Instr.teardownOrder ++ allCore.map Instr.abandonOrder))
    else t := by
  rw [State.restart, if_neg h]
  by_cases hb : t.body r = []
  · rw [hb, emptyBody_nil, if_neg (Classical.not_not.2 rfl)]
  · rw [emptyBody_ne hb, if_pos hb]

theorem State.abandon_eq {t : State} (b : CoreBlock) (h : t.dev.state = .restarting) : t.abandon b =
    ({ t.clearBlock b with abandoned := b :: t.abandoned } : State).post (.core b) [.abandonDoneReport b] := by
  rw [State.abandon, if_pos h]

/-- What MP's abandon order leaves (R206). -/
theorem MP.abandon_values (memsize : Bool) (n : Nat) (m : MP) : (m.abandon memsize n).appendWrites = [] ∧
    (m.abandon memsize n).deliveryReads = [] ∧ (m.abandon memsize n).maps = [] ∧ (m.abandon memsize n).busy = none ∧
    (m.abandon memsize n).last = .map ∧ (m.abandon memsize n).calibrated = m.calibrated :=
  ⟨rfl, rfl, rfl, MP.cut_busy memsize n m, rfl, MP.cut_calibrated memsize n m⟩

/-- Every core block is one of the eight. -/
theorem mem_allCore (b : CoreBlock) : b ∈ allCore := by
  cases b <;> decide

/-- The end of the teardown holds where its four parts do (R208). -/
theorem State.teardownDone_iff (t : State) : t.teardownDone = true ↔
    t.dev.state = .restarting ∧ (∀ p : Port, t.dev.settled[p] = true) ∧ (∀ b : CoreBlock, b ∈ t.dev.abandonDone) ∧
      (∀ p : Port, t.nu.ports[p].isOpen = false) ∧
      (∀ w ∈ t.wires, ∀ sess mask, w.msg ≠ .sessionOpenReport sess mask) ∧
      (t.dev.nuReset = true ∨ ∀ w ∈ t.wires, w.msg ≠ .nuResetReport) := by
  have settled : t.dev.settled.toList.all id = true ↔ ∀ p : Port, t.dev.settled[p] = true := by
    rw [List.all_eq_true]
    constructor
    · exact fun h p => h _ (by simp)
    · intro h x hx
      obtain ⟨i, hi, rfl⟩ := List.mem_iff_getElem.1 hx
      exact h ⟨i, by simpa using hi⟩
  have done : allCore.all (t.dev.abandonDone.contains ·) = true ↔ ∀ b : CoreBlock, b ∈ t.dev.abandonDone := by
    rw [List.all_eq_true]
    exact ⟨fun h b => by simpa using h b (mem_allCore b), fun h b _ => by simpa using h b⟩
  have closed : t.nu.allClosed = true ↔ ∀ p : Port, t.nu.ports[p].isOpen = false := by
    rw [NU.allClosed, List.all_eq_true]
    constructor
    · exact fun h p => by simpa using h t.nu.ports[p] (by simp)
    · intro h x hx
      obtain ⟨i, hi, rfl⟩ := List.mem_iff_getElem.1 hx
      simpa using h ⟨i, by simpa using hi⟩
  have unreported : (!t.wires.any fun w => decide (w.msg = .nuResetReport)) = true ↔ ∀ w ∈ t.wires, w.msg ≠ .nuResetReport := by
    rw [Bool.not_eq_true', List.any_eq_false]
    exact forall₂_congr fun w _ => by simp
  have nu : t.nuAtReset = true ↔ (∀ p : Port, t.nu.ports[p].isOpen = false) ∧
      ∀ w ∈ t.wires, ∀ sess mask, w.msg ≠ .sessionOpenReport sess mask := by
    rw [State.nuAtReset, Bool.and_eq_true, closed, Bool.not_eq_true', List.any_eq_false]
    refine and_congr_right fun _ => forall₂_congr fun w _ => ⟨fun h sess mask e => h (by rw [e]), fun h => ?_⟩
    split
    · exact absurd ‹_› (h _ _)
    · exact Bool.false_ne_true
  simp only [State.teardownDone, State.nuBack, Bool.and_eq_true, Bool.or_eq_true, decide_eq_true_eq, settled, done, nu,
    unreported, and_assoc]

/-- A report of the teardown is noted, and ends the teardown where it is the last (R207, R208). -/
theorem exec_teardownReport {c : Instr} {d : Device} {s t : State} (h : Takes c s t) (ht : t.dev.state = .restarting)
    (hc : (∃ b, c = .abandonDoneReport b ∧ d = { t.dev with abandonDone := b :: t.dev.abandonDone.erase b }) ∨
      (∃ p : Port, c = .portSettledReport p ∧ d = { t.dev with settled := t.dev.settled.set p true }) ∨
      (c = .nuResetReport ∧ d = { t.dev with nuReset := true })) :
    exec c s = .next (State.tryEnd { t with dev := d }) := by
  rcases hc with ⟨b, rfl, rfl⟩ | ⟨p, rfl, rfl⟩ | ⟨rfl, rfl⟩
  · exact (arrive_takes h _).trans (congrArg _ (if_pos ht))
  · exact (arrive_takes h _).trans (congrArg _ (if_pos ht))
  · exact (arrive_takes h _).trans (congrArg _ (if_pos ht))

/-- Each Port Engine at the end of the teardown (R208). -/
theorem State.endTeardown_pe (t : State) (p : Port) : t.endTeardown.pe[p] = PE.renew p t.pe[p] := by
  show (t.pe.mapFinIdx fun i e h => PE.renew ⟨i, h⟩ e)[p.val] = _
  rw [Vector.getElem_mapFinIdx]
  rfl

end Sys2Proof.Machine

/-! The statements about reset, start-up and the restart. -/

section
open Sys2Proof Sys2Proof.Machine

/-- Settles O6: both edges give the reset values, with the DRAM cut off or lost. -/
theorem resetPinResults : Obligations.ResetPinResults := by
  refine ⟨fun s => ⟨_, rfl, rfl, rfl, rfl, rfl, rfl, rfl, rfl, rfl, rfl, rfl, rfl, rfl,
    State.powerUp_pe s.dev.memsize, rfl, rfl, rfl, fun a ha => MP.cut_outside _ _ _ a ha⟩, fun memsize s low => ?_⟩
  have rises : exec (.resetNRelease memsize) s = .next (s.release memsize) := congrArg _ (if_pos low)
  exact ⟨_, rises, rfl, rfl, rfl, rfl, rfl, rfl, rfl, rfl, rfl, rfl, rfl, State.powerUp_pe memsize, rfl, rfl, rfl, rfl, rfl⟩

/-- Settles O7: calibration and the check by their outcomes, then the build, its completion and the two reports. -/
theorem startUpResults : Obligations.StartUpResults := by
  refine ⟨⟨fun s t h ht => ?_, fun s t h ht => ?_, fun s t h ht => ?_, fun s t h ht => ?_⟩,
    ⟨fun s t h => ?_, fun s t h ht => ?_, fun s t h => ?_, fun s t h => ?_⟩⟩
  · refine ⟨_, (arrive_takes h _).trans (congrArg _ (State.calibrated_eq true ht)), rfl, rfl, ?_, fun a ha => ?_⟩
    · exact State.enter_silent (by rw [if_pos rfl, ht]; rfl)
    · exact Dram.byte_spoil_outside _ _ _ _ (.inr ha)
  · refine ⟨_, (arrive_takes h _).trans (congrArg _ (State.calibrated_eq false ht)), rfl, rfl, ?_⟩
    exact State.enter_sends (by rw [ht]; decide) rfl
  · refine ⟨_, (arrive_takes h _).trans (congrArg _ (State.memoryChecked_equal ht)), rfl, ?_, fun k hk => ?_, fun a ha hb => ?_⟩
    · rw [Sends, State.beginBuild_wires, State.enter_silent (by rw [ht]; rfl)]
      rfl
    · exact Dram.filled_passTwo _ _ k hk
    · exact (Dram.filled_elsewhere _ _ passTwo_length ha hb).trans (Dram.filled_elsewhere _ _ passOne_length ha hb)
  · refine ⟨_, (arrive_takes h _).trans (congrArg _ (State.memoryChecked_unequal ht)), rfl, ?_, ?_, fun a ha hb => ?_⟩
    · exact State.enter_sends (by rw [ht]; decide) rfl
    · rw [State.enter_mp]
      dsimp only
      split
      · exact .inl fun k hk => Dram.filled_passOne _ _ k hk
      · exact .inr fun k hk => Dram.filled_passTwo _ _ k hk
    · rw [State.enter_mp]
      dsimp only
      split
      · exact Dram.filled_elsewhere _ _ passOne_length ha hb
      · exact (Dram.filled_elsewhere _ _ passTwo_length ha hb).trans (Dram.filled_elsewhere _ _ passOne_length ha hb)
  · refine ⟨_, arrive_takes h _, State.onPp_only _ _, rfl, ?_, rfl, rfl, rfl, rfl, fun i => ?_, rfl⟩
    · exact List.append_nil _
    · exact Vector.getElem_replicate _
  · refine (arrive_takes h _).trans (congrArg _ ?_)
    rw [State.built, if_pos ht]
    have told : reportOf .ready ≠ reportOf t.dev.state := by rw [ht]; decide
    simp only [State.enter, State.post, State.onDev, if_neg told, List.map_append, List.append_assoc]
    rfl
  · refine (arrive_takes h _).trans (congrArg _ ?_)
    exact State.post_nil _ _
  · refine (arrive_takes h _).trans (congrArg _ ?_)
    have work : PP.readyReport (Work.start t.pp) = _ := PP.evaluate_ready (p := { t.pp with ready := true }) (out := []) rfl
    have free : ({ t.pp with ready := true } : PP).sharedFree = t.pp.sharedFree := rfl
    simp only [free, List.nil_append] at work
    simp only [State.onPp, work]
    split
    · rfl
    · split
      · rfl
      · exact State.post_nil _ _

/-- Settles O8: the request by the device state and its body, the abandon order block by block. -/
theorem restartOrderResults : Obligations.RestartOrderResults := by
  refine ⟨fun r s t h => ⟨fun empty ready => ?_, fun restarting => ?_, fun empty notReady => ?_, fun body others => ?_⟩,
    fun b s t h ht => ?_⟩
  · refine (arrive_takes h _).trans (congrArg _ ?_)
    rw [State.restart_eq r (by rw [ready]; decide), if_neg (Classical.not_not.2 empty), if_pos ready]
    rfl
  · exact (arrive_takes h _).trans (congrArg _ (if_pos restarting))
  · refine (arrive_takes h _).trans (congrArg _ ?_)
    by_cases restarting : t.dev.state = .restarting
    · exact if_pos restarting
    · rw [State.restart_eq r restarting, if_neg (Classical.not_not.2 empty), if_neg notReady]
  · refine (arrive_takes h _).trans (congrArg _ ?_)
    rw [State.restart_eq r others, if_pos body]
    rfl
  · refine ⟨_, (arrive_takes h _).trans (congrArg _ (State.abandon_eq b ht)), ?_⟩
    cases b with
    | mp =>
      obtain ⟨writes, reads, maps, busy, last, calibrated⟩ := MP.abandon_values t.dev.memsize (Config.bytesDone t.free) t.mp
      refine ⟨rfl, rfl, rfl, rfl, rfl, rfl, rfl, rfl, rfl, rfl, rfl, rfl, rfl, rfl, fun e => absurd rfl e, fun _ => ?_⟩
      exact ⟨writes, reads, maps, busy, last, calibrated, fun a ha => MP.cut_outside _ _ _ a ha⟩
    | sd | pp | mu | ae | de | ru | tb =>
      exact ⟨rfl, rfl, rfl, rfl, rfl, rfl, rfl, rfl, rfl, rfl, rfl, rfl, rfl, rfl, fun _ => rfl, fun e => nomatch e⟩

/-- Settles O9: a report is noted, and the last one ends the teardown. -/
theorem teardownReportResults : Obligations.TeardownReportResults := by
  refine ⟨fun c d s t h ht hc => ⟨fun notYet => ?_, fun done => ?_⟩, State.teardownDone_iff⟩
  · rw [exec_teardownReport h ht hc, State.tryEnd, notYet]
    rfl
  · have restarting := ((State.teardownDone_iff _).1 done).1
    have memsize : d.memsize = t.dev.memsize := by
      rcases hc with ⟨b, -, rfl⟩ | ⟨p, -, rfl⟩ | ⟨-, rfl⟩ <;> rfl
    refine ⟨State.endTeardown { t with dev := d }, ?_, rfl, memsize, rfl, rfl, rfl, rfl, rfl, ⟨t.wires.filter outlives, List.filter_sublist, ?_⟩,
      State.endTeardown_pe _⟩
    · rw [exec_teardownReport h ht hc, State.tryEnd, done]
      rfl
    · have told : reportOf .building ≠ reportOf d.state := by
        have : d.state = .restarting := restarting
        rw [this]
        decide
      rw [State.endTeardown, State.beginBuild_wires, State.enter_wires, if_neg told, List.map_append, List.append_assoc]
      rfl

end

/-! SUPPORT. The Stream Directory: requests, the claims that PP has answered, and the end of a teardown (R11 to R20). -/

namespace Sys2Proof.Machine

/-! ### Events whose work is known -/

/-- A command at SD whose work is known. -/
theorem arrive_sd {c : Instr} {s t : State} {f : State → Work SD → Work SD} {sd : SD} {ms : List Instr} (h : Takes c s t)
    (hf : f t (Work.start t.sd) = ⟨sd, ms⟩) :
    arrive c s (fun t => t.onSd (f t)) = .next (({ t with sd := sd } : State).post (.core .sd) ms) :=
  (arrive_takes h _).trans (congrArg _ (State.onSd_eq hf))

/-- A command at SD that sends nothing. -/
theorem arrive_sd_silent {c : Instr} {s t : State} {f : State → Work SD → Work SD} {sd : SD} (h : Takes c s t)
    (hf : f t (Work.start t.sd) = ⟨sd, []⟩) : arrive c s (fun t => t.onSd (f t)) = .next { t with sd := sd } :=
  (arrive_sd h hf).trans (congrArg Host.Outcome.next (State.post_nil _ _))

theorem State.onSd_sends {t : State} {f : Work SD → Work SD} {ms : List Instr} (h : (f (Work.start t.sd)).out = ms) :
    Sends (.core .sd) t (t.onSd f) ms := by
  rw [Sends, State.onSd_wires, h]

theorem State.onSd_sendsFirst {t : State} {f : Work SD → Work SD} {ms more : List Instr}
    (h : (f (Work.start t.sd)).out = ms ++ more) : SendsFirst (.core .sd) t (t.onSd f) ms := ⟨more, State.onSd_sends h⟩

/-! ### STREAM_CREATE and STREAM_TUNE (R11, R13) -/

theorem policyOf_none {n : Nat} (h : 2 ≤ n) : policyOf n = none := by
  obtain ⟨k, rfl⟩ := Nat.exists_eq_add_of_le h
  rw [Nat.add_comm]
  rfl

theorem policyOf_some {n : Nat} (h : n < 2) : policyOf n = some (if n = 0 then .hold else .dropOldest) := by
  match n, h with
  | 0, _ => rfl
  | 1, _ => rfl

/-- The value checks in their order, the policy's code being one of the two (R11). -/
theorem checkQuota_eq {n : Nat} {cur : QuotaValues} {f : QuotaFields} (hp : f.policy.getD (policyCode cur.policy) < 2) :
    checkQuota n cur f =
      if f.ceiling.getD cur.ceiling < 1 ∨ 1024 < f.ceiling.getD cur.ceiling then .error (n + 2)
      else if f.ceiling.getD cur.ceiling < f.reservation.getD cur.reservation then .error (n + 1)
      else if f.ceiling.getD cur.ceiling < f.keep.getD cur.keep then .error (n + 3)
      else if 86400 < f.ageLimit.getD cur.ageLimit then .error (n + 4)
      else .ok ⟨if f.policy.getD (policyCode cur.policy) = 0 then .hold else .dropOldest, f.reservation.getD cur.reservation,
        f.ceiling.getD cur.ceiling, f.keep.getD cur.keep, f.ageLimit.getD cur.ageLimit⟩ := by
  unfold checkQuota
  rw [policyOf_some hp]

theorem checkQuota_policy {n : Nat} {cur : QuotaValues} {f : QuotaFields} (hp : 2 ≤ f.policy.getD (policyCode cur.policy)) :
    checkQuota n cur f = .error n := by
  unfold checkQuota
  rw [policyOf_none hp]

/-- A name that a stream may have (R1). -/
theorem nameValid_iff (n : List Byte) : nameValid n = true ↔ n ≠ [] ∧ n.length ≤ 24 ∧ 0 ∉ n := by
  simp only [nameValid, Bool.and_eq_true, decide_eq_true_eq, List.all_eq_true, bne_iff_ne, List.length_pos_iff, and_assoc]
  exact and_congr_right fun _ => and_congr_right fun _ => ⟨fun h m => h 0 m rfl, fun h x hx e => h (e ▸ hx)⟩

/-- A name is in use where a present stream has it (R1). -/
theorem SD.byName_isSome (sd : SD) (n : List Byte) : (sd.byName n).isSome = true ↔
    ∃ i : StreamId, sd.streams[i].state ≠ .absent ∧ sd.streams[i].name = n := by
  simp [-Fin.getElem_fin, SD.byName, List.find?_isSome]

/-- A name is set aside where a create in progress has it (R2, R11). -/
theorem SD.setAside_iff (sd : SD) (n : List Byte) : sd.setAside n = true ↔
    ∃ (i : StreamId) (c : Create), sd.works[i].create = some c ∧ c.name = n := by
  simp only [SD.setAside, Vector.any_eq_true, Option.any_eq_true, beq_iff_eq]
  constructor
  · rintro ⟨i, hi, c, h⟩
    exact ⟨⟨i, hi⟩, c, h⟩
  · rintro ⟨i, c, h⟩
    exact ⟨i.val, i.isLt, c, h⟩

/-- No descriptor is left where each is present or set aside (R11). -/
theorem SD.lowestFree_none {sd : SD} (h : ∀ i : StreamId, sd.streams[i].state ≠ .absent ∨ sd.works[i].create ≠ none) :
    sd.lowestFree = none := by
  rw [SD.lowestFree, List.find?_eq_none]
  intro i _ hi
  simp only [Bool.and_eq_true, decide_eq_true_eq, Option.isNone_iff_eq_none] at hi
  exact (h i).elim (· hi.1) (· hi.2)

/-- The lowest id whose descriptor is ABSENT and not set aside (R11). -/
theorem SD.lowestFree_some {sd : SD} {i : StreamId} (hs : sd.streams[i].state = .absent) (hc : sd.works[i].create = none)
    (low : ∀ j < i, sd.streams[j].state ≠ .absent ∨ sd.works[j].create ≠ none) : sd.lowestFree = some i := by
  refine find_finRange.2 ⟨by simp only [hs, hc]; rfl, fun j hj => ?_⟩
  rw [Bool.and_eq_false_iff, decide_eq_false_iff_not, Option.isNone_eq_false_iff, Option.isSome_iff_ne_none]
  exact low j hj

section Create

variable {r : Req} {body : List Byte} {b : CreateBody} {w : Work SD}

theorem SD.streamCreate_badName (hb : createBody body = .ok b) (hn : nameValid b.name = false) :
    SD.streamCreate r body w = w.refuse r .outOfRange 8 := by
  rw [SD.streamCreate, hb, Work.layout_ok, hn]
  rfl

theorem SD.streamCreate_badField {n : Nat} (hb : createBody body = .ok b) (hn : nameValid b.name = true)
    (hq : checkQuota 2 defaultValues b.fields = .error n) : SD.streamCreate r body w = w.refuse r .outOfRange n := by
  rw [SD.streamCreate, hb, Work.layout_ok, hn, hq]
  rfl

/-- A create whose name and values pass, by what SD finds of the name (R11). -/
theorem SD.streamCreate_checked {v : QuotaValues} (hb : createBody body = .ok b) (hn : nameValid b.name = true)
    (hq : checkQuota 2 defaultValues b.fields = .ok v) : SD.streamCreate r body w =
      if (w.st.byName b.name).isSome = true ∨ w.st.setAside b.name = true then w.refuse r .streamExists
      else match w.st.lowestFree with
        | none => w.refuse r .noRoom
        | some s => (w.mod fun sd => sd.onWork s fun k => { k with create := some ⟨r, b.name, v⟩ }).send
            (.createClaim s v.reservation v.ceiling) := by
  rw [SD.streamCreate, hb, Work.layout_ok, hn, hq]
  simp only [Bool.or_eq_true] <;> rfl

end Create

/-- A tune of a stream that is named by an id (R13). -/
theorem SD.streamTune_eq {r : Req} {body : List Byte} {i : StreamId} {f : QuotaFields} {w : Work SD}
    (hb : tuneBody body = .ok (i.val, f)) : SD.streamTune r body w =
      if w.st.works[i].outstanding = [] then SD.tuneNow i r f w
      else w.mod fun sd => sd.onWork i fun k => { k with waiting := k.waiting ++ [⟨r, f, k.outstanding⟩] } := by
  rw [SD.streamTune, hb, Work.layout_ok]
  simp only [index_val]

theorem index_none {n v : Nat} (h : n ≤ v) : index n v = none := dif_neg (Nat.not_lt.2 h)

theorem SD.streamTune_badId {r : Req} {body : List Byte} {v : Nat} {f : QuotaFields} {w : Work SD}
    (hb : tuneBody body = .ok (v, f)) (hv : 32 ≤ v) : SD.streamTune r body w = w.refuse r .outOfRange 1 := by
  rw [SD.streamTune, hb, Work.layout_ok]
  simp only [index_none hv]

theorem SD.tuneNow_absent {i : StreamId} {r : Req} {f : QuotaFields} {w : Work SD} (h : w.st.streams[i].state = .absent) :
    SD.tuneNow i r f w = w.refuse r .noStream := by
  rw [SD.tuneNow, h]

theorem SD.tuneNow_deleting {i : StreamId} {r : Req} {f : QuotaFields} {w : Work SD}
    (h : w.st.streams[i].state = .deleting) : SD.tuneNow i r f w = w.refuse r .wrongState := by
  rw [SD.tuneNow, h]

theorem Descriptor.live_iff (d : Descriptor) : d.live = true ↔ d.state = .opened ∨ d.state = .sealed := by
  simp [Descriptor.live]

theorem SD.tuneNow_badField {i : StreamId} {r : Req} {f : QuotaFields} {n : Nat} {w : Work SD}
    (hl : w.st.streams[i].live = true) (hv : checkQuota 3 w.st.streams[i].values f = .error n) :
    SD.tuneNow i r f w = w.refuse r .outOfRange n := by
  unfold SD.tuneNow
  rcases (Descriptor.live_iff _).1 hl with e | e <;> rw [e] <;> simp only [hv]

/-! ### PP's answers to the claims (R12 to R14) -/

/-- What the tunes that wait do after a claim's answer: they leave every descriptor, and of what is under way the create and the
delete. -/
theorem SD.resumeTunes_frame (i : StreamId) (w : Work SD) : ∃ x ws more, SD.resumeTunes i w =
    ⟨w.st.onWork i fun k => { k with tune := x, waiting := ws }, w.out ++ more⟩ := by
  obtain ⟨⟨x, ws, h⟩, more, hm⟩ := SD.takeTunes_frame i w.st.works[i].waiting
    (w.mod fun sd => sd.onWork i fun k => { k with waiting := [] })
  refine ⟨x, ws, more, ?_⟩
  rw [Work.mod_st, SD.onWork_onWork] at h
  exact Work.mk.injEq .. ▸ ⟨h, hm⟩

/-- Without a tune that waits nothing follows a claim's answer. -/
theorem SD.resumeTunes_nil {i : StreamId} {w : Work SD} (h : w.st.works[i].waiting = []) : SD.resumeTunes i w = w := by
  have same : w.st.onWork i (fun k => { k with waiting := [] }) = w.st :=
    (SD.onWork_congr (by rw [← h])).trans (SD.onWork_id _ i)
  rw [SD.resumeTunes, h, SD.takeTunes.eq_1, Work.mod, same]

/-- What an answered claim leaves of the tunes that wait: those that waited for it alone wait for none. -/
theorem answered_freed (c : ClaimKind) (k : StreamWork) :
    ((k.answered c).waiting.filter fun x => x.awaits = []).map WaitingTune.req =
      (freedTunes c k.waiting).map WaitingTune.req := by
  simp only [StreamWork.answered, freedTunes, List.filter_map, List.map_map]
  refine congrArg (List.map WaitingTune.req) (List.filter_congr fun x _ => ?_)
  rw [Bool.eq_iff_iff]
  simp [List.filter_eq_nil_iff]

/-- What an answered claim leaves of the tunes that wait for another claim too. -/
theorem answered_held (c : ClaimKind) (k : StreamWork) :
    ((k.answered c).waiting.filter fun x => x.awaits ≠ []) = heldTunes c k.waiting := by
  simp only [StreamWork.answered, heldTunes, List.filter_map]
  refine congrArg (List.map _) (List.filter_congr fun x _ => ?_)
  rw [Bool.eq_iff_iff]
  simp [List.filter_eq_nil_iff]

/-- SD once PP has answered a claim, before its request is answered (R13). -/
def SD.claimDone (c : ClaimKind) (i : StreamId) (sd : SD) : SD := sd.onWork i (StreamWork.answered c)

@[simp] theorem SD.claimDone_streams (c : ClaimKind) (i : StreamId) (sd : SD) : (sd.claimDone c i).streams = sd.streams := rfl

theorem SD.claimDone_work (c : ClaimKind) (i : StreamId) (sd : SD) : (sd.claimDone c i).works[i] = sd.works[i].answered c :=
  SD.onWork_work _ _ _

/-- A granted create is OPEN and answered, and the tunes that wait follow (R12). -/
theorem SD.createClaimAnswer_granted {i : StreamId} {k : Create} {w : Work SD} (h : w.st.works[i].create = some k) :
    SD.createClaimAnswer i .granted w = SD.resumeTunes i
      ⟨(w.st.claimDone .create i).onStream i fun _ => freshDescriptor .opened k.name k.values,
        w.out ++ [reply k.req (okWith (.streamId i))]⟩ := by
  simp only [SD.createClaimAnswer, h]
  rfl

/-- A refused create is answered NO_ROOM, and the tunes that wait follow (R12). -/
theorem SD.createClaimAnswer_refused {i : StreamId} {k : Create} {w : Work SD} (c : Cause)
    (h : w.st.works[i].create = some k) : SD.createClaimAnswer i (.refused c) w = SD.resumeTunes i
      ⟨w.st.claimDone .create i, w.out ++ [reply k.req (refusal .noRoom 3)]⟩ := by
  simp only [SD.createClaimAnswer, h]
  rfl

/-- A granted tune of a live stream writes its values, and the tunes that wait follow (R14). -/
theorem SD.tuneClaimAnswer_granted {i : StreamId} {k : Tune} {w : Work SD} (h : w.st.works[i].tune = some k)
    (hl : w.st.streams[i].live = true) : SD.tuneClaimAnswer i .granted w = SD.resumeTunes i
      ⟨(w.st.claimDone .tune i).onStream i fun d => d.withValues k.values,
        w.out ++ [reply k.req okAnswer, .evaluationTrigger i]⟩ := by
  have live : (w.mod fun sd => sd.onWork i (StreamWork.answered .tune)).st.streams[i].live = true := hl
  simp only [SD.tuneClaimAnswer, h, live]
  simp only [Work.mod, Work.answer, Work.send, List.append_assoc]
  rfl

/-- The status and detail of a tune that is not carried out (R14). -/
def tuneRefusal (live : Bool) : ClaimAnswer → Status × Nat
  | .refused .ceiling => if live then (.outOfRange, 5) else (.gone, 0)
  | .refused .shared => if live then (.noRoom, 4) else (.gone, 0)
  | .granted => (.gone, 0)

/-- A tune that PP refuses, or whose stream is no longer live, is answered, and the tunes that wait follow (R14). -/
theorem SD.tuneClaimAnswer_refused {i : StreamId} {k : Tune} {a : ClaimAnswer} {w : Work SD}
    (h : w.st.works[i].tune = some k) (ha : w.st.streams[i].live = false ∨ a ≠ .granted) :
    SD.tuneClaimAnswer i a w = SD.resumeTunes i ⟨w.st.claimDone .tune i, w.out ++
      [reply k.req (refusal (tuneRefusal w.st.streams[i].live a).1 (tuneRefusal w.st.streams[i].live a).2)]⟩ := by
  have same : (w.mod fun sd => sd.onWork i (StreamWork.answered .tune)).st.streams[i].live = w.st.streams[i].live := rfl
  simp only [SD.tuneClaimAnswer, h, same]
  cases hl : w.st.streams[i].live with
  | false => rcases a with _ | _ | _ <;> rfl
  | true =>
    rcases a with _ | _ | _
    · rcases ha with e | e
      · rw [hl] at e
        cases e
      · exact absurd rfl e
    · rfl
    · rfl

/-- A delete claim's answer is followed by the tunes that wait (R13). -/
theorem SD.deleteClaimAnswer_eq (i : StreamId) (w : Work SD) :
    SD.deleteClaimAnswer i w = SD.resumeTunes i ⟨w.st.claimDone .delete i, w.out⟩ := rfl

/-- On a stream that has ended, the tunes that waited for the answered claim alone are refused behind what it sends itself, and the
others wait on (R4, R13). -/
theorem SD.resumeTunes_claimDone {i : StreamId} {c : ClaimKind} {st : Status} {w : Work SD} {first : List Instr}
    (hs : (w.st.streams[i].state = .absent ∧ st = .noStream) ∨ (w.st.streams[i].state = .deleting ∧ st = .wrongState))
    (ht : c = .tune ∨ w.st.works[i].tune = none) :
    SD.resumeTunes i ⟨w.st.claimDone c i, w.out ++ first⟩ =
      ⟨w.st.onWork i fun k =>
        { k with
          create := if c = ClaimKind.create then none else k.create
          tune := none
          deleteClaim := if c = ClaimKind.delete then false else k.deleteClaim
          waiting := heldTunes c k.waiting },
        w.out ++ (first ++ (freedTunes c w.st.works[i].waiting).map fun x => reply x.req (refusal st 0))⟩ := by
  have tune : (w.st.works[i].answered c).tune = none := by
    unfold StreamWork.answered
    rcases ht with rfl | ht
    · rfl
    · dsimp only
      rw [ht, ite_self]
  have work := SD.claimDone_work c i w.st
  rw [SD.resumeTunes_ended (w := ⟨w.st.claimDone c i, w.out ++ first⟩) hs (by rw [work]; exact tune)]
  refine Work.mk.injEq .. ▸ ⟨?_, ?_⟩
  · rw [SD.claimDone, SD.onWork_onWork]
    refine SD.onWork_congr ?_
    rw [answered_held, tune.symm]
    unfold StreamWork.answered
    cases c <;> simp
  · dsimp only
    rw [work, List.append_assoc]
    have requests := congrArg (List.map fun r => reply r (refusal st 0)) (answered_freed c w.st.works[i])
    rw [List.map_map, List.map_map] at requests
    exact congrArg (fun l => w.out ++ (first ++ l)) requests

/-- On a live stream the first tune that waited for the answered claim alone sends its claim where its values pass, and those behind
it wait on (R13, R14). -/
theorem SD.resumeTunes_next {i : StreamId} {c : ClaimKind} {w : Work SD} {x : WaitingTune} {rest : List WaitingTune}
    {v : QuotaValues} (hk : ∃ k, w.st.works[i] = StreamWork.answered c k ∧ k.waiting = x :: rest ∧
      (c = .tune ∨ k.tune = none)) (hx : ∀ a ∈ x.awaits, a = c) (hl : w.st.streams[i].live = true)
    (hv : checkQuota 3 w.st.streams[i].values x.fields = .ok v) :
    (SD.resumeTunes i w).st.works[i].tune = some ⟨x.req, v⟩ ∧
      (SD.resumeTunes i w).st.works[i].waiting = (rest.map fun y => { y with awaits := y.awaits.filter (· ≠ c) }) ∧
      (SD.resumeTunes i w).out = w.out ++ [.tuneClaim i v.reservation v.ceiling] := by
  obtain ⟨k, work, waiting, noTune⟩ := hk
  have tune : w.st.works[i].tune = none := by
    rw [work]
    unfold StreamWork.answered
    rcases noTune with rfl | e
    · rfl
    · dsimp only
      rw [e, ite_self]
  have queue : w.st.works[i].waiting = { x with awaits := x.awaits.filter (· ≠ c) } ::
      rest.map fun y => { y with awaits := y.awaits.filter (· ≠ c) } := by
    rw [work]
    unfold StreamWork.answered
    dsimp only
    rw [waiting, List.map_cons]
  have free : x.awaits.filter (· ≠ c) = [] := by
    rw [List.filter_eq_nil_iff]
    exact fun a ha => by simp [hx a ha]
  rw [SD.resumeTunes_claims queue free tune hl hv]
  simp only [SD.onWork_work, and_self]

/-! ### The end of a teardown (R20) -/

/-- Nothing of the stream is bound or pending (R20). -/
theorem Descriptor.unused_iff (d : Descriptor) : d.unused = true ↔ d.cursorCount = 0 ∧ d.pendingAppends = 0 := by
  simp [Descriptor.unused]

/-- A teardown that is not at its end waits (R20). -/
theorem SD.advance_waits {i : StreamId} {w : Work SD}
    (h : w.st.streams[i].state ≠ .deleting ∨ w.st.streams[i].unused = false) : SD.advance i w = w := by
  refine if_neg fun e => ?_
  rw [Bool.and_eq_true, decide_eq_true_eq] at e
  rcases h with h | h
  · exact h e.1
  · rw [h] at e
    exact Bool.false_ne_true e.2

/-- A stream that nothing is bound to or pending for is handed over to RU, once (R20). -/
theorem SD.advance_handsOver {i : StreamId} {w : Work SD} (hd : w.st.streams[i].state = .deleting)
    (hu : w.st.streams[i].unused = true) (hh : w.st.works[i].handedOver = false)
    (he : w.st.works[i].emptied = false ∨ w.st.works[i].clear = false) :
    SD.advance i w = ⟨w.st.onWork i fun k => { k with handedOver := true }, w.out ++ [.teardownHandover i]⟩ := by
  have unfinished (e c : Bool) (h : e = false ∨ c = false) : (e && c) = false := by
    rcases h with rfl | rfl
    · rfl
    · exact Bool.and_false e
  unfold SD.advance
  simp only [hd, hu, hh, decide_true, Bool.and_self, if_true, Bool.false_eq_true, if_false, Work.send_st, Work.mod_st,
    SD.onWork_work, unfinished _ _ he]
  rfl

/-- A stream that has been handed over and lacks a report waits for it (R20). -/
theorem SD.advance_handedOver {i : StreamId} {w : Work SD} (hh : w.st.works[i].handedOver = true)
    (he : w.st.works[i].emptied = false ∨ w.st.works[i].clear = false) : SD.advance i w = w := by
  have unfinished : (w.st.works[i].emptied && w.st.works[i].clear) = false := by
    rcases he with e | e <;> rw [e]
    · rfl
    · exact Bool.and_false _
  unfold SD.advance
  simp only [hh, if_true, unfinished, Bool.false_eq_true, if_false, ite_self]

/-- A stream that has been handed over, emptied and cleared, with nothing bound or pending, becomes ABSENT (R20). -/
theorem SD.advance_ends {i : StreamId} {w : Work SD} (hd : w.st.streams[i].state = .deleting)
    (hu : w.st.streams[i].unused = true) (hh : w.st.works[i].handedOver = true) (he : w.st.works[i].emptied = true)
    (hc : w.st.works[i].clear = true) :
    SD.advance i w = ⟨(w.st.onStream i fun _ => absentDescriptor).onWork i fun k =>
        { k with delete := none, handedOver := false, emptied := false, clear := false },
      w.out ++ ((w.st.works[i].delete.toList.map fun r => reply r okAnswer) ++
        [streamEvent .streamDeleted i none, .streamAbsentReport i])⟩ := by
  unfold SD.advance SD.becomeAbsent
  simp only [hd, hu, hh, he, hc, decide_true, Bool.and_self, if_true]
  cases w.st.works[i].delete with
  | none => rfl
  | some r => simp only [Work.sendAll, Work.answer, Work.send, Work.mod, List.append_assoc]; rfl

end Sys2Proof.Machine

/-! SUPPORT. The claims that a stream has outstanding, and what PP's answer to one of them leaves (R13). -/

namespace Sys2Proof.Machine

theorem StreamWork.create_mem_outstanding (k : StreamWork) : .create ∈ k.outstanding ↔ k.create ≠ none := by
  cases hc : k.create <;> cases ht : k.tune <;> cases hd : k.deleteClaim <;> simp [StreamWork.outstanding, hc, ht, hd]

theorem StreamWork.tune_mem_outstanding (k : StreamWork) : .tune ∈ k.outstanding ↔ k.tune ≠ none := by
  cases hc : k.create <;> cases ht : k.tune <;> cases hd : k.deleteClaim <;> simp [StreamWork.outstanding, hc, ht, hd]

theorem StreamWork.delete_mem_outstanding (k : StreamWork) : .delete ∈ k.outstanding ↔ k.deleteClaim = true := by
  cases hc : k.create <;> cases ht : k.tune <;> cases hd : k.deleteClaim <;> simp [StreamWork.outstanding, hc, ht, hd]

theorem StreamWork.outstanding_ne_nil {k : StreamWork}
    (h : k.create ≠ none ∨ k.tune ≠ none ∨ k.deleteClaim = true) : k.outstanding ≠ [] := by
  rcases h with h | h | h
  · exact List.ne_nil_of_mem (k.create_mem_outstanding.2 h)
  · exact List.ne_nil_of_mem (k.tune_mem_outstanding.2 h)
  · exact List.ne_nil_of_mem (k.delete_mem_outstanding.2 h)

theorem Descriptor.live_of_ended {d : Descriptor} {st : Status}
    (h : (d.state = .absent ∧ st = .noStream) ∨ (d.state = .deleting ∧ st = .wrongState)) : d.live = false := by
  rcases h with ⟨e, -⟩ | ⟨e, -⟩ <;> rw [Descriptor.live, e] <;> decide

/-- What an event at SD leaves that ends with the tunes that wait: its descriptors stand as before these, and its messages are the
first (R13). -/
theorem State.onSd_resumeTunes {t : State} {f : Work SD → Work SD} {i : StreamId} {sd : SD} {ms : List Instr}
    (h : f (Work.start t.sd) = SD.resumeTunes i ⟨sd, ms⟩) :
    SendsFirst (.core .sd) t (t.onSd f) ms ∧ (t.onSd f).sd.streams = sd.streams ∧
      (t.onSd f).sd.works[i].create = sd.works[i].create ∧ (t.onSd f).sd.works[i].deleteClaim = sd.works[i].deleteClaim := by
  obtain ⟨x, ws, more, e⟩ := SD.resumeTunes_frame i ⟨sd, ms⟩
  rw [e] at h
  refine ⟨State.onSd_sendsFirst (congrArg Work.out h), ?_, ?_, ?_⟩ <;> rw [State.onSd_sd, h]
  · rfl
  · exact (congrArg StreamWork.create (SD.onWork_work sd i _)).trans rfl
  · exact (congrArg StreamWork.deleteClaim (SD.onWork_work sd i _)).trans rfl

/-- Without a tune that waits, PP's answer to a claim ends with the answer to the claim's request (R13). -/
theorem State.onSd_claimDone {t : State} {f : Work SD → Work SD} {i : StreamId} {c : ClaimKind} {sd : SD} {ms : List Instr}
    (h : f (Work.start t.sd) = SD.resumeTunes i ⟨sd, ms⟩) (work : sd.works[i] = t.sd.works[i].answered c)
    (none : t.sd.works[i].waiting = []) : (t.onSd f).sd = sd ∧ Sends (.core .sd) t (t.onSd f) ms := by
  have idle : sd.works[i].waiting = [] := by
    rw [work, StreamWork.answered, none]
    rfl
  rw [SD.resumeTunes_nil idle] at h
  exact ⟨congrArg Work.st h, State.onSd_sends (congrArg Work.out h)⟩

/-- The kinds of claim whose answer a message is, at a stream that has ended, with what answers the claim's own request. -/
theorem claimAnswer_ended {m : Instr} {c : ClaimKind} {i : StreamId} {first : List Instr} {s t : State} (h : Takes m s t)
    (hm : (m = .deleteClaimAnswer i ∧ c = .delete ∧ t.sd.works[i].tune = none ∧ first = []) ∨
      (∃ (cause : Cause) (k : Create), m = .createClaimAnswer i (.refused cause) ∧ c = .create ∧
        t.sd.works[i].create = some k ∧ t.sd.works[i].tune = none ∧ first = [reply k.req (refusal .noRoom 3)]) ∨
      (∃ (a : ClaimAnswer) (k : Tune), m = .tuneClaimAnswer i a ∧ c = .tune ∧ t.sd.works[i].tune = some k ∧
        first = [reply k.req (refusal .gone 0)]))
    (ended : t.sd.streams[i].live = false) :
    (∃ f : Work SD → Work SD, exec m s = .next (t.onSd f) ∧
      f (Work.start t.sd) = SD.resumeTunes i ⟨t.sd.claimDone c i, first⟩) ∧ (c = .tune ∨ t.sd.works[i].tune = none) := by
  rcases hm with ⟨rfl, rfl, idle, rfl⟩ | ⟨cause, k, rfl, rfl, create, idle, rfl⟩ | ⟨a, k, rfl, rfl, tune, rfl⟩
  · exact ⟨⟨_, arrive_takes h _, SD.deleteClaimAnswer_eq _ _⟩, .inr idle⟩
  · exact ⟨⟨_, arrive_takes h _, SD.createClaimAnswer_refused cause create⟩, .inr idle⟩
  · refine ⟨⟨_, arrive_takes h _, (SD.tuneClaimAnswer_refused tune (.inl ended)).trans ?_⟩, .inl rfl⟩
    rw [Work.start_st, ended]
    rcases a with _ | _ | _ <;> rfl

/-- A claim's answer at a stream that is live after it: the values then in force, and what answers the claim's own request. -/
theorem claimAnswer_live {m : Instr} {c : ClaimKind} {i : StreamId} {values : QuotaValues} {first : List Instr} {s t : State}
    (h : Takes m s t)
    (hm : (∃ k : Create, m = .createClaimAnswer i .granted ∧ c = .create ∧ t.sd.works[i].create = some k ∧
        t.sd.works[i].tune = none ∧ values = k.values ∧ first = [reply k.req (okWith (.streamId i))]) ∨
      (t.sd.streams[i].live = true ∧
        ((m = .deleteClaimAnswer i ∧ c = .delete ∧ t.sd.works[i].tune = none ∧ values = t.sd.streams[i].values ∧
            first = []) ∨
          (∃ k : Tune, m = .tuneClaimAnswer i .granted ∧ c = .tune ∧ t.sd.works[i].tune = some k ∧ values = k.values ∧
            first = [reply k.req okAnswer, .evaluationTrigger i]) ∨
          (∃ (k : Tune) (cause : Cause), m = .tuneClaimAnswer i (.refused cause) ∧ c = .tune ∧
            t.sd.works[i].tune = some k ∧ values = t.sd.streams[i].values ∧ first = [reply k.req
              (if cause = .ceiling then refusal .outOfRange 5 else refusal .noRoom 4)])))) :
    ∃ (f : Work SD → Work SD) (sd : SD), exec m s = .next (t.onSd f) ∧
      f (Work.start t.sd) = SD.resumeTunes i ⟨sd, first⟩ ∧ sd.works[i] = t.sd.works[i].answered c ∧
      sd.streams[i].live = true ∧ sd.streams[i].values = values ∧ (c = .tune ∨ t.sd.works[i].tune = none) := by
  have work := SD.claimDone_work c i t.sd
  rcases hm with ⟨k, rfl, rfl, create, idle, rfl, rfl⟩ | ⟨live, ⟨rfl, rfl, idle, rfl, rfl⟩ |
    ⟨k, rfl, rfl, tune, rfl, rfl⟩ | ⟨k, cause, rfl, rfl, tune, rfl, rfl⟩⟩
  · refine ⟨_, _, arrive_takes h _, SD.createClaimAnswer_granted create, work, ?_, ?_, .inr idle⟩ <;>
      exact (congrArg _ (SD.onStream_stream _ _ _)).trans rfl
  · exact ⟨_, _, arrive_takes h _, SD.deleteClaimAnswer_eq _ _, work, live, rfl, .inr idle⟩
  · refine ⟨_, _, arrive_takes h _, SD.tuneClaimAnswer_granted tune live, work, ?_, ?_, .inl rfl⟩
    · exact (congrArg _ (SD.onStream_stream _ _ _)).trans live
    · exact (congrArg _ (SD.onStream_stream _ _ _)).trans rfl
  · refine ⟨_, _, arrive_takes h _, (SD.tuneClaimAnswer_refused (a := .refused cause) tune (.inr (by simp))).trans ?_, work,
      live, rfl, .inl rfl⟩
    rw [Work.start_st, live]
    cases cause <;> rfl

end Sys2Proof.Machine

/-! The statements about the requests and the claims of the Stream Directory. -/

section
open Sys2Proof Sys2Proof.Machine

/-- Settles O10: the checks in their order, then each request by the check that it meets. -/
theorem streamCreateAndTuneResults : Obligations.StreamCreateAndTuneResults := by
  refine ⟨?_, fun r b s t refuse h hb hr => ?_, fun r f s t refuse h hr => ?_⟩
  · rintro n _ _ _ _ _ cur f rfl rfl rfl rfl rfl
    refine ⟨checkQuota_policy, fun hp hc => ?_, fun hp h₁ h₂ hr => ?_, fun hp h₁ h₂ hr hk => ?_,
      fun hp h₁ h₂ hr hk ha => ?_, fun hp h₁ h₂ hr hk ha => ?_⟩ <;> rw [checkQuota_eq hp]
    · rw [if_pos hc]
    · rw [if_neg (by omega), if_pos hr]
    · rw [if_neg (by omega), if_neg (by omega), if_pos hk]
    · rw [if_neg (by omega), if_neg (by omega), if_neg (by omega), if_pos ha]
    · rw [if_neg (by omega), if_neg (by omega), if_neg (by omega), if_neg (by omega)]
  · obtain rfl : refuse = fun st n => reply r (refusal st n) := funext fun st => funext (hr st)
    refine ⟨fun bad => ?_, fun nonempty short zeroless => ⟨fun n hq => ?_, fun v hq => ⟨fun inUse => ?_, fun others noCreate =>
      ⟨fun full => ?_, fun i absent idle low => ?_⟩⟩⟩⟩
    · refine arrive_sd h (SD.streamCreate_badName hb ?_)
      rw [Bool.eq_false_iff, Ne, nameValid_iff]
      rintro ⟨nonempty, short, zeroless⟩
      rcases bad with e | e | e
      · exact nonempty e
      · omega
      · exact zeroless e
    all_goals have valid := (nameValid_iff _).2 ⟨nonempty, short, zeroless⟩
    · exact arrive_sd h (SD.streamCreate_badField hb valid hq)
    · refine arrive_sd h ((SD.streamCreate_checked hb valid hq).trans (if_pos ?_))
      rwa [SD.byName_isSome, SD.setAside_iff]
    all_goals
      have fresh : ¬ ((t.sd.byName b.name).isSome = true ∨ t.sd.setAside b.name = true) := by
        rw [SD.byName_isSome, SD.setAside_iff]
        rintro (⟨i, present, name⟩ | ⟨i, c, create, name⟩)
        · exact (others i).elim present (· name)
        · exact noCreate i c create name
    · refine arrive_sd h ((SD.streamCreate_checked hb valid hq).trans ((if_neg fresh).trans ?_))
      rw [Work.start_st, SD.lowestFree_none full]
      rfl
    · refine arrive_sd h ((SD.streamCreate_checked hb valid hq).trans ((if_neg fresh).trans ?_))
      rw [Work.start_st, SD.lowestFree_some absent idle low]
      rfl
  · obtain rfl : refuse = fun st n => reply r (refusal st n) := funext fun st => funext (hr st)
    refine ⟨fun v hb large => arrive_sd h (SD.streamTune_badId hb large), fun i hb => ⟨fun claimed => ?_,
      fun noCreate noTune noDelete => ?_⟩⟩
    · refine ⟨t.sd.works[i].outstanding, ?_, StreamWork.create_mem_outstanding _, StreamWork.tune_mem_outstanding _,
        StreamWork.delete_mem_outstanding _⟩
      refine (arrive_sd_silent h ((SD.streamTune_eq hb).trans (if_neg (StreamWork.outstanding_ne_nil claimed)))).trans ?_
      exact congrArg (fun sd => Host.Outcome.next { t with sd := sd }) (SD.onWork_congr rfl)
    · have now : SD.streamTune r (t.body r) (Work.start t.sd) = SD.tuneNow i r f (Work.start t.sd) :=
        (SD.streamTune_eq hb).trans (if_pos ((StreamWork.outstanding_nil _).2 ⟨noCreate, noTune, noDelete⟩))
      refine ⟨fun absent => ?_, fun deleting => ?_, fun live => ⟨fun n hq => ?_, fun v hq => ?_⟩⟩
      · exact arrive_sd h (now.trans (SD.tuneNow_absent absent))
      · exact arrive_sd h (now.trans (SD.tuneNow_deleting deleting))
      · exact arrive_sd h (now.trans (SD.tuneNow_badField ((Descriptor.live_iff _).2 live) hq))
      · exact arrive_sd h (now.trans (SD.tuneNow_claims ((Descriptor.live_iff _).2 live) hq))

/-- Settles O11: each of PP's answers to a claim, then the tunes that waited for it. -/
theorem quotaClaimAnswerResults : Obligations.QuotaClaimAnswerResults := by
  refine ⟨fun i c s t h create => ?_, fun i c cause s t h create => ?_, fun i k s t h tune live => ?_,
    fun i k a st detail s t h tune cases => ?_, fun i s t h => ?_, fun m c i st first s t h hm ended => ?_,
    fun m c i values v first x rest s t h hm waiting alone passes => ?_⟩
  · obtain ⟨sends, streams, create, -⟩ := State.onSd_resumeTunes (SD.createClaimAnswer_granted create)
    refine ⟨_, arrive_takes h _, State.onSd_only _ _, sends, streams, create.trans ?_⟩
    exact congrArg StreamWork.create (SD.claimDone_work .create i t.sd)
  · obtain ⟨sends, streams, -, -⟩ := State.onSd_resumeTunes (SD.createClaimAnswer_refused cause create)
    exact ⟨_, arrive_takes h _, State.onSd_only _ _, sends, streams⟩
  · have result := SD.tuneClaimAnswer_granted (w := Work.start t.sd) tune live
    obtain ⟨sends, streams, -, -⟩ := State.onSd_resumeTunes result
    refine ⟨_, arrive_takes h _, State.onSd_only _ _, sends, streams, fun idle => ?_⟩
    have work := SD.claimDone_work .tune i t.sd
    rw [(State.onSd_claimDone result work idle).1]
    exact congrArg StreamWork.tune work
  · have refused : t.sd.streams[i].live = false ∨ a ≠ .granted := by
      rcases cases with ⟨-, rfl, -⟩ | ⟨-, rfl, -⟩ | ⟨e, -⟩
      · exact .inr nofun
      · exact .inr nofun
      · exact .inl e
    have answer : tuneRefusal t.sd.streams[i].live a = (st, detail) := by
      rcases cases with ⟨e, rfl, rfl, rfl⟩ | ⟨e, rfl, rfl, rfl⟩ | ⟨e, rfl, rfl⟩ <;> rw [e]
      · rfl
      · rfl
      · rcases a with _ | _ | _ <;> rfl
    have result := SD.tuneClaimAnswer_refused (w := Work.start t.sd) tune refused
    rw [Work.start_st, answer] at result
    obtain ⟨sends, streams, -, -⟩ := State.onSd_resumeTunes result
    refine ⟨_, arrive_takes h _, State.onSd_only _ _, sends, streams, fun idle => ?_⟩
    have work := SD.claimDone_work .tune i t.sd
    rw [(State.onSd_claimDone result work idle).1]
    exact congrArg StreamWork.tune work
  · have work := SD.claimDone_work .delete i t.sd
    have result := SD.deleteClaimAnswer_eq i (Work.start t.sd)
    obtain ⟨-, streams, -, claim⟩ := State.onSd_resumeTunes result
    refine ⟨_, arrive_takes h _, State.onSd_only _ _, streams, claim.trans ?_, fun idle => ?_⟩
    · exact (congrArg StreamWork.deleteClaim work).trans (Bool.and_false _)
    · exact (State.onSd_claimDone result work idle).2.trans (List.append_nil _)
  · obtain ⟨⟨f, next, result⟩, idle⟩ := claimAnswer_ended h hm (Descriptor.live_of_ended ended)
    have resumed := result.trans (SD.resumeTunes_claimDone (w := Work.start t.sd) ended idle)
    exact next.trans (congrArg Host.Outcome.next (State.onSd_eq resumed))
  · obtain ⟨f, sd, next, result, work, live, inForce, idle⟩ := claimAnswer_live h hm
    obtain ⟨tune, queue, out⟩ := SD.resumeTunes_next (w := ⟨sd, first⟩) ⟨_, work, waiting, idle⟩ alone live
      (by rw [inForce]; exact passes)
    refine ⟨_, next, State.onSd_only _ _, ?_, ?_, State.onSd_sends ((congrArg Work.out result).trans out)⟩
    · rw [State.onSd_sd, result, tune]
    · rw [State.onSd_sd, result, queue]

end

/-! SUPPORT. The Stream Directory: seals, deletes, reports, and the counts of a stream (R6 to R8, R15 to R23). -/

namespace Sys2Proof.Machine

theorem SD.onStream_congr {sd : SD} {i : StreamId} {f g : Descriptor → Descriptor} (h : f sd.streams[i] = g sd.streams[i]) :
    sd.onStream i f = sd.onStream i g := by
  rw [SD.onStream, SD.onStream, upd, upd, h]

/-! ### Requests (R15, R19, R22) -/

/-- A seal of a stream that is named by an id (R15). -/
theorem SD.streamSeal_eq {r : Req} {body : List Byte} {i : StreamId} {w : Work SD} (hb : oneField 1 body = .ok i.val) :
    SD.streamSeal r body w = match w.st.streams[i].state with
      | .absent => w.refuse r .noStream
      | .sealed | .deleting => w.refuse r .wrongState
      | .opened => ⟨w.st.onStream i fun d => { d with state := .sealed, sealCause := .request, settled := false },
          w.out ++ [reply r okAnswer, streamEvent .streamSealed i (some 0), .sealOrder i]⟩ := by
  rw [SD.streamSeal, hb, Work.layout_ok]
  simp only [index_val]
  cases w.st.streams[i].state with
  | absent | sealed | deleting => rfl
  | opened =>
    simp only [Work.answer, Work.send, Work.sendAll, Work.mod, List.append_assoc]
    rfl

/-- SD and its messages once a delete has taken a stream, before the teardown goes on (R19). -/
def SD.deleteStart (r : Req) (i : StreamId) (w : Work SD) : Work SD :=
  (w.mod fun sd => (sd.onStream i fun d => { d with state := .deleting, reservation := 0 }).onWork i fun k =>
    { k with deleteClaim := true, delete := some r, handedOver := false, emptied := false, clear := false }).sendAll
      [.deleteClaim i w.st.streams[i].ceiling, .deleteOrderAtDe i, .deleteOrderAtAe i, .deleteOrderAtMu i]

/-- A delete of a live stream (R19). -/
theorem SD.streamDelete_live {r : Req} {body : List Byte} {i : StreamId} {force : Bool} {w : Work SD}
    (hb : idFlagBody body = .ok (i.val, force)) (hl : w.st.streams[i].live = true) : SD.streamDelete r body w =
      if force = false ∧ w.st.streams[i].unused = false then w.refuse r .inUse else SD.advance i (SD.deleteStart r i w) := by
  rw [SD.streamDelete, hb, Work.layout_ok]
  simp only [index_val]
  rcases (Descriptor.live_iff _).1 hl with e | e <;> rw [e] <;>
    simp only [Bool.and_eq_true, Bool.not_eq_true'] <;> rfl

/-- A delete hands the stream over to RU at once where nothing is bound or pending (R19, R20). -/
theorem SD.advance_deleteStart (r : Req) (i : StreamId) (w : Work SD) :
    SD.advance i (SD.deleteStart r i w) = if w.st.streams[i].unused = true
      then ⟨(SD.deleteStart r i w).st.onWork i fun k => { k with handedOver := true },
        (SD.deleteStart r i w).out ++ [.teardownHandover i]⟩
      else SD.deleteStart r i w := by
  have stream : (SD.deleteStart r i w).st.streams[i] = { w.st.streams[i] with state := .deleting, reservation := 0 } :=
    SD.onStream_stream w.st i _
  have work := SD.onWork_work (w.st.onStream i fun d => { d with state := .deleting, reservation := 0 }) i fun k =>
    { k with deleteClaim := true, delete := some r, handedOver := false, emptied := false, clear := false }
  have unused : (SD.deleteStart r i w).st.streams[i].unused = w.st.streams[i].unused :=
    (congrArg Descriptor.unused stream).trans rfl
  split
  · next h =>
    exact SD.advance_handsOver (congrArg Descriptor.state stream) (unused.trans h) (congrArg StreamWork.handedOver work)
      (.inl (congrArg StreamWork.emptied work))
  · next h => exact SD.advance_waits (.inr (unused.trans (Bool.eq_false_iff.2 h)))

/-- The stream of a name is the lowest present one that has it (R1). -/
theorem SD.byName_some {sd : SD} {i : StreamId} {n : List Byte} (hs : sd.streams[i].state ≠ .absent)
    (hn : sd.streams[i].name = n) (low : ∀ j < i, sd.streams[j].state = .absent ∨ sd.streams[j].name ≠ n) :
    sd.byName n = some i := by
  refine find_finRange.2 ⟨?_, fun j hj => ?_⟩
  · rw [Bool.and_eq_true, decide_eq_true_eq, beq_iff_eq]
    exact ⟨hs, hn⟩
  · rw [Bool.and_eq_false_iff, decide_eq_false_iff_not, Classical.not_not, beq_eq_false_iff_ne]
    exact low j hj

/-- STREAM_INFO asks PP for the held count of the stream that it names (R22). -/
theorem SD.streamInfo_asks {r : Req} {body : List Byte} {i : StreamId} {w : Work SD}
    (hs : w.st.streams[i].state ≠ .absent)
    (hb : infoBody body = .ok (.id i.val) ∨ ∃ n, infoBody body = .ok (.name n) ∧ nameValid n = true ∧
      w.st.byName n = some i) : SD.streamInfo r body w = w.send (.heldQuestion i (.sd r)) := by
  have asks : SD.infoOf r (some i) w = w.send (.heldQuestion i (.sd r)) := if_neg hs
  rcases hb with hb | ⟨n, hb, valid, named⟩ <;> rw [SD.streamInfo, hb, Work.layout_ok]
  · simp only [index_val]
    exact asks
  · simp only [valid, named]
    exact asks

/-! ### Page closes and the table of R17 -/

/-- A page close marks the tail record closed and hands MU a copy (R7). -/
theorem SD.pageClose_eq {i : StreamId} {k : Lpn} {r : MapRec} {w : Work SD} (ht : w.st.streams[i].tailLpn = some k)
    (hr : w.st.streams[i].tailRec = some r) : SD.pageClose i w =
      ⟨w.st.onStream i fun d => { d with tailRec := some { r with closed := true } },
        w.out ++ ([.mapWrite i k { r with closed := true }] ++
          if w.st.streams[i].live then [.evaluationTrigger i] else [])⟩ := by
  have live : (w.st.onStream i fun d => { d with tailRec := some { r with closed := true } }).streams[i].live =
      w.st.streams[i].live := (congrArg Descriptor.live (SD.onStream_stream _ _ _)).trans rfl
  simp only [SD.pageClose, ht, hr, SD.trigger_eq, Work.send_st, Work.mod_st, live, Work.send_out, Work.mod_out,
    List.append_assoc]

/-- A commit that the stream's state does not take is not applied (R8). -/
theorem SD.commit_ignored {i : StreamId} {q : Seq} {stamp : Clock} {w : Work SD}
    (h : w.st.streams[i].takesCommit = false) : SD.commit i q stamp w = w := by
  rw [SD.commit, h]
  rfl

/-- The states in which a commit is applied (R8). -/
theorem Descriptor.takesCommit_iff (d : Descriptor) : d.takesCommit = true ↔
    d.state = .opened ∨ d.state = .deleting ∨ (d.state = .sealed ∧ d.settled = false) := by
  unfold Descriptor.takesCommit
  cases d.state <;> simp

theorem SD.bind_refused {i : StreamId} {c : CursorId} {st : Status} {w : Work SD}
    (h : w.st.streams[i].bindRefusal = some st) : SD.bind i c w = w.send (.bindAnswer c (.refused st)) := by
  simp only [SD.bind, h]

theorem SD.bind_full {i : StreamId} {c : CursorId} {w : Work SD} (hl : w.st.streams[i].live = true)
    (hc : 8 ≤ w.st.streams[i].cursorCount) : SD.bind i c w = w.send (.bindAnswer c (.refused .noRoom)) := by
  simp only [SD.bind, Descriptor.bindRefusal_live hl]
  exact if_pos hc

/-- A message of SD's that leaves its state (R22, R48, R71, R74, R91, R133, R145). -/
theorem arrive_sd_sends {c m : Instr} {s t : State} {f : State → Work SD → Work SD} (h : Takes c s t)
    (hf : f t (Work.start t.sd) = (Work.start t.sd).send m) :
    arrive c s (fun t => t.onSd (f t)) = .next (t.post (.core .sd) [m]) := arrive_sd h hf

/-! ### The end of a teardown (R20) -/

/-- What the last step of a teardown leaves of a delete under way. -/
def StreamWork.tornDown (k : StreamWork) : StreamWork :=
  { k with delete := none, handedOver := false, emptied := false, clear := false }

/-- A command at SD that leaves the teardown of its stream at its end (R20). -/
theorem arrive_teardownEnd {c : Instr} {s t : State} {f : State → Work SD → Work SD} {i : StreamId} {sd : SD}
    (h : Takes c s t) (hf : f t (Work.start t.sd) = SD.advance i ⟨sd, []⟩) (deleting : sd.streams[i].state = .deleting)
    (unused : sd.streams[i].cursorCount = 0 ∧ sd.streams[i].pendingAppends = 0) (handed : sd.works[i].handedOver = true)
    (emptied : sd.works[i].emptied = true) (clear : sd.works[i].clear = true)
    (asker : sd.works[i].delete = t.sd.works[i].delete)
    (rest : (sd.onStream i fun _ => absentDescriptor).onWork i StreamWork.tornDown =
      (t.sd.onStream i fun _ => absentDescriptor).onWork i StreamWork.tornDown) :
    arrive c s (fun t => t.onSd (f t)) =
      .next ({ t with sd := (t.sd.onStream i fun _ => absentDescriptor).onWork i StreamWork.tornDown }.post (.core .sd)
        ((match t.sd.works[i].delete with
          | some r => [reply r okAnswer]
          | none => []) ++ [streamEvent .streamDeleted i none, .streamAbsentReport i])) := by
  have ends := SD.advance_ends (w := ⟨sd, []⟩) deleting ((Descriptor.unused_iff _).2 unused) handed emptied clear
  refine arrive_sd h (hf.trans (ends.trans (Work.mk.injEq .. ▸ ⟨rest, ?_⟩)))
  dsimp only
  rw [asker]
  cases t.sd.works[i].delete <;> rfl

/-- The last cursor or append to leave hands a stream over that RU has not seen yet (R20). -/
theorem SD.advance_lastLeaves {i : StreamId} {sd : SD} {f g : Descriptor → Descriptor} (deleting : sd.streams[i].state = .deleting)
    (keeps : (f sd.streams[i]).state = sd.streams[i].state) (unused : (f sd.streams[i]).unused = true)
    (same : f sd.streams[i] = g sd.streams[i]) (handed : sd.works[i].handedOver = false)
    (emptied : sd.works[i].emptied = false) : SD.advance i ⟨sd.onStream i f, []⟩ =
      ⟨(sd.onStream i g).onWork i fun k => { k with handedOver := true }, [.teardownHandover i]⟩ := by
  have stream := SD.onStream_stream sd i f
  rw [← SD.onStream_congr same]
  exact SD.advance_handsOver ((congrArg Descriptor.state stream).trans (keeps.trans deleting))
    ((congrArg Descriptor.unused stream).trans unused) handed (.inl emptied)

end Sys2Proof.Machine

/-! The statements about seals, deletes, reports and the counts of a stream. -/

section
open Sys2Proof Sys2Proof.Machine

/-- Settles O12: each request by the state of its stream, and AE's answer to the seal order. -/
theorem streamSealAndDeleteResults : Obligations.StreamSealAndDeleteResults := by
  refine ⟨⟨fun r i s t h hb => ⟨fun opened => ?_, fun absent => ?_, fun ended => ?_⟩, fun i s t h isSealed => ?_⟩,
    fun r i force s t h hb live => ⟨fun unforced used => ?_, fun free => ?_⟩⟩
  · refine arrive_sd h ((SD.streamSeal_eq hb).trans ?_)
    rw [Work.start_st, opened]
    rfl
  · refine arrive_sd h ((SD.streamSeal_eq hb).trans ?_)
    rw [Work.start_st, absent]
    rfl
  · refine arrive_sd h ((SD.streamSeal_eq hb).trans ?_)
    rw [Work.start_st]
    rcases ended with e | e <;> rw [e] <;> rfl
  · exact arrive_sd h (SD.sealAnswer_sealed isSealed)
  · refine arrive_sd h ((SD.streamDelete_live hb live).trans (if_pos ⟨unforced, ?_⟩))
    rw [Bool.eq_false_iff, Ne, Descriptor.unused_iff, Work.start_st]
    omega
  · have notRefused : ¬ (force = false ∧ t.sd.streams[i].unused = false) := by
      rintro ⟨unforced, used⟩
      rcases free with e | e
      · rw [unforced] at e
        exact Bool.false_ne_true e
      · rw [(Descriptor.unused_iff _).2 e] at used
        exact Bool.false_ne_true used.symm
    have result := ((SD.streamDelete_live (w := Work.start t.sd) hb live).trans (if_neg notRefused)).trans
      (SD.advance_deleteStart r i (Work.start t.sd))
    have work := SD.onWork_work (t.sd.onStream i fun d => { d with state := .deleting, reservation := 0 }) i fun k =>
      { k with deleteClaim := true, delete := some r, handedOver := false, emptied := false, clear := false }
    refine ⟨_, arrive_takes h _, State.onSd_only _ _, ?_⟩
    rw [Sends, State.onSd_wires, State.onSd_sd, result]
    by_cases unused : t.sd.streams[i].unused = true
    · rw [Work.start_st, if_pos unused, if_pos ((Descriptor.unused_iff _).1 unused)]
      refine ⟨rfl, ?_, ?_, rfl⟩
      · exact (congrArg StreamWork.delete (SD.onWork_work _ i _)).trans (congrArg StreamWork.delete work)
      · exact (congrArg StreamWork.deleteClaim (SD.onWork_work _ i _)).trans (congrArg StreamWork.deleteClaim work)
    · rw [Work.start_st, if_neg unused, if_neg (mt (Descriptor.unused_iff _).2 unused)]
      exact ⟨rfl, congrArg StreamWork.delete work, congrArg StreamWork.deleteClaim work, rfl⟩

/-- Settles O14: the answers read the descriptor as it stands, and a counter update raises one counter. -/
theorem directoryReportResults : Obligations.DirectoryReportResults := by
  refine ⟨⟨fun r i s t h present hb => ?_, fun r i held s t h => arrive_sd_sends h rfl⟩,
    fun i ref s t h => arrive_sd_sends h rfl, fun i s t h => arrive_sd_sends h rfl, fun i s t h => arrive_sd_sends h rfl,
    fun i c s t h => arrive_sd_sends h rfl, fun i s t h => arrive_sd_sends h rfl, fun s t h => ?_,
    fun i s t present => ⟨fun h => ?_, fun n h => ?_, fun h => ?_⟩⟩
  · refine arrive_sd_sends h (SD.streamInfo_asks present (hb.imp_right ?_))
    rintro ⟨n, hb, valid, name, low⟩
    exact ⟨n, hb, valid, SD.byName_some present name low⟩
  · refine ⟨_, arrive_sd_sends h rfl, (List.pairwise_lt_finRange 32).filter _, fun i => ?_⟩
    simp only [List.mem_filter, List.mem_finRange, true_and, Bool.and_eq_true, Work.start_st]
    exact and_congr_right fun _ => decide_eq_true_iff
  all_goals exact arrive_sd_silent h (if_neg present)

/-- Settles O16: a page close by R7's rule, a commit by whether the stream's state takes it. -/
theorem pageCloseAndCommitResults : Obligations.PageCloseAndCommitResults := by
  refine ⟨fun i k r s t h ht hr => arrive_sd h (SD.pageClose_eq ht hr), fun i q stamp r s t h takes hr notLast => ?_,
    fun i q stamp s t h ignored => ?_⟩
  · refine arrive_sd h ((SD.commit_applied stamp ((Descriptor.takesCommit_iff _).2 takes) fun e => notLast e.2).trans ?_)
    refine Work.mk.injEq .. ▸ ⟨SD.onStream_congr ?_, rfl⟩
    simp only [Descriptor.committedAt, Work.start_st, hr]
    rfl
  · refine arrive_sd_silent h (SD.commit_ignored ?_)
    rw [Bool.eq_false_iff, Ne, Descriptor.takesCommit_iff, Work.start_st]
    rcases ignored with e | ⟨e, settled⟩
    · simp [-Fin.getElem_fin, e]
    · simp [-Fin.getElem_fin, e, settled]

/-- Settles O19: the table of R17, and the two counts where no teardown is under way. -/
theorem bindAndAdmissionResults : Obligations.BindAndAdmissionResults := by
  refine ⟨fun i c s t h => ⟨fun absent => ?_, fun deleting => ?_, fun live full => ?_, fun live room => ?_⟩,
    fun i c s t h live => arrive_sd_sends h (SD.rebind_granted c live),
    fun i s t notDeleting => ⟨fun h => ?_, fun h => ?_⟩, fun i r s t h => ⟨fun present => ?_, fun absent => ?_⟩⟩
  · exact arrive_sd_sends h (SD.bind_refused (by rw [Descriptor.bindRefusal, Work.start_st, absent]))
  · exact arrive_sd_sends h (SD.bind_refused (by rw [Descriptor.bindRefusal, Work.start_st, deleting]))
  · exact arrive_sd_sends h (SD.bind_full live (Nat.le_of_eq full.symm))
  · exact arrive_sd h (SD.bind_granted c live (Nat.lt_succ_of_le room))
  · refine arrive_sd_silent h (SD.advance_waits (.inl ?_))
    rw [Work.mod_st, SD.onStream_stream]
    exact notDeleting
  · refine arrive_sd_silent h (SD.advance_waits (.inl ?_))
    rw [Work.mod_st, SD.onStream_stream]
    exact notDeleting
  · exact arrive_sd h (if_neg present)
  · exact arrive_sd_sends h (if_pos absent)

/-- Settles O13: what each event leaves for the teardown to find, then whether that is its end. -/
theorem streamTeardownResults : Obligations.StreamTeardownResults := by
  refine ⟨fun c i k s t h deleting hk handed cases => ?_, fun i s t deleting => ⟨fun handed =>
    ⟨fun h open_ => ?_, fun h open_ => ?_⟩, fun notHanded notEmptied => ⟨fun h cursors appends => ?_,
      fun h cursors appends => ?_⟩⟩⟩
  · have hw := SD.onWork_work t.sd i
    have hd := SD.onStream_stream t.sd i
    subst hk
    rcases cases with ⟨rfl, clear, unused⟩ | ⟨rfl, emptied, unused⟩ | ⟨rfl, clear, emptied, cursors, appends⟩ |
      ⟨rfl, clear, emptied, cursors, appends⟩
    · refine arrive_teardownEnd h (if_pos deleting) deleting unused ?_ ?_ ?_ ?_
        (SD.onWork_onWork (t.sd.onStream i fun _ => absentDescriptor) i (fun k => { k with emptied := true }) _) <;>
        rw [Work.start_st, hw]
      · exact handed
      · exact clear
    · refine arrive_teardownEnd h (if_pos deleting) deleting unused ?_ ?_ ?_ ?_
        (SD.onWork_onWork (t.sd.onStream i fun _ => absentDescriptor) i (fun k => { k with clear := true }) _) <;>
        rw [Work.start_st, hw]
      · exact handed
      · exact emptied
    · refine arrive_teardownEnd h rfl ?_ ?_ handed emptied clear rfl
        (congrArg (SD.onWork · i _) (SD.onStream_onStream _ i _ _)) <;> rw [Work.start_st, hd]
      · exact deleting
      · exact ⟨by rw [cursors], appends⟩
    · refine arrive_teardownEnd h rfl ?_ ?_ handed emptied clear rfl
        (congrArg (SD.onWork · i _) (SD.onStream_onStream _ i _ _)) <;> rw [Work.start_st, hd]
      · exact deleting
      · exact ⟨cursors, by rw [appends]⟩
  · have work := SD.onWork_work t.sd i fun k => { k with emptied := true }
    refine arrive_sd_silent h ((if_pos deleting).trans ?_)
    rcases open_ with unclear | used
    · exact SD.advance_handedOver ((congrArg StreamWork.handedOver work).trans handed)
        (.inr ((congrArg StreamWork.clear work).trans unclear))
    · exact SD.advance_waits (.inr used)
  · have work := SD.onWork_work t.sd i fun k => { k with clear := true }
    refine arrive_sd_silent h ((if_pos deleting).trans ?_)
    rcases open_ with unemptied | used
    · exact SD.advance_handedOver ((congrArg StreamWork.handedOver work).trans handed)
        (.inl ((congrArg StreamWork.emptied work).trans unemptied))
    · exact SD.advance_waits (.inr used)
  · refine arrive_sd h (SD.advance_lastLeaves deleting rfl ((Descriptor.unused_iff _).2 ⟨?_, appends⟩) ?_ notHanded notEmptied)
    · rw [Work.start_st, cursors]
    · rw [Work.start_st, cursors]
  · refine arrive_sd h (SD.advance_lastLeaves deleting rfl ((Descriptor.unused_iff _).2 ⟨cursors, ?_⟩) ?_ notHanded notEmptied)
    · rw [Work.start_st, appends]
    · rw [Work.start_st, appends]

end

/-! SUPPORT. The Page Pool: claims, allocation, hand-overs, and the pressure (R28 to R40). -/

namespace Sys2Proof.Machine

/-! ### Events whose work is known -/

/-- A command at PP whose work is known. -/
theorem arrive_pp {c : Instr} {s t : State} {f : State → Work PP → Work PP} {pp : PP} {ms : List Instr} (h : Takes c s t)
    (hf : f t (Work.start t.pp) = ⟨pp, ms⟩) :
    arrive c s (fun t => t.onPp (f t)) = .next (({ t with pp := pp } : State).post (.core .pp) ms) :=
  (arrive_takes h _).trans (congrArg _ (State.onPp_eq hf))

/-- A command at PP that settles the accounting and then answers. -/
theorem arrive_accounted {c : Instr} {s t : State} {f : State → Work PP → Work PP} {p : PP} {answers : List Instr}
    (h : Takes c s t) (hf : f t (Work.start t.pp) = (PP.settle t.pp.sharedFree ⟨p, []⟩).sendAll answers) :
    arrive c s (fun t => t.onPp (f t)) = .next (t.accounted p answers) :=
  (arrive_takes h _).trans (congrArg _ (State.onPp_accounted hf))

/-! ### Claims (R29 to R31) -/

theorem PP.createClaim_granted {i : StreamId} {res ceil : Nat} {w : Work PP} (h : res ≤ w.st.sharedFree) :
    PP.createClaim i res ceil w =
      (PP.account w fun p => p.onQuota i fun _ => ⟨true, res, ceil, 0⟩).send (.createClaimAnswer i .granted) := if_pos h

theorem PP.createClaim_refused {i : StreamId} {res ceil : Nat} {w : Work PP} (h : w.st.sharedFree < res) :
    PP.createClaim i res ceil w = w.send (.createClaimAnswer i (.refused .shared)) := if_neg (Nat.not_le.2 h)

/-- A tune claim, with what it needs of shared_free as a sum (R30). -/
theorem PP.tuneClaim_eq (i : StreamId) (res ceil : Nat) (w : Work PP) : PP.tuneClaim i res ceil w =
    if ceil < w.st.quotas[i].held then w.send (.tuneClaimAnswer i (.refused .ceiling))
    else if w.st.sharedFree + (w.st.quotas[i].reservation - w.st.quotas[i].held) < res - w.st.quotas[i].held then
      w.send (.tuneClaimAnswer i (.refused .shared))
    else (PP.account w fun p => p.onQuota i fun q => { q with reservation := res, ceiling := ceil }).send
      (.tuneClaimAnswer i .granted) := by
  have need : w.st.sharedFree < res - w.st.quotas[i].held - w.st.quotas[i].unused ↔
      w.st.sharedFree + (w.st.quotas[i].reservation - w.st.quotas[i].held) < res - w.st.quotas[i].held := by
    simp only [Quota.unused]
    omega
  simp only [PP.tuneClaim, need]

/-! ### Allocation, and what it does to the accounting (R28, R32) -/

/-- A counter that is raised once the accounting is settled could as well have been raised before. -/
theorem PP.settle_counters (n : Nat) (p : PP) (o : List Instr) (f : PoolCounters → PoolCounters)
    (hf : ∀ c k, f { c with lowestShared := min c.lowestShared k } = { f c with lowestShared := min (f c).lowestShared k }) :
    (PP.settle n ⟨p, o⟩).mod (fun p => p.onCounters f) = PP.settle n ⟨p.onCounters f, o⟩ := by
  have free : (p.onCounters f).sharedFree = p.sharedFree := rfl
  unfold PP.settle
  simp only [free]
  split
  · rfl
  · change (PP.evaluate ⟨{ p with counters := { p.counters with lowestShared := min p.counters.lowestShared p.sharedFree } }, o⟩).mod
        (fun p => p.onCounters f) = PP.evaluate
          ⟨{ p with counters := { f p.counters with lowestShared := min (f p.counters).lowestShared p.sharedFree } }, o⟩
    rw [← hf]
    have raise := congrArg (Work.mod · fun p => p.onCounters f) (PP.evaluate_counters p
      { p.counters with lowestShared := min p.counters.lowestShared p.sharedFree } o)
    exact raise.trans (PP.evaluate_counters p _ o).symm

theorem PP.allocate_ceiling {i : StreamId} {w : Work PP} (h : w.st.quotas[i].ceiling ≤ w.st.quotas[i].held) :
    PP.allocate i w = PP.refuseAllocation i .ceiling w := if_pos h

theorem PP.allocate_shared {i : StreamId} {w : Work PP} (h : w.st.quotas[i].held < w.st.quotas[i].ceiling)
    (hr : w.st.quotas[i].reservation ≤ w.st.quotas[i].held) (hs : w.st.sharedFree = 0) :
    PP.allocate i w = PP.refuseAllocation i .shared w := by
  unfold PP.allocate
  rw [if_neg (Nat.not_le.2 h), if_pos (by simp only [hr, hs, decide_true, Bool.and_self])]

/-- A granted allocation takes the page at the head of the free list (R32). -/
theorem PP.allocate_granted {i : StreamId} {ppn : Ppn} {rest : List Run} {w : Work PP}
    (h : w.st.quotas[i].held < w.st.quotas[i].ceiling)
    (hs : w.st.quotas[i].held < w.st.quotas[i].reservation ∨ w.st.sharedFree ≠ 0) (ht : takeFree w.st.free = some (ppn, rest)) :
    PP.allocate i w = ((PP.account w fun p => p.granted i ppn rest).mod fun p =>
      p.onCounters fun k => { k with allocations := count k.allocations 1 }).send (.allocationGrant i ppn) := by
  have room : ¬ (decide (w.st.quotas[i].reservation ≤ w.st.quotas[i].held) && decide (w.st.sharedFree = 0)) = true := by
    rw [Bool.and_eq_true, decide_eq_true_eq, decide_eq_true_eq]
    rintro ⟨full, zero⟩
    exact hs.elim (Nat.not_lt.2 full) (· zero)
  unfold PP.allocate
  rw [if_neg (Nat.not_le.2 h), if_neg room, ht]
  rfl

/-- The table of R28 for a page that is granted. -/
theorem PP.granted_accounting {i : StreamId} {ppn : Ppn} {rest : List Run} {p : PP} (ht : takeFree p.free = some (ppn, rest))
    (hs : p.quotas[i].reservation ≤ p.quotas[i].held → p.sharedFree ≠ 0) :
    (freeList (p.granted i ppn rest).free).length + 1 = (freeList p.free).length ∧
      (p.quotas[i].held < p.quotas[i].reservation →
        (p.granted i ppn rest).unused + 1 = p.unused ∧ (p.granted i ppn rest).sharedFree = p.sharedFree) ∧
      (p.quotas[i].reservation ≤ p.quotas[i].held →
        (p.granted i ppn rest).unused = p.unused ∧ (p.granted i ppn rest).sharedFree + 1 = p.sharedFree) := by
  have length : (freeList (p.granted i ppn rest).free).length + 1 = (freeList p.free).length := by
    rw [takeFree_some ht]
    rfl
  have sum : (p.granted i ppn rest).unused + p.quotas[i].unused = p.unused + (p.quotas[i].reservation - (p.quotas[i].held + 1)) :=
    PP.unused_onQuota p i fun q => { q with held := q.held + 1 }
  rw [PP.sharedFree_eq] at hs
  rw [PP.sharedFree_eq, PP.sharedFree_eq]
  simp only [Quota.unused] at sum
  omega

/-- The table of R28 for a page that becomes FREE. -/
theorem PP.freed_accounting {r : PageRec} {p : PP} (held : 1 ≤ p.quotas[r.owner].held) :
    (freeList (p.freed r).free).length = (freeList p.free).length + 1 ∧
      (p.quotas[r.owner].held - 1 < p.quotas[r.owner].reservation →
        (p.freed r).unused = p.unused + 1 ∧ (p.freed r).sharedFree = p.sharedFree) ∧
      (p.quotas[r.owner].reservation ≤ p.quotas[r.owner].held - 1 → (p.freed r).unused = p.unused ∧
        (p.unused ≤ (freeList p.free).length → (p.freed r).sharedFree = p.sharedFree + 1)) := by
  have length : (freeList (p.freed r).free).length = (freeList p.free).length + 1 := by
    change (freeList (putFree r.ppn p.free)).length = _
    rw [freeList_putFree, List.length_append]
    rfl
  have sum : (p.freed r).unused + p.quotas[r.owner].unused =
      p.unused + (p.quotas[r.owner].reservation - (p.quotas[r.owner].held - 1)) :=
    PP.unused_onQuota p r.owner fun q => { q with held := q.held - 1 }
  rw [PP.sharedFree_eq, PP.sharedFree_eq]
  simp only [Quota.unused] at sum
  omega

theorem sum_map_filter_of_zero {α : Type} (l : List α) (p : α → Bool) (f g : α → Nat) (hp : ∀ x, p x = true → f x = g x)
    (hz : ∀ x, p x = false → f x = 0) : (l.map f).sum = ((l.filter p).map g).sum := by
  induction l with
  | nil => rfl
  | cons x l ih =>
    cases h : p x with
    | true => simp [h, ih, hp x h]
    | false => simp [h, ih, hz x h]

theorem Vector.toList_eq_map_finRange {α : Type} {n : Nat} (v : Vector α n) : v.toList = (List.finRange n).map fun i => v[i] := by
  refine List.ext_getElem (by simp) fun i h₁ h₂ => ?_
  simp

/-- U as R28 defines it, over the active records. -/
theorem PP.unused_eq_sum_active {p : PP} (h : ∀ i : StreamId, p.quotas[i].active = false → p.quotas[i].reservation = 0) :
    p.unused = (((List.finRange 32).filter fun i => p.quotas[i].active).map fun i =>
      if p.quotas[i].held < p.quotas[i].reservation then p.quotas[i].reservation - p.quotas[i].held else 0).sum := by
  rw [PP.unused, Vector.toList_eq_map_finRange, List.map_map]
  refine sum_map_filter_of_zero _ _ _ _ (fun i _ => ?_) fun i hi => ?_
  · simp only [Function.comp, Quota.unused]
    split <;> omega
  · simp only [Function.comp, Quota.unused, h i hi, Nat.zero_sub]

/-! ### Hand-overs (R35 to R37) -/

/-- The record of a page that is handed over (R35). -/
def PageRec.handedOver (kind : RelKind) (r : PageRec) : PageRec := { r with releasing := true, recycle := kind = .recycle }

/-- A hand-over of an ALLOCATED page of the stream counts and marks it, and completes it where it has no hold (R35). -/
theorem PP.handOver_eq {i : StreamId} {ppn : Ppn} {kind : RelKind} {r : PageRec} {w : Work PP} (h : w.st.page ppn = some r)
    (hr : r.releasing = false) (ho : r.owner = i) : PP.handOver i ppn kind w =
      if r.holds = 0 then PP.complete (r.handedOver kind)
        (w.mod fun p => (p.onPage ppn fun _ => r.handedOver kind).onCounters (releaseCount kind))
      else w.mod fun p => (p.onPage ppn fun _ => r.handedOver kind).onCounters (releaseCount kind) := by
  have mine : (r.releasing || decide (r.owner ≠ i)) = false := by simp [hr, ho]
  simp only [PP.handOver, h, mine, Bool.false_eq_true, if_false]
  rfl

theorem releaseCount_eq (kind : RelKind) (k : PoolCounters) : releaseCount kind k =
    { k with
      normalReleases := if kind = .normal then count k.normalReleases 1 else k.normalReleases
      forcedReleases := if kind = .normal then k.forcedReleases else count k.forcedReleases 1 } := by
  unfold releaseCount
  split <;> rfl

/-! ### The pressure (R38) -/

theorem PP.evaluate_goesOn {w : Work PP} (hr : w.st.ready = true) (hp : w.st.pressure = false)
    (hs : w.st.sharedFree < w.st.lowMark) :
    PP.evaluate w = ⟨{ w.st with pressure := true }, w.out ++ [poolEvent .pressureOn w.st.sharedFree]⟩ :=
  (PP.evaluate_ready hr).trans (if_pos ⟨hp, hs⟩)

theorem PP.evaluate_goesOff {w : Work PP} (hr : w.st.ready = true) (hp : w.st.pressure = true)
    (hs : w.st.clearMark ≤ w.st.sharedFree ∨ w.st.lowMark = 0) :
    PP.evaluate w = ⟨{ w.st with pressure := false }, w.out ++ [poolEvent .pressureOff w.st.sharedFree]⟩ :=
  (PP.evaluate_ready hr).trans ((if_neg (by simp [hp])).trans (if_pos ⟨hp, hs⟩))

theorem PP.evaluate_stays {w : Work PP} (h : w.st.ready = false ∨ (w.st.pressure = false ∧ w.st.lowMark ≤ w.st.sharedFree) ∨
    (w.st.pressure = true ∧ w.st.sharedFree < w.st.clearMark ∧ w.st.lowMark ≠ 0)) : PP.evaluate w = w := by
  unfold PP.evaluate
  rcases h with hr | ⟨hp, hs⟩ | ⟨hp, hs, hl⟩
  · rw [hr]
    rfl
  · simp only [hp, Bool.false_eq_true, if_false, if_neg (Nat.not_lt.2 hs), ite_self]
  · have under : (decide (w.st.clearMark ≤ w.st.sharedFree) || decide (w.st.lowMark = 0)) = false := by
      rw [Bool.or_eq_false_iff, decide_eq_false_iff_not, decide_eq_false_iff_not]
      exact ⟨Nat.not_le.2 hs, hl⟩
    simp only [hp, under, Bool.false_eq_true, if_false, if_true, ite_self]

/-- POOL_TUNE with a body that has its layout (R39). -/
theorem PP.tune_eq {size low clear : Nat} {r : Req} {body : List Byte} {w : Work PP}
    (hb : poolTuneBody body = .ok (low, clear)) : PP.tune size r body w =
      if clear < 1 ∨ size < clear then w.refuse r .outOfRange 2
      else if clear ≤ low then w.refuse r .outOfRange 1
      else (PP.evaluate (w.mod fun p => { p with lowMark := low, clearMark := clear })).answer r okAnswer := by
  rw [PP.tune, hb, Work.layout_ok]

end Sys2Proof.Machine

/-! The statements about the Page Pool. -/

section
open Sys2Proof Sys2Proof.Machine

/-- Settles O20: each claim by what it finds of shared_free and held. -/
theorem quotaClaimResults : Obligations.QuotaClaimResults := by
  refine ⟨fun i res ceil s t h => ⟨fun room => ?_, fun short => ?_⟩,
    fun i res ceil s t h => ⟨fun low => ?_, fun fits short => ?_, fun fits room => ?_⟩, fun i ceil s t h => ?_,
    fun i s t h => ?_, fun i s t => ⟨fun r h => ?_, fun h => ?_⟩⟩
  · exact arrive_accounted h (PP.createClaim_granted room)
  · exact arrive_pp h (PP.createClaim_refused short)
  · exact arrive_pp h ((PP.tuneClaim_eq i res ceil _).trans (if_pos low))
  · exact arrive_pp h ((PP.tuneClaim_eq i res ceil _).trans ((if_neg (Nat.not_lt.2 fits)).trans (if_pos short)))
  · exact arrive_accounted h ((PP.tuneClaim_eq i res ceil _).trans
      ((if_neg (Nat.not_lt.2 fits)).trans (if_neg (Nat.not_lt.2 room))))
  · exact arrive_accounted h rfl
  · exact arrive_accounted h (Work.mk.injEq .. ▸ ⟨rfl, (List.append_nil _).symm⟩)
  · exact arrive_pp h rfl
  · exact arrive_pp h rfl

/-- Settles O24: the three cases of R38, then the marks and the status. -/
theorem pressureAndPoolRequestResults : Obligations.PressureAndPoolRequestResults := by
  refine ⟨fun w => ⟨PP.evaluate_goesOn, PP.evaluate_goesOff, PP.evaluate_stays⟩,
    fun r low clear w s t h hb => ⟨fun one fits above hw => ?_, fun out => ?_, fun one fits below => ?_⟩,
    fun r clear s t h hb => ?_⟩
  · have inRange : ¬ (clear < 1 ∨ t.poolSize < clear) := by omega
    refine arrive_pp h ((PP.tune_eq hb).trans ((if_neg inRange).trans ((if_neg (Nat.not_le.2 above)).trans ?_)))
    rw [hw]
    rfl
  · exact arrive_pp h ((PP.tune_eq hb).trans (if_pos (by omega)))
  · exact arrive_pp h ((PP.tune_eq hb).trans ((if_neg (by omega)).trans (if_pos below)))
  · refine arrive_pp h ?_
    rw [PP.status, hb, Work.layout_ok, PP.report, freeCount_eq]
    cases clear <;> rfl

end

/-! SUPPORT. What a completed page does to PP's accounting (R28, R36, R37). -/

namespace Sys2Proof.Machine

/-- An event at PP is its work on PP. -/
theorem arrive_pp_st {c : Instr} {s t u : State} {f : State → Work PP → Work PP} (h : Takes c s t)
    (hu : arrive c s (fun t => t.onPp (f t)) = .next u) : u.pp = (f t (Work.start t.pp)).st := by
  rw [arrive_takes h] at hu
  cases hu
  rfl

/-- A pool with the free list and the quotas of another has its U and its shared_free. -/
theorem PP.accounting_congr {p q : PP} (hf : q.free = p.free) (hq : q.quotas = p.quotas) :
    q.unused = p.unused ∧ q.sharedFree = p.sharedFree := by
  have unused : q.unused = p.unused := by rw [PP.unused, hq, PP.unused]
  exact ⟨unused, by rw [PP.sharedFree, PP.sharedFree, hf, unused]⟩

/-- The accounting of a page that is completed and becomes FREE (R28, R36). -/
theorem PP.complete_freed_accounting {r : PageRec} {w : Work PP} (h : r.recycle = false)
    (held : 1 ≤ w.st.quotas[r.owner].held) :
    (freeList (PP.complete r w).st.free).length = (freeList w.st.free).length + 1 ∧
      (w.st.quotas[r.owner].held - 1 < w.st.quotas[r.owner].reservation →
        (PP.complete r w).st.unused = w.st.unused + 1 ∧ (PP.complete r w).st.sharedFree = w.st.sharedFree) ∧
      (w.st.quotas[r.owner].reservation ≤ w.st.quotas[r.owner].held - 1 → (PP.complete r w).st.unused = w.st.unused ∧
        (w.st.unused ≤ (freeList w.st.free).length → (PP.complete r w).st.sharedFree = w.st.sharedFree + 1)) := by
  obtain ⟨free, -, unused, shared⟩ := PP.account_accounting w (PP.freed r)
  rw [PP.complete_freed w h, Work.send_st, free, unused, shared]
  exact PP.freed_accounting held

/-- A page that is recycled leaves the free list and the quotas (R37). -/
theorem PP.complete_recycled_accounting {r : PageRec} {w : Work PP} (h : r.recycle = true) :
    (PP.complete r w).st.free = w.st.free ∧ (PP.complete r w).st.quotas = w.st.quotas := by
  rw [PP.complete_recycled w h]
  exact ⟨rfl, rfl⟩

/-- A hold request by the record of its page (R33). -/
theorem PP.holdRequest_of {i : StreamId} {ppn : Ppn} {b : BufId} {r : PageRec} {w : Work PP} (h : w.st.page ppn = some r) :
    PP.holdRequest i ppn b w =
      if r.releasing = true then w.send (.holdAnswer b .releasing)
      else if r.owner = i then
        (w.mod fun p => p.onPage ppn fun r => { r with holds := r.holds + 1 }).send (.holdAnswer b .granted)
      else w.send (.holdAnswer b .notOwned) := by
  simp only [PP.holdRequest, h]

theorem PP.holdRequest_free {i : StreamId} {ppn : Ppn} {b : BufId} {w : Work PP} (h : w.st.page ppn = none) :
    PP.holdRequest i ppn b w = w.send (.holdAnswer b .notOwned) := by
  simp only [PP.holdRequest, h]

/-- A counted hand-over leaves the other pages' records. -/
theorem PP.handedOver_page_ne {kind : RelKind} {r : PageRec} {q : Ppn} (p : PP)
    (hq : q ≠ r.ppn) : ((p.onPage r.ppn fun _ => r.handedOver kind).onCounters (releaseCount kind)).page q = p.page q := by
  have same : p.onPage r.ppn (fun _ => r.handedOver kind) =
      p.onPage r.ppn fun x => if x.ppn = r.ppn then r.handedOver kind else x := by
    rw [PP.onPage, PP.onPage]
    refine congrArg (fun l => { p with pages := l }) (List.map_congr_left fun x _ => ?_)
    split <;> rfl
  change (p.onPage r.ppn fun _ => r.handedOver kind).page q = _
  rw [same]
  refine PP.onPage_ne (fun x => ?_) hq
  split
  · next e => exact e.symm
  · rfl

end Sys2Proof.Machine

/-! The statements about allocation, hold requests and hand-overs. -/

section
open Sys2Proof Sys2Proof.Machine

/-- Settles O21: the three outcomes of a request, then the table of R28 for each event that moves a page. -/
theorem allocationResult : Obligations.AllocationResult := by
  refine ⟨fun i s t h => ⟨fun full => ?_, fun room reserved none => ?_, fun ppn rest room free head => ?_⟩,
    fun p => ⟨PP.sharedFree_eq p, PP.unused_eq_sum_active⟩, fun i s t u h hu rises => ?_,
    fun c ppn r s t u h hu page => ?_⟩
  · exact arrive_pp h (PP.allocate_ceiling full)
  · exact arrive_pp h (PP.allocate_shared room reserved none)
  · obtain ⟨runs, taken, left⟩ := takeFree_of_cons head
    refine ⟨runs, left, arrive_accounted h ((PP.allocate_granted room free taken).trans ?_)⟩
    have settled := PP.settle_counters t.pp.sharedFree (t.pp.granted i ppn runs) []
      (fun k => { k with allocations := count k.allocations 1 }) fun _ _ => rfl
    exact congrArg (Work.send · _) settled
  · have pp := arrive_pp_st (f := fun _ => PP.allocate i) h hu
    rcases PP.allocate_cases i (Work.start t.pp) with ⟨c, e⟩ | ⟨ppn, rest, taken, -, shared, e⟩
    · rw [pp, e] at rises
      exact absurd rises.symm (Nat.succ_ne_self _)
    · obtain ⟨free, -, unused, sharedFree⟩ := PP.account_accounting (Work.start t.pp) (PP.granted i ppn rest)
      have st : u.pp = ((PP.account (Work.start t.pp) (PP.granted i ppn rest)).st.onCounters fun k =>
          { k with allocations := count k.allocations 1 }) := pp.trans (congrArg Work.st e)
      obtain ⟨unused', shared'⟩ := PP.accounting_congr (p := (PP.account (Work.start t.pp) (PP.granted i ppn rest)).st)
        (q := u.pp) (by rw [st]; rfl) (by rw [st]; rfl)
      have free' : u.pp.free = (t.pp.granted i ppn rest).free := by rw [st]; exact free
      rw [free', unused', shared', unused, sharedFree]
      exact PP.granted_accounting taken shared
  · obtain ⟨rfl, -⟩ := PP.page_ppn page
    refine ⟨fun hc held => ?_, fun hc => ?_⟩
    · rcases hc with ⟨rfl, last, releasing, keep⟩ | ⟨kind, normal, rfl, unheld, allocated⟩
      · have pp := arrive_pp_st (f := fun _ => PP.holdDrop r.ppn) h hu
        rw [PP.holdDrop_last (w := Work.start t.pp) page last releasing] at pp
        rw [pp]
        exact PP.complete_freed_accounting (r := { r with holds := 0 })
          (w := (Work.start t.pp).mod fun p => p.onPage r.ppn PageRec.dropped) keep held
      · have pp := arrive_pp_st (f := fun _ => PP.handOver r.owner r.ppn kind) h hu
        rw [PP.handOver_eq (w := Work.start t.pp) page allocated rfl, if_pos unheld] at pp
        rw [pp]
        exact PP.complete_freed_accounting (r := r.handedOver kind) (w := (Work.start t.pp).mod fun p =>
          (p.onPage r.ppn fun _ => r.handedOver kind).onCounters (releaseCount kind)) (decide_eq_false normal) held
    · have same : u.pp.free = t.pp.free ∧ u.pp.quotas = t.pp.quotas := by
        rcases hc with ⟨rfl, last, releasing, recycle⟩ | ⟨kind, rfl, allocated, keeps⟩
        · have pp := arrive_pp_st (f := fun _ => PP.holdDrop r.ppn) h hu
          rw [pp, PP.holdDrop_last (w := Work.start t.pp) page last releasing]
          exact PP.complete_recycled_accounting (r := { r with holds := 0 })
            (w := (Work.start t.pp).mod fun p => p.onPage r.ppn PageRec.dropped) recycle
        · have pp := arrive_pp_st (f := fun _ => PP.handOver r.owner r.ppn kind) h hu
          rw [pp, PP.handOver_eq (w := Work.start t.pp) page allocated rfl]
          split
          · next unheld =>
            have recycle : kind = .recycle := keeps.resolve_left (by omega)
            exact PP.complete_recycled_accounting (r := r.handedOver kind) (w := (Work.start t.pp).mod fun p =>
              (p.onPage r.ppn fun _ => r.handedOver kind).onCounters (releaseCount kind)) (decide_eq_true recycle)
          · exact ⟨rfl, rfl⟩
      exact ⟨same.1, PP.accounting_congr same.1 same.2⟩

/-- Settles O22: a request by the record of its page, a hand-over by whether a hold is left. -/
theorem holdRequestAndHandOverResults : Obligations.HoldRequestAndHandOverResults := by
  refine ⟨fun i ppn b s t h => ⟨fun free => arrive_pp h (PP.holdRequest_free free), fun r page =>
    ⟨fun releasing => ?_, fun allocated other => ?_, fun allocated mine => ?_⟩⟩,
    fun i ppn kind r k s t h page allocated owner hk => ?_⟩
  · exact arrive_pp h ((PP.holdRequest_of page).trans (if_pos releasing))
  · exact arrive_pp h ((PP.holdRequest_of page).trans ((if_neg (by simp [allocated])).trans (if_neg other)))
  · have granted := (PP.holdRequest_of (i := i) (b := b) (w := Work.start t.pp) page).trans
      ((if_neg (by simp [allocated])).trans (if_pos mine))
    refine ⟨_, arrive_takes h _, State.onPp_only _ _, ?_⟩
    rw [State.onPp_eq granted]
    exact ⟨PP.onPage_self (fun _ e => e) page, fun q hq => PP.onPage_ne (fun _ => rfl) hq, rfl, rfl, rfl⟩
  · obtain ⟨rfl, -⟩ := PP.page_ppn page
    have counted : k = releaseCount kind t.pp.counters := hk.trans (releaseCount_eq kind _).symm
    have result := PP.handOver_eq (kind := kind) (w := Work.start t.pp) page allocated owner
    have marked : ((t.pp.onPage r.ppn fun _ => r.handedOver kind).onCounters (releaseCount kind)).page r.ppn =
        some (r.handedOver kind) := PP.onPage_self (f := fun _ => r.handedOver kind) (fun _ _ => rfl) page
    have others (q : Ppn) (hq : q ≠ r.ppn) := PP.handedOver_page_ne (kind := kind) t.pp hq
    subst owner counted
    by_cases held : 1 ≤ r.holds
    · have kept := result.trans (if_neg (by omega))
      refine ⟨_, arrive_takes h _, State.onPp_only _ _, ?_⟩
      rw [State.onPp_eq kept]
      exact ⟨others, fun _ => ⟨marked, rfl, rfl, rfl, List.append_nil _⟩, fun e => absurd e (by omega),
        fun e => absurd e (by omega)⟩
    · have complete := result.trans (if_pos (by omega))
      by_cases recycle : kind = .recycle
      · have recycled := complete.trans (PP.complete_recycled _ (decide_eq_true recycle))
        refine ⟨_, arrive_takes h _, State.onPp_only _ _, ?_⟩
        rw [State.onPp_eq recycled]
        exact ⟨fun q hq => (PP.recycled_page_ne _ hq).trans (others q hq), fun e => absurd e held,
          fun _ e => absurd recycle e, fun _ _ =>
          ⟨(PP.onPage_self (f := PageRec.recycled) (fun _ e => e) marked).trans rfl, rfl, rfl, rfl, rfl⟩⟩
      · have freed := complete.trans (PP.complete_freed _ (decide_eq_false recycle))
        refine ⟨_, (arrive_takes h _).trans (congrArg _ (State.onPp_accounted freed)), ?_, fun q hq => ?_,
          fun e => absurd e held, fun _ _ => ⟨?_, putFree r.ppn t.pp.free, freeList_putFree _ _, ?_⟩,
          fun _ e => absurd e recycle⟩
        · rw [← State.onPp_accounted freed]
          exact State.onPp_only _ _
        · rw [State.accounted_page]
          exact (PP.freed_page_ne (r := r.handedOver kind) _ hq).trans (others q hq)
        · rw [State.accounted_page]
          exact PP.freed_page_self (r.handedOver kind) _
        · rw [State.accounted_pages]
          rfl

end

/-! SUPPORT. The Map Unit: its events, its ring slots, the keys of its cache, and the stream-clear report (R43 to R52, R60). -/

namespace Sys2Proof.Machine

/-! ### Events whose work is known -/

/-- An event at MU whose work is known: MU takes the state that the work ends in, and its messages go out. -/
theorem State.onMu_eq {t : State} {f : Work MU → Work MU} {mu : MU} {ms : List Instr} (h : f (Work.start t.mu) = ⟨mu, ms⟩) :
    t.onMu f = ({ t with mu := mu } : State).post (.core .mu) ms := by
  simp only [State.onMu, h]

/-- An event at MU is what it makes of the MU that it finds. -/
theorem State.onMu_congr {t : State} {f g : Work MU → Work MU} (h : f (Work.start t.mu) = g (Work.start t.mu)) :
    t.onMu f = t.onMu g := by
  simp only [State.onMu, h]

/-- A command at MU whose work is known. -/
theorem arrive_mu {c : Instr} {s t : State} {f : State → Work MU → Work MU} {mu : MU} {ms : List Instr} (h : Takes c s t)
    (hf : f t (Work.start t.mu) = ⟨mu, ms⟩) :
    arrive c s (fun t => t.onMu (f t)) = .next (({ t with mu := mu } : State).post (.core .mu) ms) :=
  (arrive_takes h _).trans (congrArg _ (State.onMu_eq hf))

/-- A command at MU that sends nothing. -/
theorem arrive_mu_silent {c : Instr} {s t : State} {f : State → Work MU → Work MU} {mu : MU} (h : Takes c s t)
    (hf : f t (Work.start t.mu) = ⟨mu, []⟩) : arrive c s (fun t => t.onMu (f t)) = .next { t with mu := mu } :=
  (arrive_mu h hf).trans (congrArg Host.Outcome.next (State.post_nil _ _))

/-- A command at MU that does what another event would do there. -/
theorem arrive_mu_as {c : Instr} {s t : State} {f : State → Work MU → Work MU} {g : Work MU → Work MU} (h : Takes c s t)
    (hf : f t (Work.start t.mu) = g (Work.start t.mu)) :
    arrive c s (fun t => t.onMu (f t)) = .next (t.onMu g) :=
  (arrive_takes h _).trans (congrArg _ (State.onMu_congr hf))

theorem State.onMu_sends {t : State} {f : Work MU → Work MU} {ms : List Instr} (h : (f (Work.start t.mu)).out = ms) :
    Sends (.core .mu) t (t.onMu f) ms := by
  rw [Sends, State.onMu_wires, h]

/-! ### Ring slots and keys (R43, R50) -/

/-- The address of an LPN's ring slot (R43). -/
theorem addressOf_slot (i : StreamId) (lpn : Lpn) (ref : MpRef) (n : Nat) (data : List Byte) :
    addressOf ⟨ref, slotPage i lpn, slotOffset lpn, n, data⟩ = i.val * 16384 + lpn % 1024 * 16 := by
  change (i.val * 8 + lpn % 1024 / 128) * 2048 + lpn % 128 * 16 = _
  omega

theorem CacheLine.isFor_eq (i : StreamId) (lpn : Lpn) :
    CacheLine.isFor i lpn = fun l => decide (l.stream = i ∧ l.lpn = lpn) :=
  funext fun _ => (Bool.decide_and _ _).symm

theorem QueueEntry.isFor_eq (i : StreamId) (lpn : Lpn) :
    QueueEntry.isFor i lpn = fun e => decide (e.stream = i ∧ e.lpn = lpn) :=
  funext fun _ => (Bool.decide_and _ _).symm

theorem CacheLine.isFor_iff (i : StreamId) (lpn : Lpn) (l : CacheLine) :
    l.isFor i lpn = true ↔ l.stream = i ∧ l.lpn = lpn := by
  rw [CacheLine.isFor_eq, decide_eq_true_eq]

theorem QueueEntry.isFor_iff (i : StreamId) (lpn : Lpn) (e : QueueEntry) :
    e.isFor i lpn = true ↔ e.stream = i ∧ e.lpn = lpn := by
  rw [QueueEntry.isFor_eq, decide_eq_true_eq]

/-! ### The stream-clear report (R60) -/

/-- A walk or a map write of the stream is in flight (R60). -/
theorem MU.inFlight_iff (m : MU) (i : StreamId) : m.inFlight i = true ↔
    (∃ (w : TrackerId) (k : Tracker), m.trackers[w] = some k ∧ k.stream = i) ∨ m.writes[i] ≠ 0 := by
  simp only [MU.inFlight, Bool.or_eq_true, decide_eq_true_eq]
  refine or_congr_left ?_
  simp only [Vector.any_eq_true, Option.any_eq_true, decide_eq_true_eq]
  exact ⟨fun ⟨n, hn, k, h⟩ => ⟨⟨n, hn⟩, k, h⟩, fun ⟨w, k, h⟩ => ⟨w.val, w.isLt, k, h⟩⟩

/-- The report goes out once it is due and nothing of the stream is in flight. -/
theorem MU.reportClear_sends {i : StreamId} {w : Work MU} (due : w.st.clearDue[i] = true)
    (idle : w.st.inFlight i = false) : MU.reportClear i w =
      ⟨{ w.st with clearDue := w.st.clearDue.set i false }, w.out ++ [.streamClearReport i]⟩ := by
  refine if_pos ?_
  rw [due, idle]
  rfl

theorem MU.reportClear_waits {i : StreamId} {w : Work MU} (h : w.st.clearDue[i] = false ∨ w.st.inFlight i = true) :
    MU.reportClear i w = w := by
  refine if_neg ?_
  rw [Bool.and_eq_true, Bool.not_eq_true']
  rintro ⟨due, idle⟩
  rcases h with e | e
  · exact Bool.false_ne_true (e.symm.trans due)
  · exact Bool.false_ne_true (idle.symm.trans e)

/-- The report changes what is due, and sends itself alone. -/
theorem MU.reportClear_frame (i : StreamId) (w : Work MU) :
    ∃ d ms, MU.reportClear i w = ⟨{ w.st with clearDue := d }, w.out ++ ms⟩ := by
  unfold MU.reportClear
  split
  · exact ⟨_, _, rfl⟩
  · exact ⟨w.st.clearDue, [], Work.mk.injEq .. ▸ ⟨rfl, (List.append_nil _).symm⟩⟩

/-- MU once a map write has completed, before the report of R60 (R46). -/
def MU.written (i : StreamId) (lpn : Lpn) (rec : MapRec) (m : MU) : MU :=
  { m with
    writes := upd m.writes i (· - 1)
    cache := m.cache.map fun l => if l.isFor i lpn then { l with record := rec } else l }

/-! ### Fills of the cache (R51) -/

/-- Making an entry of a key the most recently used takes the key's entry out of its place (R49). -/
theorem MU.touch_eq {m : MU} {i : StreamId} {lpn : Lpn} {l : CacheLine} (hs : l.stream = i) (hl : l.lpn = lpn) :
    m.touch l = { m with cache := l :: m.cache.filter fun x => !decide (x.stream = i ∧ x.lpn = lpn) } := by
  subst hs hl
  rw [MU.touch, CacheLine.isFor_eq]

theorem MU.fill_replaces {m : MU} {i : StreamId} {lpn : Lpn} {l : CacheLine} (rec : MapRec) (h : m.cached i lpn = some l) :
    MU.fill i lpn rec m =
      { m with cache := { l with record := rec } :: m.cache.filter fun x => !decide (x.stream = i ∧ x.lpn = lpn) } := by
  obtain ⟨-, hs, hl⟩ := MU.cached_some h
  simp only [MU.fill, h]
  exact MU.touch_eq hs hl

theorem MU.lowestInvalid_some {m : MU} {n : Fin 32} (free : ∀ l ∈ m.cache, l.num ≠ n)
    (low : ∀ k < n, ∃ l ∈ m.cache, l.num = k) : m.lowestInvalid = some n := by
  refine find_finRange.2 ⟨by simpa using free, fun k hk => ?_⟩
  obtain ⟨l, hl, e⟩ := low k hk
  exact List.all_eq_false.2 ⟨l, hl, by simpa using e⟩

theorem MU.lowestInvalid_none {m : MU} (h : ∀ k : Fin 32, ∃ l ∈ m.cache, l.num = k) : m.lowestInvalid = none := by
  refine List.find?_eq_none.2 fun k _ => ?_
  obtain ⟨l, hl, e⟩ := h k
  rw [Bool.not_eq_true]
  exact List.all_eq_false.2 ⟨l, hl, by simpa using e⟩

theorem MU.fill_takesInvalid {m : MU} {i : StreamId} {lpn : Lpn} {n : Fin 32} (rec : MapRec) (h : m.cached i lpn = none)
    (hn : m.lowestInvalid = some n) : MU.fill i lpn rec m =
      { m with cache := ⟨n, i, lpn, rec⟩ :: m.cache
               counters := { m.counters with fills := count m.counters.fills 1 } } := by
  simp only [MU.fill, h, hn]
  rfl

theorem MU.fill_evicts {m : MU} {i : StreamId} {lpn : Lpn} {old : CacheLine} {front : List CacheLine} (rec : MapRec)
    (h : m.cached i lpn = none) (hn : m.lowestInvalid = none) (hc : m.cache = front ++ [old]) : MU.fill i lpn rec m =
      { m with cache := ⟨old.num, i, lpn, rec⟩ :: front
               counters := { m.counters with fills := count m.counters.fills 1, evictions := count m.counters.evictions 1 } } := by
  have last : m.cache.getLast? = some old := by rw [hc, List.getLast?_concat]
  have rest : m.cache.dropLast = front := by rw [hc, List.dropLast_concat]
  simp only [MU.fill, h, hn, last, rest]
  rfl

/-- A cache without a line has an invalid entry. -/
theorem MU.cache_ne_nil {m : MU} (h : m.lowestInvalid = none) : m.cache ≠ [] := by
  intro e
  simp only [MU.lowestInvalid, e] at h
  exact absurd h (by decide)

/-- After a fill the record is the most recently used entry of the cache (R51). -/
theorem MU.fill_first (i : StreamId) (lpn : Lpn) (rec : MapRec) (m : MU) :
    ∃ l rest, (MU.fill i lpn rec m).cache = l :: rest ∧ l.stream = i ∧ l.lpn = lpn ∧ l.record = rec := by
  cases hc : m.cached i lpn with
  | some l =>
    obtain ⟨-, hs, hl⟩ := MU.cached_some hc
    rw [MU.fill_replaces rec hc]
    exact ⟨_, _, rfl, hs, hl, rfl⟩
  | none =>
    cases hn : m.lowestInvalid with
    | some n =>
      rw [MU.fill_takesInvalid rec hc hn]
      exact ⟨_, _, rfl, rfl, rfl, rfl⟩
    | none =>
      rw [MU.fill_evicts rec hc hn (List.dropLast_concat_getLast (MU.cache_ne_nil hn)).symm]
      exact ⟨_, _, rfl, rfl, rfl, rfl⟩

/-- A fill changes the cache and the counters alone. -/
theorem MU.fill_frame (i : StreamId) (lpn : Lpn) (rec : MapRec) (m : MU) :
    ∃ cache counters, MU.fill i lpn rec m = { m with cache := cache, counters := counters } := by
  cases hc : m.cached i lpn with
  | some l => exact ⟨_, m.counters, MU.fill_replaces rec hc⟩
  | none =>
    cases hn : m.lowestInvalid with
    | some n => exact ⟨_, _, MU.fill_takesInvalid rec hc hn⟩
    | none => exact ⟨_, _, MU.fill_evicts rec hc hn (List.dropLast_concat_getLast (MU.cache_ne_nil hn)).symm⟩

end Sys2Proof.Machine

/-! The statement about map writes and slot clears. -/

section
open Sys2Proof Sys2Proof.Machine

/-- Settles O25: the two operations, and what their completions leave. -/
theorem mapWriteAndClearResults : Obligations.MapWriteAndClearResults := by
  refine ⟨fun i lpn rec s t h => ?_, fun i lpn rec s t h => ?_, fun i lpn s t h => ?_, fun i lpn s t h => ?_⟩
  · exact ⟨_, arrive_takes h _, State.onMu_only _ _, rfl, rfl, rfl, _, State.onMu_sends rfl, rfl, rfl, rfl,
      addressOf_slot _ _ _ _ _⟩
  · have writes : (t.mu.written i lpn rec).writes[i] = t.mu.writes[i] - 1 := upd_self _ _ _
    have flight := MU.inFlight_iff (t.mu.written i lpn rec) i
    rw [writes] at flight
    obtain ⟨d, ms, frame⟩ := MU.reportClear_frame i ⟨t.mu.written i lpn rec, []⟩
    have result : MU.mapWriteDone i lpn rec (Work.start t.mu) = MU.reportClear i ⟨t.mu.written i lpn rec, []⟩ := rfl
    have st : (t.onMu (MU.mapWriteDone i lpn rec)).mu = { t.mu.written i lpn rec with clearDue := d } :=
      congrArg Work.st (result.trans frame)
    refine ⟨_, arrive_takes h _, State.onMu_only _ _, ?_, (congrArg MU.counters st).trans rfl,
      (congrArg MU.trackers st).trans rfl, (congrArg MU.queue st).trans rfl, (congrArg MU.writes st).trans rfl,
      fun due one others => ?_, fun waits => ?_⟩
    · rw [st]
      simp only [MU.written, CacheLine.isFor_iff]
    · have idle : (t.mu.written i lpn rec).inFlight i = false := by
        rw [Bool.eq_false_iff, Ne, flight, one]
        rintro (⟨w, k, e, hk⟩ | e)
        · exact others w k e hk
        · exact e rfl
      have sent := result.trans (MU.reportClear_sends (w := ⟨t.mu.written i lpn rec, []⟩) due idle)
      exact ⟨congrArg (fun w => w.st.clearDue) sent, State.onMu_sends (congrArg Work.out sent)⟩
    · have kept := result.trans (MU.reportClear_waits (w := ⟨t.mu.written i lpn rec, []⟩) (by
        rcases waits with e | e | e
        · exact .inl e
        · exact .inr (flight.2 (.inr (by omega)))
        · exact .inr (flight.2 (.inl e))))
      refine ⟨congrArg (fun w => w.st.clearDue) kept, ?_⟩
      exact (State.onMu_sends (congrArg Work.out kept)).trans (List.append_nil _)
  · exact ⟨_, arrive_takes h _, State.onMu_only _ _, rfl, rfl, _, State.onMu_sends rfl, rfl, rfl, rfl,
      addressOf_slot _ _ _ _ _⟩
  · refine ⟨_, arrive_takes h _, State.onMu_only _ _, ?_, rfl, rfl, State.onMu_sends rfl⟩
    exact congrArg (fun p : CacheLine → Bool => t.mu.cache.filter fun l => !p l) (CacheLine.isFor_eq i lpn)

end

/-! SUPPORT. The Map Unit: where a lookup goes, what resolves a queue entry, and the completion of a walk (R48 to R55). -/

namespace Sys2Proof.Machine

/-! ### Places (R48) -/

theorem placeOf_gone {i : RangeInfo} {lpn : Lpn} (h : i.state = .absent ∨ i.state = .deleting) : placeOf i lpn = .gone := by
  unfold placeOf
  rcases h with e | e <;> rw [e] <;> rfl

/-- An OPEN or SEALED stream's places are those of its range. -/
theorem placeOf_present {i : RangeInfo} {lpn : Lpn} (h : i.state = .opened ∨ i.state = .sealed) : placeOf i lpn =
    match i.head, i.tail, i.tailRec with
    | some h, some t, some rec =>
      if lpn < h || t < lpn then .notHeld else if lpn = t then .tail rec else .closed
    | _, _, _ => .notHeld := by
  unfold placeOf
  rcases h with e | e <;> rw [e] <;> rfl

theorem placeOf_noPage {i : RangeInfo} {lpn : Lpn} (h : i.state = .opened ∨ i.state = .sealed)
    (none : i.head = none ∨ i.tail = none ∨ i.tailRec = none) : placeOf i lpn = .notHeld := by
  rw [placeOf_present h]
  rcases none with e | e | e
  · rw [e]
  · rw [e]
    cases i.head <;> rfl
  · rw [e]
    cases i.head <;> cases i.tail <;> rfl

section Range

variable {i : RangeInfo} {lpn h k : Lpn} {rec : MapRec}

/-- The places of a range that holds pages. -/
theorem placeOf_range (hs : i.state = .opened ∨ i.state = .sealed) (hh : i.head = some h) (ht : i.tail = some k)
    (hr : i.tailRec = some rec) : placeOf i lpn =
      if lpn < h ∨ k < lpn then .notHeld else if lpn = k then .tail rec else .closed := by
  rw [placeOf_present hs, hh, ht, hr]
  simp only [Bool.or_eq_true, decide_eq_true_eq]

theorem placeOf_outside (hs : i.state = .opened ∨ i.state = .sealed) (hh : i.head = some h) (ht : i.tail = some k)
    (hr : i.tailRec = some rec) (out : lpn < h ∨ k < lpn) : placeOf i lpn = .notHeld := by
  rw [placeOf_range hs hh ht hr, if_pos out]

theorem placeOf_tail (hs : i.state = .opened ∨ i.state = .sealed) (hh : i.head = some h) (ht : i.tail = some k)
    (hr : i.tailRec = some rec) (low : h ≤ lpn) (last : lpn = k) : placeOf i lpn = .tail rec := by
  subst last
  rw [placeOf_range hs hh ht hr, if_neg (not_or.2 ⟨Nat.not_lt.2 low, Nat.lt_irrefl _⟩), if_pos rfl]

theorem placeOf_closed (hs : i.state = .opened ∨ i.state = .sealed) (hh : i.head = some h) (ht : i.tail = some k)
    (hr : i.tailRec = some rec) (low : h ≤ lpn) (high : lpn < k) : placeOf i lpn = .closed := by
  rw [placeOf_range hs hh ht hr, if_neg (not_or.2 ⟨Nat.not_lt.2 low, Nat.not_lt.2 (Nat.le_of_lt high)⟩),
    if_neg (Nat.ne_of_lt high)]

/-- From the head to the tail a page is held. -/
theorem placeOf_held (hs : i.state = .opened ∨ i.state = .sealed) (hh : i.head = some h) (ht : i.tail = some k)
    (hr : i.tailRec = some rec) (low : h ≤ lpn) (high : lpn ≤ k) :
    placeOf i lpn = .tail rec ∨ placeOf i lpn = .closed :=
  (Nat.eq_or_lt_of_le high).imp (placeOf_tail hs hh ht hr low) (placeOf_closed hs hh ht hr low)

end Range

/-! ### Range answers of lookups (R48, R49) -/

theorem MU.asked_iff (m : MU) (i : StreamId) (lpn : Lpn) (r : Looker) : m.asked i lpn r = true ↔
    (∃ b, r = .delivery b) ∨ ∃ q x, r = .probe q ∧ m.search q = some x ∧ x.stream = i ∧ x.probe = some lpn := by
  cases r with
  | delivery b => simp [MU.asked]
  | probe q => simp [MU.asked, Option.any_eq_true]

section Lookup

variable {i : StreamId} {lpn : Lpn} {r : Looker} {info : RangeInfo} {w : Work MU}

theorem MU.lookupRange_withdrawn (h : w.st.asked i lpn r = false) : MU.lookupRange i lpn r info w = w := by
  rw [MU.lookupRange, h]
  rfl

theorem MU.lookupRange_asked (h : w.st.asked i lpn r = true) : MU.lookupRange i lpn r info w =
    match placeOf info lpn with
    | .gone => MU.tell i lpn .gone r w
    | .notHeld => MU.tell i lpn .notHeld r w
    | .tail rec =>
      MU.tell i lpn (.found lpn rec) r <| w.mod fun m =>
        m.onCounters fun c => { c with tailAnswers := count c.tailAnswers 1 }
    | .closed => MU.resolve i lpn r w := by
  rw [MU.lookupRange, h]
  rfl

/-- A hit of the cache (R49). -/
theorem MU.resolve_hit {l : CacheLine} (h : w.st.cached i lpn = some l) : MU.resolve i lpn r w =
    MU.tell i lpn (.found lpn l.record) r (w.mod fun m => { m with
      cache := l :: m.cache.filter fun x => !decide (x.stream = i ∧ x.lpn = lpn)
      counters := { m.counters with hits := count m.counters.hits 1 } }) := by
  obtain ⟨-, hs, hl⟩ := MU.cached_some h
  simp only [MU.resolve, h, MU.touch_eq hs hl]
  rfl

/-- A miss that finds its key's walk joins it (R49). -/
theorem MU.resolve_joinsWalk {t : TrackerId} (h : w.st.cached i lpn = none) (hw : w.st.walking i lpn = some t) :
    MU.resolve i lpn r w = w.mod fun m =>
      { MU.merge m with
        trackers := upd m.trackers t fun k => k.map fun k => { k with waiters := k.waiters ++ [r] } } := by
  simp only [MU.resolve, h, hw]

/-- A miss that finds its key in the queue joins it (R49). -/
theorem MU.resolve_joinsEntry (h : w.st.cached i lpn = none) (hw : w.st.walking i lpn = none)
    (hq : ∃ e ∈ w.st.queue, e.stream = i ∧ e.lpn = lpn) : MU.resolve i lpn r w = w.mod fun m =>
      { MU.merge m with queue := m.queue.map fun e =>
          if e.stream = i ∧ e.lpn = lpn then { e with waiters := e.waiters ++ [r] } else e } := by
  have found : w.st.queue.any (QueueEntry.isFor i lpn) = true := by
    obtain ⟨e, he, key⟩ := hq
    exact List.any_eq_true.2 ⟨e, he, (QueueEntry.isFor_iff _ _ _).2 key⟩
  simp only [MU.resolve, h, hw, found, if_true, MU.onEntry, QueueEntry.isFor_iff]
  rfl

/-- A miss of a key that nothing is under way for (R49). -/
theorem MU.resolve_new (h : w.st.cached i lpn = none) (hw : w.st.walking i lpn = none)
    (hq : ∀ e ∈ w.st.queue, e.stream ≠ i ∨ e.lpn ≠ lpn) : MU.resolve i lpn r w =
      match w.st.idleTracker with
      | some t => MU.walk t i lpn [r] (w.mod MU.miss)
      | none =>
        if w.st.queue.length < 8 then
          w.mod fun m => { m.miss with queue := m.queue ++ [⟨i, lpn, [r], false, none⟩] }
        else MU.noPlace r (w.mod MU.miss) := by
  simp only [MU.resolve, h, hw, queue_any_isFor hq, Bool.false_eq_true, if_false] <;> rfl

end Lookup

/-! ### Queue entries (R55, R56) -/

section Queue

variable {i : StreamId} {lpn : Lpn} {info : RangeInfo} {e : QueueEntry} {rest : List QueueEntry} {w : Work MU}

/-- A range answer that no entry of its key waits for is ignored. -/
theorem MU.queuedRange_unasked (h : ∀ e ∈ w.st.queue, e.stream = i → e.lpn = lpn → e.asking = false) :
    MU.queuedRange i lpn info w = w := by
  refine if_neg ?_
  rw [Bool.not_eq_true, List.any_eq_false]
  intro e he asked
  rw [Bool.and_eq_true, QueueEntry.isFor_iff] at asked
  exact Bool.false_ne_true ((h e he asked.1.1 asked.1.2).symm.trans asked.2)

/-- A range answer is kept at its entry, and what then stands at the front is resolved (R56). -/
theorem MU.queuedRange_asked {ahead : List QueueEntry} (hq : w.st.queue = ahead ++ e :: rest) (hs : e.stream = i) (hl : e.lpn = lpn)
    (ha : e.asking = true) (others : ∀ x ∈ ahead ++ rest, x.stream ≠ i ∨ x.lpn ≠ lpn) : MU.queuedRange i lpn info w =
      MU.advanceQueue (w.mod fun m => { m with queue := ahead ++ { e with answer := some info } :: rest }) := by
  have key := (QueueEntry.isFor_iff i lpn e).2 ⟨hs, hl⟩
  have asked : (w.st.queue.any fun e => e.isFor i lpn && e.asking) = true := by
    rw [hq, List.any_append, List.any_cons, key, ha, Bool.and_self, Bool.true_or, Bool.or_true]
  have kept : (w.st.queue.map fun x => if x.isFor i lpn then { x with answer := some info } else x) =
      ahead ++ { e with answer := some info } :: rest := by
    rw [hq, List.map_append, List.map_cons, if_pos key,
      queue_map_isFor _ fun x hx => others x (List.mem_append_left _ hx),
      queue_map_isFor _ fun x hx => others x (List.mem_append_right _ hx)]
  rw [MU.queuedRange, asked, if_pos rfl]
  exact congrArg (fun q => MU.advanceQueue (w.mod fun m => { m with queue := q })) kept

/-- An entry at the front with its answer is resolved, and what stands behind it next. -/
theorem MU.resolveFront_next {n : Nat} (hq : w.st.queue = e :: rest) (ha : e.answer = some info) :
    MU.resolveFront (n + 1) w = MU.resolveFront n (MU.resolveEntry e info w) := by
  rw [MU.resolveFront, hq]
  simp only [ha]

theorem MU.resolveFront_waits {n : Nat} (hq : w.st.queue = e :: rest) (ha : e.answer = none) :
    MU.resolveFront (n + 1) w = w := by
  rw [MU.resolveFront, hq]
  simp only [ha]

/-- A queue without the key of its first entry behind that. -/
theorem queue_filter_isFor (he : e.stream = i ∧ e.lpn = lpn) (others : ∀ x ∈ rest, x.stream ≠ i ∨ x.lpn ≠ lpn) :
    ((e :: rest).filter fun x => !x.isFor i lpn) = rest := by
  rw [List.filter_cons_of_neg (by rw [(QueueEntry.isFor_iff i lpn e).2 he]; exact Bool.false_ne_true), List.filter_eq_self]
  intro x hx
  rw [Bool.not_eq_true', Bool.eq_false_iff, Ne, QueueEntry.isFor_iff]
  rintro ⟨hs, hl⟩
  exact (others x hx).elim (· hs) (· hl)

/-- The front entry of the queue, by where its range answer places its LPN (R55). -/
theorem MU.resolveEntry_front (hq : w.st.queue = e :: rest) (others : ∀ x ∈ rest, x.stream ≠ e.stream ∨ x.lpn ≠ e.lpn) :
    MU.resolveEntry e info w =
      match placeOf info e.lpn with
      | .gone => MU.tellAll e.stream e.lpn .gone e.waiters (w.mod fun m => { m with queue := rest })
      | .notHeld => MU.tellAll e.stream e.lpn .notHeld e.waiters (w.mod fun m => { m with queue := rest })
      | .tail _ | .closed =>
        match w.st.cached e.stream e.lpn with
        | some l =>
          MU.tellAll e.stream e.lpn (.found e.lpn l.record) e.waiters (w.mod fun m => { m with
            queue := rest
            cache := l :: m.cache.filter fun x => !decide (x.stream = e.stream ∧ x.lpn = e.lpn)
            counters := { m.counters with hits := count m.counters.hits e.waiters.length } })
        | none =>
          match w.st.idleTracker with
          | some t => MU.walk t e.stream e.lpn e.waiters (w.mod fun m => { m with queue := rest })
          | none => w.mod fun m => { m with queue := { e with asking := false, answer := none } :: rest } := by
  have left : (w.mod fun m => m.leave e.stream e.lpn) = w.mod fun m => { m with queue := rest } := by
    rw [Work.mod, Work.mod, MU.leave, hq, queue_filter_isFor ⟨rfl, rfl⟩ others]
  have reset : (w.mod fun m => m.onEntry e.stream e.lpn fun e => { e with asking := false, answer := none }) =
      w.mod fun m => { m with queue := { e with asking := false, answer := none } :: rest } := by
    rw [Work.mod, Work.mod, MU.onEntry, hq, List.map_cons, queue_map_isFor _ others,
      if_pos ((QueueEntry.isFor_iff _ _ _).2 ⟨rfl, rfl⟩)]
  unfold MU.resolveEntry
  simp only [left, reset]
  cases placeOf info e.lpn with
  | gone => rfl
  | notHeld => rfl
  | tail rec | closed =>
    dsimp only
    cases hc : w.st.cached e.stream e.lpn with
    | some l =>
      obtain ⟨-, hs, hl⟩ := MU.cached_some hc
      dsimp only
      simp only [MU.touch_eq hs hl]
      rfl
    | none => rfl

section Held

variable {rec : MapRec} (hq : w.st.queue = e :: rest) (others : ∀ x ∈ rest, x.stream ≠ e.stream ∨ x.lpn ≠ e.lpn)
  (place : placeOf info e.lpn = .tail rec ∨ placeOf info e.lpn = .closed)

include hq others place

theorem MU.resolveEntry_hit {l : CacheLine} (hit : w.st.cached e.stream e.lpn = some l) : MU.resolveEntry e info w =
    MU.tellAll e.stream e.lpn (.found e.lpn l.record) e.waiters (w.mod fun m => { m with
      queue := rest
      cache := l :: m.cache.filter fun x => !decide (x.stream = e.stream ∧ x.lpn = e.lpn)
      counters := { m.counters with hits := count m.counters.hits e.waiters.length } }) := by
  rw [MU.resolveEntry_front hq others]
  rcases place with p | p <;> rw [p, hit]

theorem MU.resolveEntry_walks {t : TrackerId} (miss : w.st.cached e.stream e.lpn = none)
    (free : w.st.idleTracker = some t) : MU.resolveEntry e info w =
      MU.walk t e.stream e.lpn e.waiters (w.mod fun m => { m with queue := rest }) := by
  rw [MU.resolveEntry_front hq others]
  rcases place with p | p <;> rw [p, miss, free]

theorem MU.resolveEntry_busy (miss : w.st.cached e.stream e.lpn = none) (busy : w.st.idleTracker = none) :
    MU.resolveEntry e info w =
      w.mod fun m => { m with queue := { e with asking := false, answer := none } :: rest } := by
  rw [MU.resolveEntry_front hq others]
  rcases place with p | p <;> rw [p, miss, busy]

end Held

/-- What the front entry leaves of the queue: the entries behind it, or itself without an answer ahead of these. -/
theorem MU.resolveEntry_queue (hq : w.st.queue = e :: rest) (others : ∀ x ∈ rest, x.stream ≠ e.stream ∨ x.lpn ≠ e.lpn) :
    (MU.resolveEntry e info w).st.queue = rest ∨
      (MU.resolveEntry e info w).st.queue = { e with asking := false, answer := none } :: rest := by
  rw [MU.resolveEntry_front hq others]
  cases placeOf info e.lpn with
  | gone | notHeld => exact .inl (MU.tellAll_queue _ _ _ _ _)
  | tail rec | closed =>
    dsimp only
    cases w.st.cached e.stream e.lpn with
    | some l => exact .inl (MU.tellAll_queue _ _ _ _ _)
    | none =>
      dsimp only
      cases w.st.idleTracker with
      | some t => exact .inl rfl
      | none => exact .inr rfl

/-- The front entry is resolved alone where no entry behind it has its answer (R56). -/
theorem MU.advanceQueue_front (hq : w.st.queue = e :: rest) (ha : e.answer = some info)
    (others : ∀ x ∈ rest, (x.stream ≠ e.stream ∨ x.lpn ≠ e.lpn) ∧ x.answer = none) :
    MU.advanceQueue w = MU.resolveEntry e info w := by
  rw [MU.advanceQueue, hq, List.length_cons, MU.resolveFront_next hq ha, MU.resolveFront_stops]
  rcases MU.resolveEntry_queue (info := info) hq fun x hx => (others x hx).1 with q | q <;> rw [q]
  · exact fun x hx => (others x hx).2
  · rintro x (_ | ⟨_, hx⟩)
    · rfl
    · exact (others x hx).2

end Queue

end Sys2Proof.Machine

/-! SUPPORT. The Map Unit: what answers to lookups leave, and the completion of a walk (R55). -/

namespace Sys2Proof.Machine

/-! ### What the answers to lookups leave -/

/-- The work goes on with messages and with the searches, those that wait for a place, and the counters alone. -/
def Work.Answers (w w' : Work MU) : Prop :=
  ∃ searches waiting counters more,
    w' = ⟨{ w.st with searches := searches, waiting := waiting, counters := counters }, w.out ++ more⟩

theorem Work.Answers.refl (w : Work MU) : w.Answers w :=
  ⟨w.st.searches, w.st.waiting, w.st.counters, [], Work.mk.injEq .. ▸ ⟨rfl, (List.append_nil _).symm⟩⟩

theorem Work.Answers.trans {a b c : Work MU} (h : a.Answers b) (g : b.Answers c) : a.Answers c := by
  obtain ⟨s, wt, k, ms, rfl⟩ := h
  obtain ⟨s', wt', k', ms', rfl⟩ := g
  exact ⟨s', wt', k', ms ++ ms', Work.mk.injEq .. ▸ ⟨rfl, List.append_assoc _ _ _⟩⟩

/-- One message, and a change of the searches, of those that wait, or of the counters. -/
theorem Work.Answers.send (w : Work MU) (s : List Search) (wt : List Searcher) (k : MapCounters) (m : Instr) :
    w.Answers ⟨{ w.st with searches := s, waiting := wt, counters := k }, w.out ++ [m]⟩ := ⟨s, wt, k, [m], rfl⟩

theorem MU.finish_answers (r : Searcher) (a : MapAnswer) (w : Work MU) : w.Answers (MU.finish r a w) := ⟨_, _, _, _, rfl⟩

theorem MU.probe_answers (r : Searcher) (i : StreamId) (lpn : Lpn) (w : Work MU) : w.Answers (MU.probe r i lpn w) :=
  ⟨_, _, _, _, rfl⟩

theorem MU.halve_answers (x : Search) (w : Work MU) : w.Answers (MU.halve x w) := by
  unfold MU.halve
  split
  · exact ⟨_, _, _, _, rfl⟩
  · split
    · exact MU.finish_answers _ _ _
    · exact MU.finish_answers _ _ _

theorem MU.probed_answers (r : Searcher) (i : StreamId) (lpn : Lpn) (a : MapAnswer) (w : Work MU) :
    w.Answers (MU.probed r i lpn a w) := by
  unfold MU.probed
  split
  · exact .refl w
  · split
    · split
      · exact MU.halve_answers _ _
      · exact MU.finish_answers _ _ _
      · exact ⟨_, _, _, _, rfl⟩
    · exact .refl w

theorem MU.tell_answers (i : StreamId) (lpn : Lpn) (a : MapAnswer) (r : Looker) (w : Work MU) :
    w.Answers (MU.tell i lpn a r w) := by
  cases r with
  | delivery b => exact ⟨_, _, _, _, rfl⟩
  | probe q => exact MU.probed_answers q i lpn a w

theorem MU.tellAll_answers (i : StreamId) (lpn : Lpn) (a : MapAnswer) (rs : List Looker) (w : Work MU) :
    w.Answers (MU.tellAll i lpn a rs w) := by
  induction rs generalizing w with
  | nil => exact .refl w
  | cons r rs ih => exact (MU.tell_answers i lpn a r w).trans (ih _)

/-! ### The steps behind a walk's completion (R55) -/

theorem MU.payRetry_eq (w : Work MU) :
    MU.payRetry w = ⟨{ w.st with owed := false }, w.out ++ if w.st.owed then [.trackerFreeReport] else []⟩ := by
  unfold MU.payRetry
  cases h : w.st.owed with
  | true => rfl
  | false =>
    refine Work.mk.injEq .. ▸ ⟨?_, (List.append_nil _).symm⟩
    rw [← h]

/-- The range question of the first queue entry that is not yet taken. -/
def MU.nextQuestion (m : MU) : List Instr :=
  match m.queue.find? fun e => !e.asking with
  | some e => [.rangeQuestion e.stream (.queued e.lpn)]
  | none => []

theorem MU.askNext_eq (w : Work MU) :
    ∃ queue, MU.askNext w = ⟨{ w.st with queue := queue }, w.out ++ w.st.nextQuestion⟩ := by
  unfold MU.askNext MU.nextQuestion
  cases w.st.queue.find? fun e => !e.asking with
  | none => exact ⟨w.st.queue, Work.mk.injEq .. ▸ ⟨rfl, (List.append_nil _).symm⟩⟩
  | some e => exact ⟨_, rfl⟩

/-- The probe that a search offers again (R59). -/
def MU.probeAgain (search : Searcher → Option Search) (q : Searcher) : Option Instr :=
  (search q).bind fun x => x.probe.map fun lpn => .rangeQuestion x.stream (.lookup lpn (.probe q))

/-- The search that a change leaves a requester. -/
theorem MU.search_onSearch {m : MU} {r q : Searcher} {f : Search → Search} (hf : ∀ x, (f x).who = x.who) :
    (m.onSearch r f).search q = (m.search q).map fun x => if q = r then f x else x := by
  have who : ((fun x : Search => x.who == q) ∘ fun x => if x.who = r then f x else x) = fun x => x.who == q := by
    funext x
    dsimp only [Function.comp]
    split
    · rw [hf]
    · rfl
  rw [MU.search, MU.onSearch, List.find?_map, who, ← MU.search]
  cases h : m.search q with
  | none => rfl
  | some x =>
    have e : x.who = q := by simpa using List.find?_some h
    simp only [Option.map_some, e]

/-- A search that has no probe out offers none again. -/
theorem MU.retryProbe_idle {w : Work MU} {q : Searcher} (h : ∀ x, w.st.search q = some x → x.probe = none) :
    MU.retryProbe w q = w ∧ MU.probeAgain w.st.search q = none := by
  unfold MU.retryProbe MU.probeAgain
  cases hx : w.st.search q with
  | none => exact ⟨rfl, rfl⟩
  | some x =>
    dsimp only [Option.bind_some]
    rw [h x hx]
    exact ⟨rfl, rfl⟩

/-- A probe that is offered again leaves its search as it is (R59). -/
theorem MU.search_probeAgain {m : MU} {q : Searcher} {x : Search} {lpn : Lpn} (hx : m.search q = some x)
    (hp : x.probe = some lpn) : (m.onSearch q fun x => { x with probe := some lpn }).search = m.search := by
  funext r
  rw [MU.search_onSearch (f := fun x => { x with probe := some lpn }) fun _ => rfl]
  by_cases e : r = q
  · rw [e, hx, Option.map_some, if_pos rfl, ← hp]
  · simp only [if_neg e, Option.map_id']

/-- A probe that is offered again leaves every requester's search, and asks SD for the range again (R59). -/
theorem MU.retryProbe_eq (w : Work MU) (q : Searcher) : ∃ searches counters, MU.retryProbe w q =
      ⟨{ w.st with searches := searches, counters := counters }, w.out ++ (MU.probeAgain w.st.search q).toList⟩ ∧
    (MU.retryProbe w q).st.search = w.st.search := by
  by_cases probing : ∃ x lpn, w.st.search q = some x ∧ x.probe = some lpn
  · obtain ⟨x, lpn, hx, hp⟩ := probing
    have probes : MU.retryProbe w q = MU.probe q x.stream lpn w := by simp only [MU.retryProbe, hx, hp]
    have again : MU.probeAgain w.st.search q = some (.rangeQuestion x.stream (.lookup lpn (.probe q))) := by
      rw [MU.probeAgain, hx, Option.bind_some, hp, Option.map_some]
    rw [probes, again]
    exact ⟨_, _, rfl, MU.search_probeAgain hx hp⟩
  · obtain ⟨idle, none⟩ := MU.retryProbe_idle (w := w) (q := q) fun x hx => by
      cases hp : x.probe with
      | none => rfl
      | some lpn => exact absurd ⟨x, lpn, hx, hp⟩ probing
    rw [idle, none]
    exact ⟨w.st.searches, w.st.counters, Work.mk.injEq .. ▸ ⟨rfl, (List.append_nil _).symm⟩, rfl⟩

/-- The probes that wait for a place are offered again in their order (R55, R59). -/
theorem MU.retryAll_eq (qs : List Searcher) (w : Work MU) : ∃ searches counters, qs.foldl MU.retryProbe w =
    ⟨{ w.st with searches := searches, counters := counters }, w.out ++ qs.filterMap (MU.probeAgain w.st.search)⟩ := by
  induction qs generalizing w with
  | nil => exact ⟨w.st.searches, w.st.counters, Work.mk.injEq .. ▸ ⟨rfl, (List.append_nil _).symm⟩⟩
  | cons q qs ih =>
    obtain ⟨s, k, e, kept⟩ := MU.retryProbe_eq w q
    obtain ⟨s', k', e'⟩ := ih (MU.retryProbe w q)
    refine ⟨s', k', ?_⟩
    rw [List.foldl_cons, e', kept, e]
    refine Work.mk.injEq .. ▸ ⟨rfl, ?_⟩
    rw [List.append_assoc]
    refine congrArg (w.out ++ ·) ?_
    cases h : MU.probeAgain w.st.search q with
    | none => rw [List.filterMap_cons_none h]; rfl
    | some m => rw [List.filterMap_cons_some h]; rfl

theorem MU.retryWaiting_eq (w : Work MU) : ∃ searches counters, MU.retryWaiting w =
    ⟨{ w.st with waiting := [], searches := searches, counters := counters },
      w.out ++ w.st.waiting.filterMap (MU.probeAgain w.st.search)⟩ :=
  MU.retryAll_eq w.st.waiting (w.mod fun m => { m with waiting := [] })

/-! ### A walk completes (R51, R55) -/

/-- What a walk's completion tells its waiters (R55). -/
def walkAnswer (lpn : Lpn) (bytes : List Byte) : MapAnswer :=
  if (slotRecord bytes).ppn ≠ 0 then .found lpn (slotRecord bytes) else .notHeld

/-- The messages of a walk's completion ahead of the stream-clear report: the answers, the tracker-free report owed, the next
queue entry's range question, and the probes that wait (R55). -/
def walkMessages (m : MU) (v : Work MU) : List Instr :=
  v.out ++ (if m.owed then [.trackerFreeReport] else []) ++ m.nextQuestion ++
    v.st.waiting.filterMap (MU.probeAgain v.st.search)

theorem walkMessages_first {m : MU} {v : Work MU} {first more : List Instr} (h : v.out = first ++ more) :
    ∃ more', walkMessages m v = first ++ more' := by
  simp only [walkMessages, h, List.append_assoc]
  exact ⟨_, rfl⟩

/-- MU once a walk is complete, before the stream-clear report that may be due: the waiters are answered, the cache is filled unless
the walk was marked, and the tracker is IDLE. -/
theorem MU.walkDone_eq {t : TrackerId} {bytes : List Byte} {k : Tracker} {m : MU} (h : m.trackers[t] = some k) :
    ∃ cache queue searches counters,
      MU.walkDone t bytes (Work.start m) = MU.reportClear k.stream
        ⟨{ m with cache := cache, queue := queue, searches := searches, counters := counters, waiting := [], owed := false
                  trackers := m.trackers.set t none },
          walkMessages m (MU.tellAll k.stream k.lpn (walkAnswer k.lpn bytes) k.waiters (Work.start m))⟩ ∧
      ((slotRecord bytes).ppn ≠ 0 → k.noFill = false → ∃ l rest, cache = l :: rest ∧ l.stream = k.stream ∧ l.lpn = k.lpn ∧
        l.record = slotRecord bytes) ∧
      ((slotRecord bytes).ppn = 0 ∨ k.noFill = true → cache = m.cache) := by
  obtain ⟨s, wt, c, out, told⟩ := MU.tellAll_answers k.stream k.lpn (walkAnswer k.lpn bytes) k.waiters (Work.start m)
  have filled : ∃ cache counters, (if (decide ((slotRecord bytes).ppn ≠ 0) && !k.noFill) = true
        then (MU.tellAll k.stream k.lpn (walkAnswer k.lpn bytes) k.waiters (Work.start m)).mod
          (MU.fill k.stream k.lpn (slotRecord bytes))
        else MU.tellAll k.stream k.lpn (walkAnswer k.lpn bytes) k.waiters (Work.start m)) =
          ⟨{ m with cache := cache, searches := s, waiting := wt, counters := counters }, out⟩ ∧
      ((slotRecord bytes).ppn ≠ 0 → k.noFill = false → ∃ l rest, cache = l :: rest ∧ l.stream = k.stream ∧ l.lpn = k.lpn ∧
        l.record = slotRecord bytes) ∧
      ((slotRecord bytes).ppn = 0 ∨ k.noFill = true → cache = m.cache) := by
    rw [told]
    by_cases fills : (slotRecord bytes).ppn ≠ 0 ∧ k.noFill = false
    · obtain ⟨cache, counters, e⟩ := MU.fill_frame k.stream k.lpn (slotRecord bytes)
        { m with searches := s, waiting := wt, counters := c }
      have first := MU.fill_first k.stream k.lpn (slotRecord bytes) { m with searches := s, waiting := wt, counters := c }
      rw [e] at first
      refine ⟨cache, counters, ?_, fun _ _ => first, fun n => ?_⟩
      · rw [if_pos (by simp [fills])]
        exact congrArg (Work.mk · out) e
      · rcases n with n | n
        · exact absurd n fills.1
        · exact absurd (fills.2.symm.trans n) Bool.false_ne_true
    · refine ⟨m.cache, c, if_neg ?_, fun held unmarked => absurd ⟨held, unmarked⟩ fills, fun _ => rfl⟩
      rwa [Bool.and_eq_true, Bool.not_eq_true', decide_eq_true_eq]
  obtain ⟨cache, counters, e, first, kept⟩ := filled
  obtain ⟨queue, asks⟩ := MU.askNext_eq ⟨{ m with
    cache := cache, searches := s, waiting := wt, counters := counters, trackers := m.trackers.set t none, owed := false },
    out ++ if m.owed then [.trackerFreeReport] else []⟩
  obtain ⟨s', c', retries⟩ := MU.retryWaiting_eq ⟨{ m with
    cache := cache, searches := s, waiting := wt, counters := counters, trackers := m.trackers.set t none, owed := false
    queue := queue }, (out ++ if m.owed then [.trackerFreeReport] else []) ++ m.nextQuestion⟩
  refine ⟨cache, queue, s', c', ?_, first, kept⟩
  unfold MU.walkDone
  rw [Work.start_st, h]
  dsimp only
  rw [← walkAnswer, e, MU.payRetry_eq, walkMessages, told]
  exact congrArg (MU.reportClear k.stream) ((congrArg MU.retryWaiting asks).trans retries)

/-- A tracker that is set IDLE is at work for no stream. -/
theorem MU.inFlight_idle {m : MU} {t : TrackerId} {i : StreamId} (writes : m.writes[i] = 0)
    (others : ∀ j x, j ≠ t → m.trackers[j] = some x → x.stream ≠ i) (m' : MU) (hw : m'.writes = m.writes)
    (ht : m'.trackers = m.trackers.set t none) : m'.inFlight i = false := by
  rw [Bool.eq_false_iff, Ne, MU.inFlight_iff, hw, ht, writes]
  rintro (⟨j, x, e, hx⟩ | e)
  · by_cases hj : j = t
    · subst hj
      rw [set_self] at e
      cases e
    · rw [set_ne _ _ hj] at e
      exact others j x hj e hx
  · exact e rfl

/-- A delivery buffer that waits first is answered first (R55). -/
theorem MU.tellAll_first (i : StreamId) (lpn : Lpn) (a : MapAnswer) (b : BufId) (rest : List Looker) (m : MU) :
    ∃ more, (MU.tellAll i lpn a (.delivery b :: rest) (Work.start m)).out = [.lookupAnswer b a] ++ more := by
  obtain ⟨s, w, c, more, e⟩ := MU.tellAll_answers i lpn a rest (MU.tell i lpn a (.delivery b) (Work.start m))
  exact ⟨more, congrArg Work.out e⟩

/-! ### Lookups that begin a walk or find no place (R49) -/

theorem MU.resolve_walks {i : StreamId} {lpn : Lpn} {r : Looker} {w : Work MU} {t : TrackerId}
    (h : w.st.cached i lpn = none) (hw : w.st.walking i lpn = none) (hq : ∀ e ∈ w.st.queue, e.stream ≠ i ∨ e.lpn ≠ lpn)
    (ht : w.st.idleTracker = some t) : MU.resolve i lpn r w = MU.walk t i lpn [r] (w.mod MU.miss) := by
  rw [MU.resolve_new h hw hq, ht]

theorem MU.resolve_queues {i : StreamId} {lpn : Lpn} {r : Looker} {w : Work MU}
    (h : w.st.cached i lpn = none) (hw : w.st.walking i lpn = none) (hq : ∀ e ∈ w.st.queue, e.stream ≠ i ∨ e.lpn ≠ lpn)
    (ht : w.st.idleTracker = none) (room : w.st.queue.length < 8) : MU.resolve i lpn r w =
      w.mod fun m => { m.miss with queue := m.queue ++ [⟨i, lpn, [r], false, none⟩] } := by
  rw [MU.resolve_new h hw hq, ht]
  exact if_pos room

theorem MU.resolve_noPlace {i : StreamId} {lpn : Lpn} {r : Looker} {w : Work MU}
    (h : w.st.cached i lpn = none) (hw : w.st.walking i lpn = none) (hq : ∀ e ∈ w.st.queue, e.stream ≠ i ∨ e.lpn ≠ lpn)
    (ht : w.st.idleTracker = none) (full : 8 ≤ w.st.queue.length) :
    MU.resolve i lpn r w = MU.noPlace r (w.mod MU.miss) := by
  rw [MU.resolve_new h hw hq, ht]
  exact if_neg (Nat.not_lt.2 full)

end Sys2Proof.Machine

/-! The statement about lookups by LPN. -/

section
open Sys2Proof Sys2Proof.Machine

/-- Settles O26: a lookup's range answer by the place that it gives, a queue entry's by where it stands, a walk's completion by its
steps in their order, a fill by what the cache holds. -/
theorem lookupResults : Obligations.LookupResults := by
  refine ⟨⟨fun i lpn r s t h => arrive_mu h rfl, fun i lpn a w => ⟨fun b => rfl, fun q => rfl, fun rs => rfl⟩,
    fun i lpn q info s t h ended => ?_, fun i lpn r info s t h waits => ?_,
    fun i lpn info e ahead rest s t h hq hs hl asking others => ?_,
    fun i j lpn a info e x rest s t h hq hs hl asking hx answered hj others gone gone' => ?_,
    fun i lpn info s t h unasked => arrive_mu_silent h (MU.queuedRange_unasked unasked)⟩,
    fun w bytes k v s t h hk hv => ?_, fun i lpn rec m => ⟨fun l => MU.fill_replaces rec, fun absent => ⟨?_, ?_⟩⟩⟩
  · refine arrive_mu_silent h (MU.lookupRange_withdrawn ?_)
    rw [Bool.eq_false_iff, Ne, MU.asked_iff]
    rintro (⟨b, e⟩ | ⟨q', x, e, hx, stream, probe⟩)
    · cases e
    · obtain rfl := Looker.probe.inj e
      exact (ended x hx).elim (· stream) (· probe)
  · have result := MU.lookupRange_asked (info := info) (w := Work.start t.mu) ((MU.asked_iff t.mu i lpn r).2 waits)
    refine ⟨fun ended => ?_, fun present none => ?_, fun head tail rec present hh ht hr => ?_⟩
    · exact arrive_mu_as h (result.trans (by rw [placeOf_gone ended]))
    · exact arrive_mu_as h (result.trans (by rw [placeOf_noPage present none]))
    · refine ⟨fun out => ?_, fun low last => ?_, fun l low high hit => ?_, fun low high miss c hc =>
        ⟨fun w walking => ?_, fun idle queued => ?_, fun idle unqueued => ⟨fun w free lowest => ?_, fun busy =>
          ⟨fun room => ?_, fun full => ⟨fun b hb => ?_, fun q hp => ?_⟩⟩⟩⟩⟩
      · exact arrive_mu_as h (result.trans (by rw [placeOf_outside present hh ht hr out]))
      · exact arrive_mu_as h (result.trans (by rw [placeOf_tail present hh ht hr low last]; rfl))
      all_goals
        have closed : MU.lookupRange i lpn r info (Work.start t.mu) = MU.resolve i lpn r (Work.start t.mu) :=
          result.trans (by rw [placeOf_closed present hh ht hr low high])
      · exact arrive_mu_as h (closed.trans (MU.resolve_hit hit))
      all_goals subst hc
      · exact arrive_mu_silent h (closed.trans (MU.resolve_joinsWalk miss walking))
      · exact arrive_mu_silent h (closed.trans (MU.resolve_joinsEntry miss idle queued))
      · exact ⟨_, arrive_mu h (closed.trans (MU.resolve_walks miss idle unqueued (MU.idleTracker_some free lowest))),
          rfl, rfl, addressOf_slot _ _ _ _ _⟩
      · exact arrive_mu_silent h (closed.trans (MU.resolve_queues miss idle unqueued (MU.idleTracker_none busy) room))
      · subst hb
        exact arrive_mu h (closed.trans (MU.resolve_noPlace miss idle unqueued (MU.idleTracker_none busy) full))
      · subst hp
        exact arrive_mu_silent h (closed.trans (MU.resolve_noPlace miss idle unqueued (MU.idleTracker_none busy) full))
  · have kept := MU.queuedRange_asked (info := info) (w := Work.start t.mu) hq hs hl asking fun x hx => (others x hx).1
    refine ⟨fun behind => ?_, fun front => ?_⟩
    · obtain ⟨y, ys, rfl⟩ := List.exists_cons_of_ne_nil behind
      refine arrive_mu_silent h (kept.trans ?_)
      rw [MU.advanceQueue, Work.mod_st, List.cons_append, List.length_cons]
      exact MU.resolveFront_waits rfl (others y (List.mem_cons_self ..)).2
    · subst front hs hl
      have turn := kept.trans (MU.advanceQueue_front rfl rfl others)
      have entry := turn.trans (MU.resolveEntry_front (info := info) rfl fun x hx => (others x hx).1)
      refine ⟨fun ended => ?_, fun present none => ?_, fun head tail rec present hh ht hr => ⟨fun out => ?_,
        fun l low high hit => ?_, fun low high miss => ⟨fun w free lowest => ?_, fun busy => ?_⟩⟩⟩
      · exact arrive_mu_as h (entry.trans (by rw [placeOf_gone ended]; rfl))
      · exact arrive_mu_as h (entry.trans (by rw [placeOf_noPage present none]; rfl))
      · exact arrive_mu_as h (entry.trans (by rw [placeOf_outside present hh ht hr out]; rfl))
      all_goals have place := placeOf_held present hh ht hr low high
      all_goals have apart (x) (hx : x ∈ rest) := (others x hx).1
      · exact arrive_mu_as h (turn.trans (MU.resolveEntry_hit (e := { e with answer := some info }) rfl apart place hit))
      · exact ⟨_, arrive_mu h (turn.trans (MU.resolveEntry_walks (e := { e with answer := some info }) rfl apart place miss
          (MU.idleTracker_some free lowest))), rfl, rfl, addressOf_slot _ _ _ _ _⟩
      · exact arrive_mu_silent h (turn.trans (MU.resolveEntry_busy rfl apart place miss
          (MU.idleTracker_none busy)))
  · subst hs hl hj
    have apart (y) (hy : y ∈ x :: rest) : y.stream ≠ e.stream ∨ y.lpn ≠ e.lpn := by
      rcases List.mem_cons.1 hy with rfl | hy
      · exact hx
      · exact (others y hy).1
    have behind (y) (hy : y ∈ rest) : y.stream ≠ x.stream ∨ y.lpn ≠ x.lpn := (others y hy).2.1
    have kept := MU.queuedRange_asked (info := info) (ahead := []) (w := Work.start t.mu) hq rfl rfl asking apart
    have first := MU.resolveEntry_front (e := { e with answer := some info }) (info := info)
      (w := ⟨{ t.mu with queue := { e with answer := some info } :: x :: rest }, []⟩) rfl apart
    rw [placeOf_gone gone] at first
    have second := MU.resolveEntry_front (e := x) (info := a)
      (w := MU.tellAll e.stream e.lpn .gone e.waiters ⟨{ t.mu with queue := x :: rest }, []⟩)
      (MU.tellAll_queue _ _ _ _ _) behind
    rw [placeOf_gone gone'] at second
    refine arrive_mu_as h (kept.trans ?_)
    rw [MU.advanceQueue, Work.mod_st, List.nil_append, List.length_cons, List.length_cons, MU.resolveFront_next rfl rfl]
    refine (congrArg (MU.resolveFront _) first).trans ?_
    refine (MU.resolveFront_next (MU.tellAll_queue _ _ _ _ _) answered).trans ?_
    refine (congrArg (MU.resolveFront _) second).trans (MU.resolveFront_stops _ fun y hy => ?_)
    rw [MU.tellAll_queue] at hy
    exact (others y hy).2.2
  · subst hv
    obtain ⟨cache, queue, searches, counters, result, first, kept⟩ := MU.walkDone_eq (bytes := bytes) hk
    obtain ⟨d, ms, frame⟩ := MU.reportClear_frame k.stream
      ⟨{ t.mu with cache := cache, queue := queue, searches := searches, counters := counters, waiting := [], owed := false
                   trackers := t.mu.trackers.set w none },
        walkMessages t.mu (MU.tellAll k.stream k.lpn (walkAnswer k.lpn bytes) k.waiters (Work.start t.mu))⟩
    have st := congrArg Work.st (result.trans frame)
    have out := congrArg Work.out (result.trans frame)
    refine ⟨_, arrive_takes h _, State.onMu_only _ _, (congrArg MU.trackers st).trans rfl, ⟨ms, State.onMu_sends out⟩,
      (congrArg MU.owed st).trans rfl, (congrArg MU.waiting st).trans rfl, fun due writes others => ?_,
      fun b rest hb => ?_, fun held unmarked => ?_, fun unfilled => ?_⟩
    · have sent := result.trans (MU.reportClear_sends due (MU.inFlight_idle writes others _ rfl rfl))
      refine ⟨?_, _, State.onMu_sends (congrArg Work.out sent)⟩
      exact (congrArg (fun v => v.st.clearDue[k.stream]) sent).trans (set_self _ _ _)
    · obtain ⟨more, e⟩ := MU.tellAll_first k.stream k.lpn (walkAnswer k.lpn bytes) b rest t.mu
      rw [← hb] at e
      obtain ⟨more', e'⟩ := walkMessages_first (m := t.mu) e
      exact ⟨more' ++ ms, State.onMu_sends (out.trans ((congrArg (· ++ ms) e').trans (List.append_assoc _ _ _)))⟩
    · obtain ⟨l, rest, e, key⟩ := first held unmarked
      exact ⟨l, rest, (congrArg MU.cache st).trans e, key⟩
    · exact (congrArg MU.cache st).trans (kept unfilled)
  · intro n free low
    exact MU.fill_takesInvalid rec absent (MU.lowestInvalid_some free low)
  · intro old front full hc
    exact MU.fill_evicts rec absent (MU.lowestInvalid_none full) hc

end

/-! SUPPORT. The Map Unit: searches, head reads, the delete order, and the map's requests (R57 to R62, R134). -/

namespace Sys2Proof.Machine

/-! ### Searches (R57 to R59) -/

theorem MU.search_who {m : MU} {r : Searcher} {x : Search} (h : m.search r = some x) : x.who = r := by
  simpa using List.find?_some h

/-- A search that is closed is not found, and the others are (R57). -/
theorem MU.search_endSearch (m : MU) (r q : Searcher) :
    (m.endSearch r).search q = if q = r then none else m.search q := by
  rw [MU.search, MU.endSearch, List.find?_filter]
  split
  · next e =>
    refine List.find?_eq_none.2 fun x _ => ?_
    simp [e]
  · next e =>
    refine find?_congr_mem fun x _ => ?_
    by_cases hx : x.who = q
    · simp [hx, e]
    · simp [hx]

/-- A search that is opened is the requester's, and the others' stay (R57). -/
theorem MU.search_opened (m : MU) (r q : Searcher) (x : Search) (hx : x.who = r) (c : MapCounters) :
    ({ m.endSearch r with counters := c, searches := (m.endSearch r).searches ++ [x] } : MU).search q =
      if q = r then some x else m.search q := by
  have others := MU.search_endSearch m r q
  simp only [MU.search] at others ⊢
  rw [List.find?_append, others]
  split
  · next e =>
    simp [hx, e]
  · next e =>
    have : ¬ r = q := fun h => e h.symm
    simp [hx, this]

section Halve

variable {x : Search} {w : Work MU}

/-- A search with pages left probes the middle one (R58). -/
theorem MU.halve_probes (h : x.lo < x.stop) : MU.halve x w =
    ⟨{ w.st with
        counters := { w.st.counters with lookups := count w.st.counters.lookups 1 }
        searches := w.st.searches.map fun y => if y.who = x.who then { x with probe := some x.middle } else y },
      w.out ++ [.rangeQuestion x.stream (.lookup x.middle (.probe x.who))]⟩ := by
  have twice : ((w.st.searches.map fun y => if y.who = x.who then x else y).map fun y =>
      if y.who = x.who then { y with probe := some x.middle } else y) =
      w.st.searches.map fun y => if y.who = x.who then { x with probe := some x.middle } else y := by
    rw [List.map_map]
    refine List.map_congr_left fun y _ => ?_
    dsimp only [Function.comp]
    by_cases e : y.who = x.who
    · simp only [if_pos e, if_true]
    · simp only [if_neg e]
  rw [MU.halve, if_pos h, ← twice]
  rfl

/-- A search without a page left ends by its best page (R58). -/
theorem MU.halve_below (h : x.stop ≤ x.lo) (hb : x.best = none) : MU.halve x w = MU.finish x.who .below w := by
  rw [MU.halve, if_neg (Nat.not_lt.2 h), hb]

theorem MU.halve_best {p : Lpn} {y : MapRec} (h : x.stop ≤ x.lo) (hb : x.best = some (p, y)) :
    MU.halve x w = MU.finish x.who (if x.q ≤ y.lastSeq then .found p y else .above) w := by
  rw [MU.halve, if_neg (Nat.not_lt.2 h), hb]

end Halve

section Range

variable {i : StreamId} {r : Searcher} {x : Search} {info : RangeInfo} {w : Work MU} (hx : w.st.search r = some x)
  (hs : x.stream = i)

include hx hs

/-- The range answer of a search that waits for it (R58). -/
theorem MU.searchRange_gone (hp : x.probe = none) (h : info.state = .absent ∨ info.state = .deleting) :
    MU.searchRange i r info w = MU.finish r .gone w := by
  have mine : (decide (x.stream ≠ i) || x.probe.isSome) = false := by simp [hs, hp]
  have ended : (decide (info.state = .absent) || decide (info.state = .deleting)) = true := by simpa using h
  simp only [MU.searchRange, hx, mine, ended, Bool.false_eq_true, if_false, if_true]

theorem MU.searchRange_present (hp : x.probe = none) (h : info.state = .opened ∨ info.state = .sealed) :
    MU.searchRange i r info w =
      match info.head, info.tail, info.tailRec with
      | some h, some t, some rec =>
        if rec.firstSeq ≠ 0 && rec.firstSeq ≤ x.q then
          MU.finish r (if x.q ≤ rec.lastSeq then .found t rec else .above) w
        else if h = t then MU.finish r (if rec.firstSeq = 0 then .nothing else .below) w
        else MU.halve { x with lo := h, stop := t, best := none } w
      | _, _, _ => MU.finish r .nothing w := by
  have mine : (decide (x.stream ≠ i) || x.probe.isSome) = false := by simp [hs, hp]
  have live : (decide (info.state = .absent) || decide (info.state = .deleting)) = false := by
    rcases h with e | e <;> rw [e] <;> rfl
  simp only [MU.searchRange, hx, mine, live, Bool.false_eq_true, if_false] <;> rfl

theorem MU.searchRange_noPage (hp : x.probe = none) (h : info.state = .opened ∨ info.state = .sealed)
    (none : info.head = none ∨ info.tail = none ∨ info.tailRec = none) :
    MU.searchRange i r info w = MU.finish r .nothing w := by
  rw [MU.searchRange_present hx hs hp h]
  rcases none with e | e | e
  · rw [e]
  · rw [e]
    cases info.head <;> rfl
  · rw [e]
    cases info.head <;> cases info.tail <;> rfl

theorem MU.probed_found {lpn l : Lpn} {rec : MapRec} (hp : x.probe = some lpn) : MU.probed r i lpn (.found l rec) w =
    MU.halve (if rec.firstSeq ≤ x.q then { x with probe := none, best := some (lpn, rec), lo := lpn + 1 }
      else { x with probe := none, stop := lpn }) w := by
  have mine : (decide (x.stream = i) && decide (x.probe = some lpn)) = true := by simp [hs, hp]
  simp only [MU.probed, hx, mine, if_true]

theorem MU.probed_gone {lpn : Lpn} (hp : x.probe = some lpn) : MU.probed r i lpn .gone w = MU.finish r .gone w := by
  have mine : (decide (x.stream = i) && decide (x.probe = some lpn)) = true := by simp [hs, hp]
  simp only [MU.probed, hx, mine, if_true]

theorem MU.probed_notHeld {lpn : Lpn} (hp : x.probe = some lpn) :
    MU.probed r i lpn .notHeld w = MU.beginSearch x w := by
  have mine : (decide (x.stream = i) && decide (x.probe = some lpn)) = true := by simp [hs, hp]
  simp only [MU.probed, hx, mine, if_true]

end Range

/-! ### Head reads (R134) -/

section Head

variable {i : StreamId} {why : HeadWhy} {info : RangeInfo} {w : Work MU}

theorem MU.headRange_noPage (noPage : info.head = none ∨ info.tail = none ∨ info.tailRec = none) :
    MU.headRange i why info w = w.send (headReply i why ⟨info.state, none⟩) := by
  unfold MU.headRange
  rcases noPage with e | e | e
  · rw [e]
  · rw [e]
    cases info.head <;> rfl
  · rw [e]
    cases info.head <;> cases info.tail <;> rfl

theorem MU.headRange_pages {h k : Lpn} {rec : MapRec} (hh : info.head = some h) (hk : info.tail = some k)
    (hr : info.tailRec = some rec) : MU.headRange i why info w =
      if h < k then
        match w.st.cached i h with
        | some l => w.send (headReply i why ⟨info.state, some ⟨h, k, { l.record with closed := true }⟩⟩)
        | none => w.send (.mpOperationIssue ⟨.headRead i why info.state h k, slotPage i h, slotOffset h, 16, []⟩)
      else w.send (headReply i why ⟨info.state, some ⟨h, k, rec⟩⟩) := by
  simp only [MU.headRange, hh, hk, hr] <;> rfl

end Head

/-! ### The delete order (R60) -/

/-- MU once a delete order has taken the stream, before the queue moves on (R60). -/
def MU.deleted (i : StreamId) (m : MU) : MU :=
  { m.invalidate (fun l => l.stream = i) with
    trackers := m.trackers.map (Tracker.cut i)
    queue := m.queue.filter fun e => e.stream ≠ i
    searches := m.searches.filter fun x => x.stream ≠ i
    waiting := m.waiting.filter fun r => !((m.searches.filter fun x => x.stream = i).map Search.who).contains r
    clearDue := m.clearDue.set i true }

/-- What a delete order answers: the waiters of the stream, then its searches (R60). -/
def MU.deletedReplies (i : StreamId) (m : MU) : List Instr :=
  goneReplies (m.waitersOf i) ++ (m.searches.filter fun x => x.stream = i).map fun x => searchReply x.who .gone

theorem MU.deleteOrder_eq (i : StreamId) (m : MU) : MU.deleteOrder i (Work.start m) =
    MU.reportClear i (MU.advanceQueue ⟨m.deleted i, m.deletedReplies i⟩) := by
  rw [MU.deletedReplies, ← Function.comp_def (fun r => searchReply r .gone) Search.who, ← List.map_map]
  rfl

theorem MU.resolveEntry_out (e : QueueEntry) (info : RangeInfo) (w : Work MU) :
    ∃ more, (MU.resolveEntry e info w).out = w.out ++ more := by
  have told (a : MapAnswer) (v : Work MU) (hv : v.out = w.out) :
      ∃ more, (MU.tellAll e.stream e.lpn a e.waiters v).out = w.out ++ more := by
    obtain ⟨s, wt, c, more, h⟩ := MU.tellAll_answers e.stream e.lpn a e.waiters v
    exact ⟨more, (congrArg Work.out h).trans (congrArg (· ++ more) hv)⟩
  unfold MU.resolveEntry
  dsimp only
  split
  · exact told _ _ rfl
  · exact told _ _ rfl
  · split
    · exact told _ _ rfl
    · split
      · exact ⟨_, rfl⟩
      · exact ⟨[], (List.append_nil _).symm⟩
  · split
    · exact told _ _ rfl
    · split
      · exact ⟨_, rfl⟩
      · exact ⟨[], (List.append_nil _).symm⟩

/-- The queue's moving on sends behind what has been sent. -/
theorem MU.resolveFront_out (n : Nat) (w : Work MU) : ∃ more, (MU.resolveFront n w).out = w.out ++ more := by
  induction n generalizing w with
  | zero => exact ⟨[], (List.append_nil _).symm⟩
  | succ n ih =>
    unfold MU.resolveFront
    split
    · exact ⟨[], (List.append_nil _).symm⟩
    · split
      · next e _ _ _ info _ =>
        obtain ⟨more, h⟩ := MU.resolveEntry_out e info w
        obtain ⟨more', h'⟩ := ih (MU.resolveEntry e info w)
        exact ⟨more ++ more', by rw [h', h, List.append_assoc]⟩
      · exact ⟨[], (List.append_nil _).symm⟩

theorem MU.deleted_tracker {m : MU} {i : StreamId} {w : TrackerId} {k : Tracker} (h : m.trackers[w] = some k) :
    (m.deleted i).trackers[w] = some (if k.stream = i then { k with waiters := [], noFill := true } else k) := by
  have cut : (m.deleted i).trackers[w] = Tracker.cut i m.trackers[w] := Vector.getElem_map ..
  rw [cut, h, Tracker.cut, Option.map_some]

/-- A walk or map write of the stream that was in flight is so still (R60). -/
theorem MU.deleted_inFlight (i : StreamId) (m : MU) : (m.deleted i).inFlight i = m.inFlight i := by
  rw [Bool.eq_iff_iff, MU.inFlight_iff, MU.inFlight_iff]
  refine or_congr_left (exists_congr fun w => ?_)
  cases h : m.trackers[w] with
  | none =>
    have cut : (m.deleted i).trackers[w] = Tracker.cut i m.trackers[w] := Vector.getElem_map ..
    rw [cut, h]
    simp [Tracker.cut]
  | some k =>
    rw [MU.deleted_tracker h]
    simp only [Option.some.injEq, exists_eq_left']
    split <;> rfl

/-- MU after MAP_FLUSH (R61). -/
def MU.flushed (m : MU) : MU :=
  { (m.invalidate fun _ => true).onCounters fun c => { c with flushes := count c.flushes 1 } with
    trackers := m.trackers.map fun t => t.map fun k => { k with noFill := true } }

end Sys2Proof.Machine

/-! The statement about searches, head reads, deletes and the map's requests. -/

section
open Sys2Proof Sys2Proof.Machine

/-- Settles O27: a search by its range answers and probes, a head read by what holds its page, the delete order by what is in
flight, and the two requests. -/
theorem searchDeleteAndMapRequestResults : Obligations.SearchDeleteAndMapRequestResults := by
  refine ⟨⟨fun i q r s t h => ?_, fun i r x info ends s t he => ?_, fun i why tell s t hw => ?_⟩,
    fun i s t h => ?_, fun r s t h hb => ?_, fun r clear s t h hb => ?_⟩
  · have opened (r') := MU.search_opened t.mu r r' ⟨r, i, q, 0, 0, none, none⟩ rfl
      { t.mu.counters with searches := count t.mu.counters.searches 1 }
    refine ⟨_, arrive_takes h _, State.onMu_only _ _, rfl, (opened r).trans (if_pos rfl), fun r' hr => ?_, rfl,
      State.onMu_sends rfl⟩
    exact (opened r').trans (if_neg hr)
  · obtain rfl : ends = MU.finish r := funext fun h => funext (he h)
    refine ⟨fun h hx hs hp => ⟨fun gone => ?_, fun present noPage => ?_, fun head tail rec present hh ht hr => ?_⟩,
      fun w lpn hx hs hp => ⟨fun l rec best lo stop hn => ?_, MU.probed_gone hx hs hp, ?_⟩⟩
    · exact arrive_mu_as h (MU.searchRange_gone hx hs hp gone)
    · exact arrive_mu_as h (MU.searchRange_noPage hx hs hp present noPage)
    · have range := MU.searchRange_present (w := Work.start t.mu) hx hs hp present
      rw [hh, ht, hr] at range
      simp only [Bool.and_eq_true, decide_eq_true_eq] at range
      refine ⟨fun filled within => ?_, fun empty single => ?_, fun above single => ?_, fun below more => ?_⟩
      · exact arrive_mu_as h (range.trans (if_pos ⟨filled, within⟩))
      · exact arrive_mu_as h (range.trans ((if_neg fun e => e.1 empty).trans ((if_pos single).trans (by rw [if_pos empty]))))
      · have filled : rec.firstSeq ≠ 0 := Nat.ne_of_gt (Nat.lt_of_le_of_lt (Nat.zero_le _) above)
        exact arrive_mu_as h (range.trans ((if_neg fun e => Nat.not_lt.2 e.2 above).trans
          ((if_pos single).trans (by rw [if_neg filled]))))
      · have outside : ¬ (rec.firstSeq ≠ 0 ∧ rec.firstSeq ≤ x.q) := fun e =>
          below.elim e.1 fun above => Nat.not_lt.2 e.2 above
        obtain rfl := MU.search_who hx
        subst hs
        exact arrive_mu h (range.trans ((if_neg outside).trans ((if_neg (Nat.ne_of_lt more)).trans
          (MU.halve_probes (x := { x with lo := head, stop := tail, best := none }) more))))
    · obtain rfl := MU.search_who hx
      have narrows : MU.probed x.who i lpn (.found l rec) w =
          MU.halve { x with probe := none, best := best, lo := lo, stop := stop } w := by
        rw [MU.probed_found hx hs hp]
        rcases hn with ⟨within, rfl, rfl, rfl⟩ | ⟨above, rfl, rfl, rfl⟩
        · rw [if_pos within]
        · rw [if_neg (Nat.not_le.2 above)]
      subst hs
      refine ⟨fun more => narrows.trans (MU.halve_probes more), fun done => ⟨fun hb => ?_, fun p y hb => ?_⟩⟩
      · exact narrows.trans (MU.halve_below done hb)
      · exact narrows.trans (MU.halve_best done hb)
    · obtain rfl := MU.search_who hx
      subst hs
      exact MU.probed_notHeld hx rfl hp
  · obtain rfl : tell = headReply i why := funext hw
    refine ⟨fun h => arrive_mu h rfl, fun info h => ⟨fun noPage => arrive_mu h (MU.headRange_noPage noPage),
      fun head tail rec hh ht hr => ⟨fun single => ?_, fun l more hit => ?_, fun more miss => ?_⟩⟩,
      fun st head tail bytes h => arrive_mu h rfl⟩
    all_goals have pages := MU.headRange_pages (i := i) (why := why) (w := Work.start t.mu) hh ht hr
    · exact arrive_mu h (pages.trans (if_neg (Nat.not_lt.2 single)))
    · exact arrive_mu h (pages.trans ((if_pos more).trans (by rw [Work.start_st, hit]; rfl)))
    · exact ⟨_, arrive_mu h (pages.trans ((if_pos more).trans (by rw [Work.start_st, miss]; rfl))), rfl, rfl,
        addressOf_slot _ _ _ _ _⟩
  · have order := MU.deleteOrder_eq i t.mu
    obtain ⟨more, moves⟩ := MU.resolveFront_out (t.mu.deleted i).queue.length ⟨t.mu.deleted i, t.mu.deletedReplies i⟩
    obtain ⟨d, ms, frame⟩ := MU.reportClear_frame i (MU.advanceQueue ⟨t.mu.deleted i, t.mu.deletedReplies i⟩)
    refine ⟨_, arrive_takes h _, State.onMu_only _ _, ⟨more ++ ms, State.onMu_sends ?_⟩, fun unanswered => ?_⟩
    · rw [order, frame, ← List.append_assoc]
      exact congrArg (· ++ ms) moves
    · have stays : MU.advanceQueue ⟨t.mu.deleted i, t.mu.deletedReplies i⟩ = ⟨t.mu.deleted i, t.mu.deletedReplies i⟩ := by
        refine MU.resolveFront_stops _ fun e he => ?_
        obtain ⟨he, other⟩ := List.mem_filter.1 he
        exact unanswered e he (of_decide_eq_true other)
      rw [stays] at order frame
      have st := congrArg Work.st (order.trans frame)
      have due : (t.mu.deleted i).clearDue[i] = true := set_self _ _ _
      have flight := (congrArg (· = true) (MU.deleted_inFlight i t.mu)).trans (propext (MU.inFlight_iff t.mu i))
      refine ⟨(congrArg MU.cache st).trans ?_, (congrArg MU.queue st).trans rfl, (congrArg MU.searches st).trans rfl,
        fun w k hk => ?_, fun writes others => ?_, fun busy => ?_⟩
      · simp only [MU.deleted, MU.invalidate, decide_not]
      · exact (congrArg (fun m : MU => m.trackers[w]) st).trans (MU.deleted_tracker hk)
      · have idle : (t.mu.deleted i).inFlight i = false := by
          rw [Bool.eq_false_iff, Ne, flight, writes]
          rintro (⟨w, k, e, hk⟩ | e)
          · exact others w k e hk
          · exact e rfl
        have sent := order.trans (MU.reportClear_sends due idle)
        exact ⟨(congrArg (fun v => v.st.clearDue[i]) sent).trans (set_self _ _ _), _,
          State.onMu_sends (congrArg Work.out sent)⟩
      · have waits := order.trans (MU.reportClear_waits (w := ⟨t.mu.deleted i, t.mu.deletedReplies i⟩)
          (.inr (flight.mpr busy.symm)))
        exact (congrArg (fun v => v.st.clearDue[i]) waits).trans due
  · have tracker (w : TrackerId) : (t.mu.flushed).trackers[w] = t.mu.trackers[w].map fun k => { k with noFill := true } :=
      Vector.getElem_map ..
    have result : MU.flush r (t.body r) (Work.start t.mu) = ⟨t.mu.flushed, [reply r okAnswer]⟩ := by
      rw [MU.flush, hb, emptyBody_nil, Work.layout_ok]
      rfl
    refine ⟨_, arrive_takes h _, State.onMu_only _ _, ?_⟩
    rw [State.onMu_eq result]
    refine ⟨?_, rfl, rfl, rfl, rfl, rfl, rfl, ?_, fun w k hk => ?_, fun w hk => ?_, rfl⟩
    · exact List.filter_eq_nil_iff.2 fun _ _ => Bool.false_ne_true
    · have all : t.mu.cache.countP (fun _ => true) = t.mu.cache.length := List.countP_eq_length.2 fun _ _ => rfl
      change (t.mu.flushed).counters = _
      rw [← all]
      rfl
    · exact (tracker w).trans (by rw [hk]; rfl)
    · exact (tracker w).trans (by rw [hk]; rfl)
  · refine arrive_mu h ?_
    rw [MU.status, hb, Work.layout_ok]
    cases clear <;> rfl

end

/-! SUPPORT. The Append Engine: what it does with the APPEND in progress (R67 to R82). -/

namespace Sys2Proof.Machine

/-! ### Events whose work is known -/

/-- An event at AE touches AE and the messages on their way. -/
theorem State.onAe_only (t : State) (f : Work AE → Work AE) : OnlyAe t (t.onAe f) := by
  simp [OnlyAe, State.onAe, State.post]

/-- A command at AE whose work is known. -/
theorem arrive_ae {c : Instr} {s t : State} {f : State → Work AE → Work AE} {ae : AE} {ms : List Instr} (h : Takes c s t)
    (hf : f t (Work.start t.ae) = ⟨ae, ms⟩) :
    arrive c s (fun t => t.onAe (f t)) = .next (({ t with ae := ae } : State).post (.core .ae) ms) := by
  rw [arrive_takes h, State.onAe, hf]

/-- A command at AE that sends nothing. -/
theorem arrive_ae_silent {c : Instr} {s t : State} {f : State → Work AE → Work AE} {ae : AE} (h : Takes c s t)
    (hf : f t (Work.start t.ae) = ⟨ae, []⟩) : arrive c s (fun t => t.onAe (f t)) = .next { t with ae := ae } :=
  (arrive_ae h hf).trans (congrArg Host.Outcome.next (State.post_nil _ _))

theorem State.onAe_sends {t : State} {f : Work AE → Work AE} {ms : List Instr} (h : (f (Work.start t.ae)).out = ms) :
    Sends (.core .ae) t (t.onAe f) ms := by
  rw [Sends, State.onAe_wires, h]

/-! ### The APPEND in progress -/

section Head

variable {w : Work AE} {j : Job} {rest : List Job}

/-- A change of the APPEND at the head of the queue. -/
theorem AE.onHead_eq {a : AE} (h : a.queue = j :: rest) (f : Job → Job) : a.onHead f = { a with queue := f j :: rest } := by
  rw [AE.onHead, h]

theorem AE.head_eq {a : AE} (h : a.queue = j :: rest) : a.head = some j := by
  rw [AE.head, h, List.head?_cons]

/-- The APPEND in progress is the one that its state and its stream name. -/
theorem HeadIs.headIn {t : State} {st : JobState} {i : StreamId} (h : HeadIs t st i j rest) :
    t.ae.headIn st i = some j := by
  obtain ⟨queue, rfl, rfl⟩ := h
  exact AE.headIn_head queue

/-- The entry write of the APPEND in progress (R77). -/
def entryWriteOp (clock : Clock) (payload : List Byte) (page : Ppn) (offset : Nat) (j : Job) : MpOp :=
  ⟨.entryWrite, page, offset, j.size, entryOfSize j.size j.seq clock payload⟩

theorem AE.write_head (h : w.st.queue = j :: rest) (clock : Clock) (payload : List Byte) (page : Ppn) (offset : Nat) :
    AE.write clock payload page offset w =
      ⟨{ w.st with queue := { j with state := .writing, stamp := clock, page := page, offset := offset } :: rest },
        w.out ++ [.mpOperationIssue (entryWriteOp clock payload page offset j)]⟩ := by
  rw [AE.write, AE.head_eq h]
  exact congrArg (Work.mk · _) (AE.onHead_eq h _)

theorem AE.allocate_head (h : w.st.queue = j :: rest) (i : StreamId) : AE.allocate i w =
    ⟨{ w.st with queue := { j with state := .allocating } :: rest }, w.out ++ [.allocationRequest i]⟩ :=
  congrArg (Work.mk · _) (AE.onHead_eq h _)

/-- A page that is closed with 16 bytes or more left takes a PAD header (R67). -/
theorem AE.close_eq (i : StreamId) (page : Ppn) (w : Work AE) : AE.close i page w =
    ⟨w.st, w.out ++ ([.pageClose i] ++ if w.st.fills[i] ≤ 2032 then
      [.mpOperationIssue ⟨.padWrite, page, w.st.fills[i], 16, padBytes (2048 - w.st.fills[i])⟩] else [])⟩ := by
  have pads : 16 ≤ 2048 - w.st.fills[i] ↔ w.st.fills[i] ≤ 2032 := by omega
  unfold AE.close
  rw [Work.send_if]
  simp only [pads, Work.send_st, Work.send_out, List.append_assoc]

theorem AE.openPage_head (h : w.st.queue = j :: rest) (clock : Clock) (payload : List Byte) (i : StreamId) (ppn : Ppn) :
    AE.openPage clock payload i ppn w =
      ⟨{ w.st with
          queue := { j with state := .writing, stamp := clock, page := ppn, offset := 0 } :: rest
          fills := w.st.fills.set i 0 },
        w.out ++ [.pageOpen i ppn, .mpOperationIssue (entryWriteOp clock payload ppn 0 j)]⟩ := by
  have opened := AE.write_head (w := (w.mod fun a => { a with fills := a.fills.set i 0 }).send (.pageOpen i ppn)) h clock
    payload ppn 0
  exact opened.trans (congrArg (Work.mk _) (List.append_assoc _ _ _))

/-- The APPEND with its sequence, as it goes to be placed (R72). -/
theorem AE.placeAnswer_opened {clock : Clock} {payload : List Byte} {i : StreamId} {info : PlaceInfo}
    (hq : w.st.queue = j :: rest) (hj : w.st.headIn .placing i = some j) (ho : info.state = .opened) :
    AE.placeAnswer clock payload i info w = AE.place clock payload i j.size info.tailRec
      ⟨{ w.st with queue := { j with seq := info.committed + 1 } :: rest }, w.out⟩ := by
  simp only [AE.placeAnswer, hj, ho]
  exact congrArg (fun a => AE.place clock payload i j.size info.tailRec ⟨a, w.out⟩) (AE.onHead_eq hq _)

/-- A place answer of a DELETING stream (R71). -/
theorem AE.placeAnswer_deleting {clock : Clock} {payload : List Byte} {i : StreamId} {info : PlaceInfo}
    (hj : w.st.headIn .placing i = some j) (ho : info.state = .deleting) :
    AE.placeAnswer clock payload i info w = AE.finish false (refusal .gone 0) w := by
  simp only [AE.placeAnswer, hj, ho]

end Head

/-! ### Places (R72) and the completion (R77) -/

section Place

variable {clock : Clock} {payload : List Byte} {i : StreamId} {size : Nat} {rec : MapRec} {w : Work AE}

theorem AE.place_fits (hc : rec.closed = false) (room : w.st.fills[i] + size ≤ 2048) :
    AE.place clock payload i size (some rec) w = AE.write clock payload rec.ppn w.st.fills[i] w := by
  rw [AE.place, hc]
  exact (if_neg Bool.false_ne_true).trans (if_pos room)

theorem AE.place_noPage {tail : Option MapRec} (h : tail = none ∨ ∃ rec, tail = some rec ∧ rec.closed = true) :
    AE.place clock payload i size tail w = AE.allocate i w := by
  rcases h with rfl | ⟨rec, rfl, hc⟩ <;> rw [AE.place]
  exact if_pos hc

theorem AE.place_full (hc : rec.closed = false) (full : 2048 < w.st.fills[i] + size) :
    AE.place clock payload i size (some rec) w = AE.allocate i (AE.close i rec.ppn w) := by
  rw [AE.place, hc]
  exact (if_neg Bool.false_ne_true).trans (if_neg (Nat.not_le.2 full))

end Place

theorem AE.entryWriteDone_eq {w : Work AE} {j : Job} {rest : List Job} (hq : w.st.queue = j :: rest) (hj : j.state = .writing) :
    AE.entryWriteDone w = AE.finish false (okWith (.append j.seq j.stamp))
      ⟨{ w.st with fills := upd w.st.fills j.stream (· + j.size), episode := w.st.episode.set j.stream false },
        w.out ++ [.commit j.stream j.seq j.stamp]⟩ := by
  rw [AE.entryWriteDone, AE.head_eq hq]
  exact if_pos hj

/-! ### Arrival (R68) -/

theorem AE.append_eq {r : Req} {body payload : List Byte} {i : StreamId} {w : Work AE}
    (hb : appendBody body = .ok (i.val, payload)) : AE.append r body w =
      if payload.length < 1 ∨ 1536 < payload.length then w.refuse r .outOfRange 2
      else if 16 ≤ w.st.queue.length then w.refuse r .busy
      else (w.mod fun a => { a with queue := a.queue ++
        [⟨r, i, storedSize payload.length, false, .waiting, false, false, 0, 0, 0, 0⟩] }).send (.admission i r) := by
  rw [AE.append, hb, Work.layout_ok]
  simp only [index_val]

/-! ### Without a page (R74, R75) -/

/-- AE when the stream's episode of STREAM_FULL goes on, the event raised where it begins (R75). -/
theorem AE.full_eq (i : StreamId) (w : Work AE) : AE.full i w = AE.finish true (refusal .full 0)
    ⟨{ w.st with episode := w.st.episode.set i true },
      w.out ++ if w.st.episode[i] then [] else [.noticeEvent ⟨.streamFull, some i, none, none, none⟩]⟩ := by
  unfold AE.full
  split
  · next h =>
    rw [List.append_nil]
    refine congrArg (AE.finish true (refusal .full 0)) (Work.mk.injEq .. ▸ ⟨?_, rfl⟩)
    have same : w.st.episode.set i true = w.st.episode := by
      rw [← h]
      exact Vector.set_getElem_self _
    rw [same]
  · rfl

theorem AE.refusalAnswer_gone {i : StreamId} {info : RefusalInfo} {w : Work AE} {j : Job}
    (hj : w.st.headIn .allocating i = some j)
    (h : info.state = .deleting ∨ info.state = .absent ∨ j.marked = true) :
    AE.refusalAnswer i info w = AE.finish false (refusal .gone 0) w := by
  have gone : (decide (info.state = .deleting) || decide (info.state = .absent) || j.marked) = true := by
    simpa [or_assoc] using h
  simp only [AE.refusalAnswer, hj, gone, if_true]

/-- A refused APPEND of a present stream: a recycle once, below the tail page of a DROP_OLDEST stream, or FULL (R74). -/
theorem AE.refusalAnswer_present {i : StreamId} {info : RefusalInfo} {w : Work AE} {j : Job}
    (hj : w.st.headIn .allocating i = some j) (hs : info.state = .opened ∨ info.state = .sealed) (hm : j.marked = false) :
    AE.refusalAnswer i info w =
      match info.policy, info.head, info.tail with
      | .dropOldest, some h, some t =>
        if h < t && !j.recycled then
          (w.mod fun a => a.onHead fun j => { j with state := .recycling, recycled := true }).send (.recycleRequest i)
        else AE.full i w
      | _, _, _ => AE.full i w := by
  have stays : (decide (info.state = .deleting) || decide (info.state = .absent) || j.marked) = false := by
    rcases hs with e | e <;> rw [e, hm] <;> rfl
  simp only [AE.refusalAnswer, hj, stays, Bool.false_eq_true, if_false] <;> rfl

theorem AE.refusalAnswer_full {i : StreamId} {info : RefusalInfo} {w : Work AE} {j : Job}
    (hj : w.st.headIn .allocating i = some j) (hs : info.state = .opened ∨ info.state = .sealed) (hm : j.marked = false)
    (h : info.policy = .hold ∨ j.recycled = true ∨ ∀ h k, info.head = some h → info.tail = some k → k ≤ h) :
    AE.refusalAnswer i info w = AE.full i w := by
  rw [AE.refusalAnswer_present hj hs hm]
  cases hp : info.policy with
  | hold => rfl
  | dropOldest =>
    cases hh : info.head with
    | none => rfl
    | some head =>
      cases ht : info.tail with
      | none => rfl
      | some tail =>
        refine if_neg ?_
        rw [Bool.and_eq_true, decide_eq_true_eq, Bool.not_eq_true']
        rintro ⟨lt, first⟩
        rcases h with e | e | e
        · rw [hp] at e
          cases e
        · exact Bool.false_ne_true (first.symm.trans e)
        · exact Nat.not_lt.2 (e head tail hh ht) lt

/-! ### Delete orders (R82) -/

/-- An APPEND past WAITING stands in the queue as it is when the next one is started. -/
theorem mem_nextPlacing {l : List Job} {j : Job} (hj : j.state ≠ .waiting) (h : j ∈ l) : j ∈ nextPlacing l := by
  cases l with
  | nil => exact h
  | cons x rest =>
    rcases List.mem_cons.1 h with rfl | h
    · rw [nextPlacing, if_neg fun e => hj e.1]
      exact List.mem_cons_self ..
    · exact List.mem_cons_of_mem _ h

/-- AE once a delete order has taken its waiting APPENDs and marked the one past WAITING (R82). -/
def AE.deleted (i : StreamId) (a : AE) : AE :=
  { a with
    episode := a.episode.set i false
    queue := (a.queue.filter fun j => !j.cutBy i).map fun j =>
      if j.stream = i && j.state ≠ .waiting then { j with marked := true } else j }

theorem AE.deleteOrder_eq (i : StreamId) (w : Work AE) : AE.deleteOrder i w =
    ⟨{ w.st.deleted i with queue := nextPlacing (w.st.deleted i).queue },
      w.out ++ ((w.st.queue.filter (Job.cutBy i)).flatMap fun j => [reply j.req (refusal .gone 0), .appendLeave i]) ++
        nextQuestion (w.st.deleted i).queue⟩ := AE.startHead_eq _

theorem AE.deleted_marks {a : AE} {i : StreamId} {j : Job} (h : j ∈ a.queue) (hs : j.stream = i) (hj : j.state ≠ .waiting) :
    { j with marked := true } ∈ (a.deleted i).queue := by
  refine List.mem_map.2 ⟨j, List.mem_filter.2 ⟨h, ?_⟩, if_pos (by simp [hs, hj])⟩
  simp [Job.cutBy, hj]

end Sys2Proof.Machine

/-! The statements about the Append Engine. -/

section
open Sys2Proof Sys2Proof.Machine

/-- Settles O28: the checks in their order. -/
theorem appendArrivalResult : Obligations.AppendArrivalResult := by
  intro r i payload s t h hb
  have result := AE.append_eq (r := r) (w := Work.start t.ae) hb
  refine ⟨fun size => ?_, fun low high => ⟨fun full => ?_, fun room => ?_⟩⟩
  · exact arrive_ae h (result.trans (if_pos (by omega)))
  · exact arrive_ae h (result.trans ((if_neg (by omega)).trans (if_pos full)))
  · exact arrive_ae h (result.trans ((if_neg (by omega)).trans (if_neg (Nat.not_le.2 room))))

/-- Settles O29: the admission, then the place answer by the state of the stream and by its tail page. -/
theorem appendPlacingResults : Obligations.AppendPlacingResults := by
  refine ⟨fun r j rest s t h hq hr ha hj others => ?_, fun r j rest s t h hq hr ha => ?_,
    fun i info rec j rest s t h head opened ht hc room => ?_, fun i info j rest s t h head opened ht => ?_,
    fun i info rec j rest s t h head opened ht hc full => ?_,
    fun i info j rest s t h head => ⟨fun gone => ?_, fun isSealed unmarked => ?_⟩⟩
  · subst hr
    have waits : (t.ae.queue.any fun x => x.req = j.req && !x.admitted) = true := by
      rw [hq, List.any_cons, ha]
      simp
    have admitted : (t.ae.queue.map fun x => if x.req = j.req then { x with admitted := true } else x) =
        { j with admitted := true } :: rest := by
      rw [hq, List.map_cons, if_pos rfl]
      refine congrArg (_ :: ·) ((List.map_congr_left fun x hx => if_neg (others x hx)).trans (List.map_id' rest))
    refine arrive_ae h ((if_pos waits).trans ((if_pos rfl).trans ((AE.startHead_eq _).trans ?_)))
    simp only [Work.mod_st, Work.start_st, admitted, nextPlacing, nextQuestion, hj, and_self, if_true]
    rfl
  · subst hr
    have waits : (t.ae.queue.any fun x => x.req = j.req && !x.admitted) = true := by
      rw [hq, List.any_cons, ha]
      simp
    have result : AE.admissionAnswer j.req false (Work.start t.ae) = _ :=
      (if_pos waits).trans ((if_neg Bool.false_ne_true).trans (AE.startHead_eq _))
    exact ⟨_, arrive_takes h _, State.onAe_only _ _, nextQuestion (t.ae.queue.filter fun x => x.req ≠ j.req || x.admitted),
      State.onAe_sends (congrArg Work.out result)⟩
  · have placed := AE.placeAnswer_opened (clock := t.tb.clock) (payload := t.headPayload) (w := Work.start t.ae) head.1
      head.headIn opened
    rw [ht] at placed
    have writes := (placed.trans (AE.place_fits hc room)).trans (AE.write_head rfl _ _ _ _)
    exact ⟨_, arrive_ae h writes, rfl, rfl, rfl, rfl, entryOfSize_length _ _ _ _,
      fun e => entryOfSize_eq e _ _⟩
  · have placed := AE.placeAnswer_opened (clock := t.tb.clock) (payload := t.headPayload) (w := Work.start t.ae) head.1
      head.headIn opened
    exact arrive_ae h ((placed.trans (AE.place_noPage ht)).trans (AE.allocate_head (j := { j with seq := info.committed + 1 }) rfl i))
  · have placed := AE.placeAnswer_opened (clock := t.tb.clock) (payload := t.headPayload) (w := Work.start t.ae) head.1
      head.headIn opened
    rw [ht] at placed
    have closes := placed.trans (AE.place_full hc full)
    rw [AE.close_eq] at closes
    exact arrive_ae h (closes.trans (AE.allocate_head (j := { j with seq := info.committed + 1 }) rfl i))
  · have leaves : ∃ refused ans, AE.placeAnswer t.tb.clock t.headPayload i info (Work.start t.ae) =
        AE.finish refused ans (Work.start t.ae) ∧ (refused && !j.marked) = false ∧
          (if j.marked then refusal .gone 0 else ans) = refusal .gone 0 := by
      rcases gone with deleting | ⟨isSealed, marked⟩
      · exact ⟨_, _, AE.placeAnswer_deleting head.headIn deleting, rfl, ite_self _⟩
      · obtain ⟨queue, hj, rfl⟩ := head
        exact ⟨_, _, AE.placeAnswer_sealed _ _ queue hj isSealed, by rw [marked]; rfl, if_pos marked⟩
    obtain ⟨refused, ans, finish, uncounted, answer⟩ := leaves
    obtain ⟨fills, episode, left⟩ := State.onAe_finish finish head.1 head.2.2 rfl
    rw [uncounted, answer] at left
    exact ⟨_, arrive_takes h _, fills, episode, left⟩
  · obtain ⟨queue, hj, rfl⟩ := head
    obtain ⟨fills, episode, left⟩ := State.onAe_finish
      (AE.placeAnswer_sealed t.tb.clock t.headPayload queue hj isSealed) queue rfl rfl
    rw [unmarked] at left
    exact ⟨_, arrive_takes h _, fills, episode, left⟩

/-- Settles O30: a page that is obtained is opened; without one, SD's answer decides. -/
theorem appendAllocationResults : Obligations.AppendAllocationResults := by
  refine ⟨fun c i ppn j rest s t h hc => ?_, fun i cause j rest s t h head => ?_,
    fun i info first last j rest s t h head present unmarked hh ht hp below fresh => ?_,
    fun i info j rest s t h head present unmarked none => ?_, fun i info j rest s t h head gone => ?_,
    fun i j rest s t h head => ?_⟩
  · have opens (hq : t.ae.queue = j :: rest) :=
      AE.openPage_head (w := Work.start t.ae) hq t.tb.clock t.headPayload i ppn
    refine ⟨entryWriteOp t.tb.clock t.headPayload ppn 0 j, ?_, rfl, rfl, rfl, rfl, entryOfSize_length _ _ _ _,
      fun e => entryOfSize_eq e _ _⟩
    rcases hc with ⟨rfl, head⟩ | ⟨rfl, head⟩
    · exact arrive_ae h ((if_pos (by rw [Work.start_st, head.headIn]; rfl)).trans (opens head.1))
    · exact arrive_ae h ((if_pos (by rw [Work.start_st, head.headIn]; rfl)).trans (opens head.1))
  · exact arrive_ae h (if_pos (by rw [Work.start_st, head.headIn]; rfl))
  · have recycles := AE.refusalAnswer_present (w := Work.start t.ae) head.headIn present unmarked
    rw [hp, hh, ht] at recycles
    have once : (decide (first < last) && !j.recycled) = true := by rw [decide_eq_true below, fresh]; rfl
    exact arrive_ae h (recycles.trans ((if_pos once).trans (congrArg (Work.mk · _) (AE.onHead_eq head.1 _))))
  · have full := (AE.refusalAnswer_full (w := Work.start t.ae) head.headIn present unmarked none).trans (AE.full_eq i _)
    obtain ⟨fills, episode, left⟩ := State.onAe_finish full head.1 head.2.2 rfl
    rw [unmarked] at left
    exact ⟨_, arrive_takes h _, episode, fills, left⟩
  · obtain ⟨fills, episode, left⟩ := State.onAe_finish (AE.refusalAnswer_gone (w := Work.start t.ae) head.headIn gone)
      head.1 head.2.2 rfl
    rw [ite_self] at left
    exact ⟨_, arrive_takes h _, episode, fills, left⟩
  · exact arrive_ae h ((if_pos (by rw [Work.start_st, head.headIn]; rfl)).trans (AE.allocate_head head.1 i))

/-- Settles O31: the completions, then the two orders. -/
theorem appendEndResults : Obligations.AppendEndResults := by
  refine ⟨⟨fun j rest s t h hq hj => ?_, fun s t h => arrive_takes h _⟩, fun i s t h => ⟨fun idle => ?_, fun busy => ?_⟩,
    fun i s t h => ?_⟩
  · obtain ⟨fills, episode, left⟩ := State.onAe_finish (AE.entryWriteDone_eq (w := Work.start t.ae) hq hj) hq rfl rfl
    exact ⟨_, arrive_takes h _, fills, episode, left⟩
  · exact arrive_ae h (if_neg (by rw [Work.start_st, idle]; exact Bool.false_ne_true))
  · exact arrive_ae_silent h (if_pos busy)
  · have result := AE.deleteOrder_eq i (Work.start t.ae)
    refine ⟨_, arrive_takes h _, State.onAe_only _ _, ?_, ?_, ⟨_, State.onAe_sends (congrArg Work.out result)⟩,
      fun j hj hs waits => ?_⟩ <;> rw [State.onAe_ae, result]
    · rfl
    · rfl
    · exact mem_nextPlacing waits (AE.deleted_marks hj hs waits)

end

/-! SUPPORT. The Retention Unit: evaluations, the steps of a release, recycles, the scan and the teardown (R131 to R147). -/

namespace Sys2Proof.Machine

/-! ### Events whose work is known -/

/-- A command at RU whose work is known. -/
theorem arrive_ru {c : Instr} {s t : State} {f : State → Work RU → Work RU} {ru : RU} {ms : List Instr} (h : Takes c s t)
    (hf : f t (Work.start t.ru) = ⟨ru, ms⟩) :
    arrive c s (fun t => t.onRu (f t)) = .next (({ t with ru := ru } : State).post (.core .ru) ms) := by
  rw [arrive_takes h, State.onRu, hf]

/-- A command at RU that sends nothing. -/
theorem arrive_ru_silent {c : Instr} {s t : State} {f : State → Work RU → Work RU} {ru : RU} (h : Takes c s t)
    (hf : f t (Work.start t.ru) = ⟨ru, []⟩) : arrive c s (fun t => t.onRu (f t)) = .next { t with ru := ru } :=
  (arrive_ru h hf).trans (congrArg Host.Outcome.next (State.post_nil _ _))

theorem State.onRu_sends {t : State} {f : Work RU → Work RU} {ms : List Instr} (h : (f (Work.start t.ru)).out = ms) :
    Sends (.core .ru) t (t.onRu f) ms := by
  rw [Sends, State.onRu_wires, h]

/-! ### Release records -/

@[simp] theorem RU.on_rec (u : RU) (i : StreamId) (f : Release → Release) : (u.on i f).recs[i] = f u.recs[i] := upd_self _ _ _

theorem RU.on_rec_ne (u : RU) {i x : StreamId} (f : Release → Release) (h : x ≠ i) : (u.on i f).recs[x] = u.recs[x] :=
  upd_ne _ _ h

theorem RU.on_on (u : RU) (i : StreamId) (f g : Release → Release) : (u.on i f).on i g = u.on i fun r => g (f r) := by
  rw [RU.on, RU.on, RU.on, upd_upd]

/-! ### Evaluations (R132, R133, R136 to R138) -/

theorem RU.trigger_idle {i : StreamId} {w : Work RU} (hp : w.st.recs[i].phase = .idle) (ht : w.st.recs[i].teardown = false)
    (hr : w.st.recs[i].recycleWanted = false) : RU.trigger i w = RU.evaluate i w := by
  simp only [RU.trigger, hp, ht, hr]
  rfl

theorem RU.trigger_busy {i : StreamId} {w : Work RU}
    (h : w.st.recs[i].phase ≠ .idle ∨ w.st.recs[i].teardown = true ∨ w.st.recs[i].recycleWanted = true) :
    RU.trigger i w = RU.change i (fun r => { r with reevaluate := true }) w := by
  refine if_neg ?_
  rw [Bool.and_eq_true, Bool.and_eq_true, decide_eq_true_eq, Bool.not_eq_true', Bool.not_eq_true']
  rintro ⟨⟨idle, noTeardown⟩, noRecycle⟩
  rcases h with e | e | e
  · exact e idle
  · exact Bool.false_ne_true (noTeardown.symm.trans e)
  · exact Bool.false_ne_true (noRecycle.symm.trans e)

/-- The record when one more answer has come in. -/
def RU.taken (i : StreamId) (part : EvalPart) (u : RU) : RU := u.on i (Release.take part)

theorem RU.evaluationAnswer_evaluating {clock : Clock} {i : StreamId} {part : EvalPart} {u : RU}
    (h : u.recs[i].phase = .evaluating) : RU.evaluationAnswer clock i part (Work.start u) =
      RU.decide clock i ⟨u.taken i part, []⟩ := if_pos h

/-- An answer of an evaluation that others are missing for is kept (R133). -/
theorem RU.decide_waits {clock : Clock} {i : StreamId} {w : Work RU}
    (h : w.st.recs[i].view = none ∨ w.st.recs[i].head = none ∨ w.st.recs[i].floor = none) : RU.decide clock i w = w := by
  unfold RU.decide
  dsimp only
  rcases h with e | e | e
  · rw [e]
  · rw [e]
    cases w.st.recs[i].view <;> rfl
  · rw [e]
    cases w.st.recs[i].view <;> cases w.st.recs[i].head <;> rfl

section Decide

variable {clock : Clock} {i : StreamId} {w : Work RU} {v : ViewInfo} {h : HeadAnswer} {f : Option Seq}
  (hv : w.st.recs[i].view = some v) (hh : w.st.recs[i].head = some h) (hf : w.st.recs[i].floor = some f)

include hv hh hf

/-- The three answers decide for a release (R138). -/
theorem RU.decide_releases {p : HeadPage} {k : RelKind} (hp : h.page = some p) (hd : decision clock v p f = some k) :
    RU.decide clock i w = RU.beginMarking i k p w := by
  simp only [RU.decide, hv, hh, hf, hp, hd]

/-- The three answers decide for none (R138). -/
theorem RU.decide_none (hd : ∀ p, h.page = some p → decision clock v p f = none) :
    RU.decide clock i w = RU.choose i false (v.state = .deleting) w := by
  simp only [RU.decide, hv, hh, hf]
  cases hp : h.page with
  | none => rfl
  | some p => simp only [hd p hp]

end Decide

/-- The decision of R138, by the conditions of R136 and R137. -/
theorem decision_eq {clock : Clock} {v : ViewInfo} {p : HeadPage} {f : Option Seq} (hs : v.state = .opened ∨ v.state = .sealed) :
    decision clock v p f =
      if normalTest v p f = true then some .normal else if ageTest clock v p = true then some .age else none := by
  unfold decision
  rcases hs with e | e <;> rw [e] <;> rfl

theorem decision_some {clock : Clock} {v : ViewInfo} {p : HeadPage} {f : Option Seq} {k : RelKind}
    (hs : v.state = .opened ∨ v.state = .sealed) (may : MayBeReleased v p)
    (hk : (k = .normal ∧ p.record.lastSeq < normalBound v f) ∨
      (k = .age ∧ normalBound v f ≤ p.record.lastSeq ∧ PastItsAge clock v p)) : decision clock v p f = some k := by
  rw [decision_eq hs]
  rcases hk with ⟨rfl, below⟩ | ⟨rfl, above, past⟩
  · exact if_pos ((normalTest_iff v p f).2 ⟨may, below⟩)
  · rw [if_neg (mt (normalTest_iff v p f).1 fun e => Nat.not_lt.2 above e.2)]
    exact if_pos ((ageTest_iff clock v p).2 ⟨may, past⟩)

theorem decision_none {clock : Clock} {v : ViewInfo} {p : HeadPage} {f : Option Seq}
    (h : v.state = .deleting ∨ v.state = .absent ∨
      (¬ MayBeReleased v p ∨ (normalBound v f ≤ p.record.lastSeq ∧ ¬ PastItsAge clock v p))) :
    decision clock v p f = none := by
  have tests (stays : ¬ MayBeReleased v p ∨ (normalBound v f ≤ p.record.lastSeq ∧ ¬ PastItsAge clock v p)) :
      ¬ normalTest v p f = true ∧ ¬ ageTest clock v p = true := by
    rw [normalTest_iff, ageTest_iff]
    rcases stays with e | ⟨above, young⟩
    · exact ⟨fun t => e t.1, fun t => e t.1⟩
    · exact ⟨fun t => Nat.not_lt.2 above t.2, fun t => young t.2⟩
  unfold decision
  rcases h with e | e | e
  · rw [e]
    rfl
  · rw [e]
    rfl
  · rw [if_neg (tests e).1, if_neg (tests e).2, ite_self]

/-- What the choice of a stream's next work leaves after an event at RU (R143). -/
theorem State.onRu_choose {t : State} {f : Work RU → Work RU} {i : StreamId} {ended deleting : Bool} {w : Work RU}
    (h : f (Work.start t.ru) = RU.choose i ended deleting w) {again : Bool}
    (ha : (!deleting && (ended || w.st.recs[i].reevaluate)) = again)
    (others : ∀ x, x ≠ i → w.st.recs[x] = t.ru.recs[x]) (ht : w.st.recs[i].teardown = t.ru.recs[i].teardown)
    (hw : w.st.recs[i].recycleWanted = t.ru.recs[i].recycleWanted) :
    (∀ x, x ≠ i → (t.onRu f).ru.recs[x] = t.ru.recs[x]) ∧ (t.onRu f).ru.recs[i].kind = none ∧
      (t.onRu f).ru.recs[i].page = none ∧ (t.onRu f).ru.recs[i].teardown = t.ru.recs[i].teardown ∧
      (t.onRu f).ru.recs[i].phase = (if nextOfRelease i t.ru.recs[i] again = [] then .idle else .evaluating) ∧
      Sends (.core .ru) t (t.onRu f) (w.out ++ nextOfRelease i t.ru.recs[i] again) := by
  subst ha
  obtain ⟨out, frame, kind, page, teardown, phase⟩ := RU.choose_spec i ended deleting w
    (next := nextOfRelease i t.ru.recs[i] (!deleting && (ended || w.st.recs[i].reevaluate)))
    (nextOfRelease_congr i _ ht.symm hw.symm)
  rw [State.onRu_ru, h]
  exact ⟨fun x hx => (frame x hx).trans (others x hx), kind, page, teardown.trans ht, phase,
    State.onRu_sends (by rw [h, out])⟩

/-! ### The steps of a release (R139 to R143) -/

section Steps

variable {i : StreamId} {w : Work RU} {m : Seq} {k : RelKind} {p : RelPage}

theorem RU.markAnswer_eq (hp : w.st.recs[i].phase = .marking) (hm : w.st.recs[i].m = some m) (hk : w.st.recs[i].kind = some k) :
    RU.markAnswer i w = (RU.change i (fun r => { r with phase := .advancing }) w).send (.advanceOrder i m k) := by
  simp only [RU.markAnswer, hp, hm, hk]

theorem RU.advanceAnswer_eq {done deleting : Bool} (hp : w.st.recs[i].phase = .advancing) (hm : w.st.recs[i].m = some m)
    (hk : w.st.recs[i].kind = some k) (hg : w.st.recs[i].page = some p) : RU.advanceAnswer i done deleting w =
      if done = true then (RU.change i (fun r => { r with phase := .raising }) w).sendAll
        (.headRaise i m :: if k = .normal then [] else [.counterUpdate i (.dropped (droppedBy p))])
      else RU.choose i true deleting (w.send (.releaseMarkClear i)) := by
  simp only [RU.advanceAnswer, hp, hm, hk, hg]

theorem RU.raiseAnswer_eq (hp : w.st.recs[i].phase = .raising) (hg : w.st.recs[i].page = some p) :
    RU.raiseAnswer i w = (RU.change i (fun r => { r with phase := .clearing }) w).send (.slotClear i p.lpn) := by
  simp only [RU.raiseAnswer, hp, hg]

theorem RU.clearDone_eq (hp : w.st.recs[i].phase = .clearing) (hg : w.st.recs[i].page = some p)
    (hk : w.st.recs[i].kind = some k) : RU.clearDone i p.lpn w =
      (RU.change i (fun r => { r with phase := .returning }) w).send (.handOver i p.ppn k) := by
  simp only [RU.clearDone, hp, hg, hk, if_true]

theorem RU.pageReturned_eq {deleting : Bool} (hp : w.st.recs[i].phase = .returning) (hg : w.st.recs[i].page = some p)
    (hk : w.st.recs[i].kind = some k) : RU.pageReturned i p.ppn deleting w =
      RU.choose i true deleting ⟨w.st, w.out ++ if k = .delete then [] else [.releaseMarkClear i]⟩ := by
  simp only [RU.pageReturned, hp, hg, hk, if_true, Option.some.injEq]
  split
  · rw [List.append_nil]
  · rfl

end Steps

end Sys2Proof.Machine

/-! The statements about evaluations and releases. -/

section
open Sys2Proof Sys2Proof.Machine

/-- Settles O32: a trigger by the record that it meets, an answer by what is still missing, and the decision. -/
theorem evaluationResults : Obligations.EvaluationResults := by
  refine ⟨fun i s t h => ⟨fun idle noTeardown noRecycle => ?_, fun busy => arrive_ru_silent h (RU.trigger_busy busy)⟩,
    fun i part s t h => ⟨fun other => arrive_ru_silent h (if_neg other), fun evaluating missing => ?_⟩,
    fun i part v st p f k s t h evaluating hv hh hf live may hk => ?_,
    fun i part v head f s t h evaluating hv hh hf none => ?_⟩
  · have result := RU.trigger_idle (w := Work.start t.ru) idle noTeardown noRecycle
    refine ⟨_, arrive_takes h _, State.onRu_only _ _, ?_, ?_, State.onRu_sends (congrArg Work.out result)⟩ <;>
      rw [State.onRu_ru, result]
    · exact congrArg Release.phase (RU.on_rec t.ru i _)
    · exact congrArg Release.reevaluate (RU.on_rec t.ru i _)
  all_goals
    have taken := RU.on_rec t.ru i (Release.take part)
    have result := RU.evaluationAnswer_evaluating (clock := t.tb.clock) (part := part) evaluating
  · refine arrive_ru_silent h (result.trans (RU.decide_waits ?_))
    change (t.ru.on i (Release.take part)).recs[i].view = none ∨ (t.ru.on i (Release.take part)).recs[i].head = none ∨
      (t.ru.on i (Release.take part)).recs[i].floor = none
    rwa [taken]
  · rw [← taken] at hv hh hf
    have begins := result.trans (RU.decide_releases (w := ⟨t.ru.taken i part, []⟩) hv hh hf rfl (decision_some live may hk))
    have record := RU.on_rec (t.ru.taken i part) i (Release.begin k .marking p)
    refine ⟨_, arrive_takes h _, State.onRu_only _ _, fun x hx => ?_, ?_, ?_, ?_, ?_, State.onRu_sends (congrArg Work.out begins)⟩ <;>
      rw [State.onRu_ru, begins]
    · exact (RU.on_rec_ne _ _ hx).trans (RU.on_rec_ne _ _ hx)
    · exact (congrArg Release.phase record).trans rfl
    · exact (congrArg Release.kind record).trans rfl
    · exact (congrArg Release.m record).trans rfl
    · exact (congrArg Release.page record).trans rfl
  · obtain ⟨teardown, recycle, reevaluate, -⟩ := Release.take_keeps part t.ru.recs[i]
    rw [← taken] at hv hh hf teardown recycle reevaluate
    have chooses := result.trans (RU.decide_none (w := ⟨t.ru.taken i part, []⟩) hv hh hf fun p hp => decision_none
      (none.imp_right fun e => e.imp_right fun e => e p hp))
    obtain ⟨others, kind, page, -, phase, sends⟩ := State.onRu_choose chooses
      (again := v.state ≠ .deleting && t.ru.recs[i].reevaluate) (by rw [← reevaluate, Bool.false_or, decide_not]; rfl)
      (fun x hx => RU.on_rec_ne _ _ hx) teardown recycle
    exact ⟨_, arrive_takes h _, State.onRu_only _ _, others, kind, page, phase, sends⟩

/-- Settles O33: each step by the answer that it waits for, then the choice of the next work. -/
theorem releaseResults : Obligations.ReleaseResults := by
  refine ⟨fun i m k p s t hm hk hg => ⟨fun h hp => ?_, fun h hp notDelete => ?_, fun h hp => ?_, fun h hp => ?_⟩,
    fun c i m k p s t h hm hk hg hc => ?_⟩
  · exact arrive_ru h (RU.markAnswer_eq hp hm hk)
  · exact arrive_ru h ((RU.advanceAnswer_eq hp hm hk hg).trans (if_pos rfl))
  · exact arrive_ru h (RU.raiseAnswer_eq hp hg)
  · exact arrive_ru h (RU.clearDone_eq hp hg hk)
  · rcases hc with ⟨rfl, hp⟩ | ⟨rfl, hp, notDelete⟩
    · have chooses := RU.pageReturned_eq (deleting := t.deleting i) (w := Work.start t.ru) hp hg hk
      obtain ⟨others, kind, page, teardown, -, sends⟩ := State.onRu_choose chooses (again := !t.deleting i)
        (by rw [Bool.true_or, Bool.and_true]) (fun _ _ => rfl) rfl rfl
      exact ⟨_, arrive_takes h _, State.onRu_only _ _, others, page, kind, teardown, sends⟩
    · have chooses := (RU.advanceAnswer_eq (done := false) (deleting := t.deleting i) (w := Work.start t.ru) hp hm hk hg).trans
        (if_neg Bool.false_ne_true)
      obtain ⟨others, kind, page, teardown, -, sends⟩ := State.onRu_choose chooses (again := !t.deleting i)
        (by rw [Bool.true_or, Bool.and_true]) (fun _ _ => rfl) rfl rfl
      rw [if_neg notDelete]
      exact ⟨_, arrive_takes h _, State.onRu_only _ _, others, page, kind, teardown, sends⟩

end

/-! SUPPORT. The Retention Unit: recycles, the age scan and the teardown of a stream (R144 to R147). -/

namespace Sys2Proof.Machine

section Recycle

variable {i : StreamId} {w : Work RU} {h : HeadAnswer}

theorem RU.recycleRequest_idle (hp : w.st.recs[i].phase = .idle) (ht : w.st.recs[i].teardown = false) :
    RU.recycleRequest i w = RU.recycle i w := by
  simp only [RU.recycleRequest, hp, ht]
  rfl

theorem RU.recycleRequest_busy (hb : w.st.recs[i].phase ≠ .idle ∨ w.st.recs[i].teardown = true) :
    RU.recycleRequest i w = RU.change i (fun r => { r with recycleWanted := true }) w := by
  refine if_neg ?_
  rw [Bool.and_eq_true, decide_eq_true_eq, Bool.not_eq_true']
  rintro ⟨idle, noTeardown⟩
  rcases hb with e | e
  · exact e idle
  · exact Bool.false_ne_true (noTeardown.symm.trans e)

/-- A head page below the tail of a stream that is not DELETING is recycled (R144). -/
theorem RU.recycleHead_page {p : HeadPage} (hw : w.st.recs[i].phase = .evaluating) (hp : h.page = some p)
    (hs : h.state ≠ .deleting) (below : p.head < p.tail) : RU.recycleHead i h w = RU.beginMarking i .recycle p w := by
  have goes : (Decidable.decide (h.state = .deleting) || Decidable.decide (p.tail ≤ p.head)) = false := by
    rw [Bool.or_eq_false_iff, decide_eq_false_iff_not, decide_eq_false_iff_not]
    exact ⟨hs, Nat.not_le.2 below⟩
  simp only [RU.recycleHead, hw, hp, goes, Bool.false_eq_true, if_false, ne_eq, not_true_eq_false]

theorem RU.recycleHead_noPage (hw : w.st.recs[i].phase = .evaluating)
    (hn : h.state = .deleting ∨ ∀ p, h.page = some p → p.tail ≤ p.head) :
    RU.recycleHead i h w = RU.choose i false (h.state = .deleting) (w.send (.noPage i)) := by
  simp only [RU.recycleHead, hw, ne_eq, not_true_eq_false, if_false]
  cases hp : h.page with
  | none => rfl
  | some p =>
    refine if_pos ?_
    rw [Bool.or_eq_true, decide_eq_true_eq, decide_eq_true_eq]
    exact hn.imp_right fun e => e p hp

end Recycle

/-- The scan triggers every stream that it lists, each once (R145). -/
theorem RU.scanAnswer_idle {ids : List StreamId} (distinct : ids.Nodup) {w : Work RU}
    (idle : ∀ i ∈ ids, w.st.recs[i].phase = .idle ∧ w.st.recs[i].teardown = false ∧ w.st.recs[i].recycleWanted = false) :
    (RU.scanAnswer ids w).out =
        w.out ++ (ids.flatMap fun i => [.viewQuestion i, .headRead i .evaluation, .floorQuestion i]) ∧
      (∀ i ∈ ids, (RU.scanAnswer ids w).st.recs[i].phase = .evaluating) ∧
      ∀ i, i ∉ ids → (RU.scanAnswer ids w).st.recs[i] = w.st.recs[i] := by
  induction ids generalizing w with
  | nil => exact ⟨(List.append_nil _).symm, fun i hi => absurd hi List.not_mem_nil, fun _ _ => rfl⟩
  | cons i ids ih =>
    obtain ⟨fresh, distinct⟩ := List.nodup_cons.1 distinct
    obtain ⟨hp, ht, hr⟩ := idle i (List.mem_cons_self ..)
    have first : RU.scanAnswer (i :: ids) w = RU.scanAnswer ids (RU.evaluate i w) :=
      congrArg (RU.scanAnswer ids) (RU.trigger_idle hp ht hr)
    have kept {x : StreamId} (hx : x ≠ i) : (RU.evaluate i w).st.recs[x] = w.st.recs[x] := RU.on_rec_ne _ _ hx
    have began : (RU.evaluate i w).st.recs[i].phase = .evaluating := congrArg Release.phase (RU.on_rec w.st i _)
    obtain ⟨out, phases, others⟩ := ih distinct (w := RU.evaluate i w) fun x hx => by
      rw [kept fun e => fresh (e ▸ hx)]
      exact idle x (List.mem_cons_of_mem _ hx)
    rw [first]
    refine ⟨?_, fun x hx => ?_, fun x hx => ?_⟩
    · rw [out, List.flatMap_cons, ← List.append_assoc]
      rfl
    · rcases List.mem_cons.1 hx with rfl | hx
      · rw [others x fresh, began]
      · exact phases x hx
    · obtain ⟨ne, hx⟩ := not_or.1 (mt List.mem_cons.2 hx)
      rw [others x hx, kept ne]

section Teardown

variable {i : StreamId} {w : Work RU} {h : HeadAnswer}

theorem RU.handover_idle (hp : w.st.recs[i].phase = .idle) :
    RU.handover i w = RU.teardown i (RU.change i (fun r => { r with teardown := true }) w) := by
  simp only [RU.handover, hp, if_true]

theorem RU.handover_busy (hp : w.st.recs[i].phase ≠ .idle) :
    RU.handover i w = RU.change i (fun r => { r with teardown := true }) w := by
  simp only [RU.handover, hp, if_false]

theorem RU.teardownHead_eq (hp : w.st.recs[i].phase = .evaluating) (ht : w.st.recs[i].teardown = true) :
    RU.teardownHead i h w = match h.page with
      | none => w.send (.heldQuestion i .ru)
      | some p => (RU.change i (Release.begin .delete .raising p) w).send (.headRaise i (p.record.lastSeq + 1)) := by
  simp only [RU.teardownHead, hp, ht, decide_true, Bool.and_self, if_true] <;> rfl

theorem RU.heldAnswer_none (hp : w.st.recs[i].phase = .evaluating) (ht : w.st.recs[i].teardown = true) :
    RU.heldAnswer i 0 w = (RU.change i (fun _ => noRelease) w).send (.emptiedReport i) := by
  simp only [RU.heldAnswer, hp, ht, decide_true, Bool.and_self, if_true]

end Teardown

end Sys2Proof.Machine

/-! The statement about recycles, the scan and the teardown. -/

section
open Sys2Proof Sys2Proof.Machine

/-- Settles O34: each request by the record that it meets, each head read by the page that it brings. -/
theorem recycleScanAndTeardownResults : Obligations.RecycleScanAndTeardownResults := by
  refine ⟨⟨fun i s t h => ⟨fun idle noTeardown => ?_, fun busy => arrive_ru_silent h (RU.recycleRequest_busy busy)⟩,
    fun i head s t h hp => ⟨fun p page notDeleting below => ?_, fun nothing => ?_⟩, fun d s t h scan => ?_,
    fun ids s t h rising idle => ?_⟩, fun i s t h => ⟨fun idle => ?_, fun busy => arrive_ru_silent h (RU.handover_busy busy)⟩,
    fun i head s t h hp ht => ⟨fun none => ?_, fun p page => ?_⟩, fun i s t h hp ht => ?_⟩
  · have result := RU.recycleRequest_idle (w := Work.start t.ru) idle noTeardown
    refine ⟨_, arrive_takes h _, State.onRu_only _ _, ?_, State.onRu_sends (congrArg Work.out result)⟩
    rw [State.onRu_ru, result]
    exact congrArg Release.phase (RU.on_rec t.ru i _)
  · have begins := RU.recycleHead_page (w := Work.start t.ru) hp page notDeleting below
    have record := RU.on_rec t.ru i (Release.begin .recycle .marking p)
    refine ⟨_, arrive_takes h _, State.onRu_only _ _, ?_, ?_, ?_, ?_, State.onRu_sends (congrArg Work.out begins)⟩ <;>
      rw [State.onRu_ru, begins]
    · exact (congrArg Release.phase record).trans rfl
    · exact (congrArg Release.kind record).trans rfl
    · exact (congrArg Release.m record).trans rfl
    · exact (congrArg Release.page record).trans rfl
  · have chooses := RU.recycleHead_noPage (w := Work.start t.ru) hp nothing
    obtain ⟨-, kind, page, -, -, sends⟩ := State.onRu_choose chooses
      (again := head.state ≠ .deleting && t.ru.recs[i].reevaluate) (by rw [Bool.false_or, decide_not]; rfl)
      (fun _ _ => rfl) rfl rfl
    exact ⟨_, arrive_takes h _, State.onRu_only _ _, kind, page, sends⟩
  · exact arrive_ru h (if_pos scan)
  · obtain ⟨out, phases, others⟩ := RU.scanAnswer_idle (w := Work.start t.ru) (rising.imp fun lt => Fin.ne_of_lt lt) idle
    exact ⟨_, arrive_takes h _, State.onRu_only _ _, phases, others, State.onRu_sends out⟩
  · have result := RU.handover_idle (w := Work.start t.ru) idle
    have record := congrArg (fun u : RU => u.recs[i]) (RU.on_on t.ru i (fun r => { r with teardown := true }) Release.asking)
    rw [RU.on_rec t.ru i] at record
    refine ⟨_, arrive_takes h _, State.onRu_only _ _, ?_, ?_, State.onRu_sends (congrArg Work.out result)⟩ <;>
      rw [State.onRu_ru, result]
    · exact (congrArg Release.phase record).trans rfl
    · exact (congrArg Release.teardown record).trans rfl
  · have result := RU.teardownHead_eq (h := head) (w := Work.start t.ru) hp ht
    rw [none] at result
    exact arrive_ru h result
  · have result := RU.teardownHead_eq (h := head) (w := Work.start t.ru) hp ht
    rw [page] at result
    have record := RU.on_rec t.ru i (Release.begin .delete .raising p)
    refine ⟨_, arrive_takes h _, State.onRu_only _ _, ?_, ?_, ?_, State.onRu_sends (congrArg Work.out result)⟩ <;>
      rw [State.onRu_ru, result]
    · exact (congrArg Release.phase record).trans rfl
    · exact (congrArg Release.kind record).trans rfl
    · exact (congrArg Release.page record).trans rfl
  · exact arrive_ru h (RU.heldAnswer_none hp ht)

end

/-! SUPPORT. The Memory Port: its class queues and what the arbiter grants (R195 to R197). -/

namespace Sys2Proof.Machine

/-! ### The class queues -/

theorem MP.queue_setQueue (m : MP) (c x : MpClass) (q : List MpOp) :
    (m.setQueue c q).queue x = if x = c then q else m.queue x := by
  cases c <;> cases x <;> rfl

@[simp] theorem MP.setQueue_busy (m : MP) (c : MpClass) (q : List MpOp) : (m.setQueue c q).busy = m.busy := by
  cases c <;> rfl

@[simp] theorem MP.setQueue_last (m : MP) (c : MpClass) (q : List MpOp) : (m.setQueue c q).last = m.last := by
  cases c <;> rfl

@[simp] theorem MP.setQueue_calibrated (m : MP) (c : MpClass) (q : List MpOp) :
    (m.setQueue c q).calibrated = m.calibrated := by
  cases c <;> rfl

/-- A queue that is set to what it is stays as it is. -/
theorem MP.setQueue_setQueue_same {m : MP} {c : MpClass} {q q' : List MpOp} (h : m.queue c = q') :
    (m.setQueue c q).setQueue c q' = m := by
  subst h
  cases c <;> rfl

/-! ### Grants (R197) -/

theorem MP.grant_busy {m : MP} (h : m.busy ≠ none) : m.grant = m := by
  unfold MP.grant
  cases hb : m.busy with
  | none => exact absurd hb h
  | some op => rfl

/-- The arbiter grants the head of the first class that waits. -/
theorem MP.grant_takes {m : MP} {x : MpClass} {first : MpOp} {rest : List MpOp} (hb : m.busy = none)
    (hx : ((classesAfter m.last).find? fun c => !(m.queue c).isEmpty) = some x) (hq : m.queue x = first :: rest) :
    m.grant = { m.setQueue x rest with busy := some first, last := x } := by
  simp only [MP.grant, hb, hx, hq]
  rfl

theorem MP.grant_idle {m : MP} (h : ∀ c, m.queue c = []) : m.grant = m := by
  have none : ((classesAfter m.last).find? fun c => !(m.queue c).isEmpty) = Option.none :=
    List.find?_eq_none.2 fun c _ => by simp [h c]
  unfold MP.grant
  rw [none]
  cases m.busy <;> rfl

/-- The classes in the order in which the arbiter looks at them. -/
theorem classesAfter_of_mem {l a b c : MpClass}
    (h : [l, a, b, c] ∈ [[MpClass.map, .appendWrite, .deliveryRead, .map],
      [.appendWrite, .deliveryRead, .map, .appendWrite], [.deliveryRead, .map, .appendWrite, .deliveryRead]]) :
    classesAfter l = [a, b, c] := by
  simp only [List.mem_cons, List.cons.injEq, List.not_mem_nil, or_false, and_true] at h
  rcases h with ⟨rfl, rfl, rfl, rfl⟩ | ⟨rfl, rfl, rfl, rfl⟩ | ⟨rfl, rfl, rfl, rfl⟩ <;> rfl

/-- With one class that waits the arbiter finds this one, whichever it has granted last. -/
theorem classesAfter_single (l c : MpClass) {p : MpClass → Bool} (hc : p c = true) (ho : ∀ x, x ≠ c → p x = false) :
    (classesAfter l).find? p = some c := by
  have mem : c ∈ classesAfter l := by cases l <;> cases c <;> decide
  obtain ⟨x, hx⟩ := Option.isSome_iff_exists.1 (List.find?_isSome.2 ⟨c, mem, hc⟩)
  rw [hx]
  refine congrArg some (Classical.byContradiction fun ne => ?_)
  exact Bool.false_ne_true ((ho x ne).symm.trans (List.find?_some hx))

/-- An operation that is issued at an idle DRAM with nothing waiting is performed at once (R197). -/
theorem MP.issue_idle {op : MpOp} {m : MP} (hb : m.busy = none) (h : ∀ c, m.queue c = []) :
    MP.issue op m = { m with busy := some op, last := classOf op.ref } := by
  have queue (x : MpClass) : (m.setQueue (classOf op.ref) [op]).queue x = if x = classOf op.ref then [op] else [] := by
    rw [MP.queue_setQueue, h]
  have first : ((classesAfter (m.setQueue (classOf op.ref) [op]).last).find? fun c =>
      !((m.setQueue (classOf op.ref) [op]).queue c).isEmpty) = some (classOf op.ref) :=
    classesAfter_single _ _ (by rw [queue, if_pos rfl]; rfl) fun x hx => by rw [queue, if_neg hx]; rfl
  have granted := MP.grant_takes (rest := []) ((MP.setQueue_busy _ _ _).trans hb) first ((queue _).trans (if_pos rfl))
  rw [MP.setQueue_setQueue_same (h _)] at granted
  rw [MP.issue, h, List.nil_append]
  exact granted

/-- A grant leaves the calibration. -/
@[simp] theorem MP.grant_calibrated (m : MP) : m.grant.calibrated = m.calibrated := by
  unfold MP.grant
  split
  · rfl
  · split
    · rfl
    · exact MP.setQueue_calibrated _ _ _

/-- MP once an operation is finished, before the next is granted. -/
def MP.finished (op : MpOp) (m : MP) : MP := { m with busy := none, dram := m.dram.perform op }

theorem MP.finished_queue (op : MpOp) (m : MP) (c : MpClass) : (m.finished op).queue c = m.queue c := by
  cases c <;> rfl

/-- The class that waits first in the arbiter's order. -/
theorem find_waiting {q : MpClass → List MpOp} {a b c x : MpClass} {first : MpOp} {rest : List MpOp}
    (h : (x = a ∧ q a = first :: rest) ∨ (x = b ∧ q a = [] ∧ q b = first :: rest) ∨
      (x = c ∧ q a = [] ∧ q b = [] ∧ q c = first :: rest)) :
    ([a, b, c].find? fun y => !(q y).isEmpty) = some x ∧ q x = first :: rest := by
  rcases h with ⟨rfl, ha⟩ | ⟨rfl, ha, hb⟩ | ⟨rfl, ha, hb, hc⟩
  · exact ⟨List.find?_cons_of_pos (by simp [ha]), ha⟩
  · exact ⟨by simp [ha, hb], hb⟩
  · exact ⟨by simp [ha, hb, hc], hc⟩

/-- The operation that the DRAM has finished, by whether it lies in the DRAM (R194). -/
theorem exec_mpOperationFinished {op : MpOp} {s t : State} (h : Takes .mpOperationFinished s t) (busy : t.mp.busy = some op) :
    exec .mpOperationFinished s =
      if reaches t.dev.memsize op = true then .next (t.onMp (MP.finish op)) else .fault .noSuchAddress := by
  obtain ⟨received, kept⟩ := h
  have finishes : exec .mpOperationFinished s = t.finishOperation := by
    change execMpOperationFinished s = _
    rw [execMpOperationFinished, received]
    simp only [kept, Bool.false_eq_true, if_false]
  rw [finishes, State.finishOperation, busy]

end Sys2Proof.Machine

/-! The statement about the Memory Port. -/

section
open Sys2Proof Sys2Proof.Machine

/-- Settles O54: the queue that an operation joins, what a finished one moves, and the grant behind it. -/
theorem memoryPortResults : Obligations.MemoryPortResults := by
  refine ⟨fun op s t h => ⟨fun busy => ?_, fun idle noAppend noDelivery noMap => ?_⟩,
    fun op s t h busy => ⟨fun outside => ?_, fun inside => ?_⟩⟩
  · have kept : (MP.issue op t.mp) = t.mp.setQueue (classOf op.ref) (t.mp.queue (classOf op.ref) ++ [op]) :=
      MP.grant_busy (by rwa [MP.setQueue_busy])
    refine ⟨_, arrive_takes h _, by simp [State.onMp, State.post], ?_⟩
    change (MP.issue op t.mp).busy = _ ∧ (MP.issue op t.mp).last = _ ∧ (MP.issue op t.mp).dram = _ ∧
      (MP.issue op t.mp).calibrated = _ ∧ ∀ c, (MP.issue op t.mp).queue c = _
    rw [kept]
    refine ⟨MP.setQueue_busy _ _ _, MP.setQueue_last _ _ _, MP.setQueue_dram _ _ _, MP.setQueue_calibrated _ _ _, fun c => ?_⟩
    rw [MP.queue_setQueue]
    by_cases hc : c = classOf op.ref
    · rw [if_pos hc, if_pos hc, hc]
    · rw [if_neg hc, if_neg hc, List.append_nil]
  · have queues (c : MpClass) : t.mp.queue c = [] := by
      cases c with
      | appendWrite => exact noAppend
      | deliveryRead => exact noDelivery
      | map => exact noMap
    refine (arrive_takes h _).trans (congrArg Host.Outcome.next ?_)
    rw [State.onMp, Work.mod_out, Work.start_out, State.post_nil, Work.mod_st, Work.start_st, MP.issue_idle idle queues]
  · rw [exec_mpOperationFinished h busy, if_neg (by rw [outside]; exact Bool.false_ne_true)]
  · have mp : (t.onMp (MP.finish op)).mp = (t.mp.finished op).grant := rfl
    have dram : (t.onMp (MP.finish op)).mp.dram = t.mp.dram.perform op := by rw [mp, MP.grant_dram]; rfl
    refine ⟨t.onMp (MP.finish op), by rw [exec_mpOperationFinished h busy, if_pos inside], by simp [State.onMp, State.post],
      by rw [mp, MP.grant_calibrated]; rfl, fun writes => ⟨?_, fun k hk => ?_, fun a ha => ?_⟩, fun a ha => ?_,
      fun reads => ⟨?_, ?_⟩, fun empty => ?_, fun a b c first rest order x hx => ?_⟩
    · have result : t.mp.dram.result op = [] := by rw [Dram.result, if_pos writes]
      rw [Sends, State.onMp_wires, ← result]
      rfl
    · rw [dram, Dram.perform, if_pos writes, Dram.byte_write_inside]
    · rw [dram, Dram.perform, if_pos writes, Dram.byte_write_outside _ _ _ _ ha]
    · rw [dram] at ha
      exact Dram.perform_page inside _ _ ha
    · rw [dram, Dram.perform, if_neg (by rw [reads]; exact Bool.false_ne_true)]
    · have result : t.mp.dram.result op = (List.range op.len).map fun k => t.mp.dram.byte (addressOf op + k) := by
        rw [Dram.result, if_neg (by rw [reads]; exact Bool.false_ne_true), Dram.read]
      rw [Sends, State.onMp_wires, ← result]
      rfl
    · rw [mp, MP.grant_idle fun c => (MP.finished_queue op t.mp c).trans (empty c)]
      exact ⟨rfl, rfl, fun c => (MP.finished_queue op t.mp c).trans (empty c)⟩
    · obtain ⟨found, queue⟩ := find_waiting hx
      have waits : ((classesAfter (t.mp.finished op).last).find? fun c => !((t.mp.finished op).queue c).isEmpty) = some x := by
        simp only [MP.finished_queue]
        exact (congrArg (List.find? _) (classesAfter_of_mem order)).trans found
      rw [mp, MP.grant_takes rfl waits ((MP.finished_queue op t.mp x).trans queue)]
      have after (y : MpClass) : ({ (t.mp.finished op).setQueue x rest with busy := some first, last := x } : MP).queue y =
          if y = x then rest else t.mp.queue y := by
        rw [← MP.finished_queue op t.mp y, ← MP.queue_setQueue]
        cases y <;> rfl
      exact ⟨rfl, rfl, (after x).trans (if_pos rfl), fun y hy => (after y).trans (if_neg hy)⟩

end

/-! SUPPORT. The framer on a frame as the transmitter builds it (R179 to R181, R190), and what stands in DRAM read back (R44, R64). -/

namespace Sys2Proof.Machine

/-- What the CRC-16 of a frame covers: all but its sync byte and the CRC-16 itself (R190). -/
def coveredBytes (kind tag : Byte) (body : List Byte) : List Byte := [kind, tag] ++ encode 2 body.length ++ body

theorem frameBytes_eq (kind tag : Byte) (body : List Byte) : frameBytes kind tag body =
    syncByte :: (coveredBytes kind tag body ++ encode 2 (crc16 (coveredBytes kind tag body)).toNat) := rfl

/-- A frame begins with its sync byte, kind, tag and body length. -/
theorem frameBytes_split (kind tag : Byte) (body : List Byte) : ∃ hi lo, encode 2 body.length = [hi, lo] ∧
    frameBytes kind tag body =
      syncByte :: kind :: tag :: hi :: lo :: (body ++ encode 2 (crc16 (coveredBytes kind tag body)).toNat) :=
  ⟨_, _, rfl, rfl⟩

theorem checkFrame_matching {covered crc : List Byte} (h2 : crc.length = 2) (h : number crc = (crc16 covered).toNat) :
    checkFrame (covered ++ crc) = .good (covered.getD 0 (crc.getD 0 0)) ((covered ++ crc).getD 1 0) (covered.drop 4) := by
  have hn : (covered ++ crc).length - 2 = covered.length := by rw [List.length_append]; omega
  have h0 : (covered ++ crc).getD 0 0 = covered.getD 0 (crc.getD 0 0) := by cases covered <;> rfl
  unfold checkFrame
  simp only [hn, List.drop_left, List.take_left]
  rw [if_pos h, h0]

theorem checkFrame_other {covered crc : List Byte} (h2 : crc.length = 2) (h : number crc ≠ (crc16 covered).toNat) :
    checkFrame (covered ++ crc) = .badCrc := by
  have hn : (covered ++ crc).length - 2 = covered.length := by rw [List.length_append]; omega
  unfold checkFrame
  simp only [hn, List.drop_left, List.take_left]
  rw [if_neg h]

/-- The check passes what the transmitter builds, whole bodies of any length. -/
theorem checkFrame_built (kind tag : Byte) (body : List Byte) :
    checkFrame (frameBytes kind tag body).tail = .good kind tag body := by
  have crc : number (encode 2 (crc16 (coveredBytes kind tag body)).toNat) = (crc16 (coveredBytes kind tag body)).toNat := by
    rw [number_encode]; exact Nat.mod_eq_of_lt (crc16 (coveredBytes kind tag body)).isLt
  rw [frameBytes_eq, List.tail_cons, checkFrame_matching (encode_length ..) crc]
  rfl

theorem Framer.run_quiet {f g : Framer} {b : Byte} (h : f.take b = (g, none)) (rest : List Byte) :
    f.run (b :: rest) = g.run rest := by rw [Framer.run, h]

theorem Framer.run_event {f g : Framer} {b : Byte} {ev : FrameEvent} (h : f.take b = (g, some ev)) (rest : List Byte) :
    f.run (b :: rest) = (g, some ev, rest) := by rw [Framer.run, h]

/-- A body's bytes are stored, and the last leads to the check. -/
theorem Framer.run_body (body rest : List Byte) (f : Framer) (h : f.state = .body body.length) (hn : body ≠ []) :
    f.run (body ++ rest) = ({ f with state := .check 2, buf := f.buf ++ body } : Framer).run rest := by
  induction body generalizing f with
  | nil => exact absurd rfl hn
  | cons b tail ih =>
    cases tail with
    | nil =>
      refine Framer.run_quiet ?_ rest
      simp [Framer.take, h]
    | cons c more =>
      refine (Framer.run_quiet (g := { f with state := .body (c :: more).length, buf := f.buf ++ [b] }) ?_ _).trans ?_
      · simp [Framer.take, h]
      · refine (ih _ rfl (List.cons_ne_nil _ _)).trans ?_
        rw [List.append_assoc]
        rfl

/-- The framer behind a header: the body is stored whole, and two bytes are to come. -/
theorem Framer.run_afterHeader (body rest : List Byte) (f : Framer)
    (h : f.state = if body.length = 0 then .check 2 else .body body.length) :
    f.run (body ++ rest) = ({ f with state := .check 2, buf := f.buf ++ body } : Framer).run rest := by
  by_cases hn : body = []
  · subst hn
    obtain ⟨st, buf, gap⟩ := f
    obtain rfl : st = .check 2 := h
    simp
  · rw [if_neg (by simpa using hn)] at h
    exact Framer.run_body body rest f h hn

theorem Framer.afterLength_ok {f : Framer} {n : Nat} (h : field f.buf 2 2 = n) (hn : n ≤ 1600) :
    f.afterLength = ({ f with state := if n = 0 then .check 2 else .body n }, none) := by
  subst h
  exact if_neg (Nat.not_lt.2 hn)

theorem Framer.afterLength_long {f : Framer} (h : 1600 < field f.buf 2 2) : f.afterLength = (f, some .badLength) := if_pos h

/-- The framer takes a frame as it is built (R179 to R181). -/
theorem Framer.run_built (kind tag : Byte) (body rest : List Byte) (f : Framer) (hf : f.state = .hunting)
    (hb : body.length ≤ 1600) :
    ∃ g, f.run (frameBytes kind tag body ++ rest) = (g, some (.good kind tag body), rest) := by
  obtain ⟨hi, lo, hlen, split⟩ := frameBytes_split kind tag body
  have whole : checkFrame (kind :: tag :: hi :: lo :: (body ++ encode 2 (crc16 (coveredBytes kind tag body)).toNat)) =
      .good kind tag body := (congrArg (checkFrame ∘ List.tail) split).symm.trans (checkFrame_built kind tag body)
  have crcPair : ∃ a b, encode 2 (crc16 (coveredBytes kind tag body)).toNat = [a, b] := ⟨_, _, rfl⟩
  obtain ⟨a, b, hcrc⟩ := crcPair
  have length : field [kind, tag, hi, lo] 2 2 = body.length := by
    show number [hi, lo] = _
    rw [← hlen, number_encode]
    exact Nat.mod_eq_of_lt (by omega)
  rw [hcrc] at split whole
  obtain ⟨behindHeader, hbehind⟩ : ∃ g : Framer, g =
    { f with state := if body.length = 0 then .check 2 else .body body.length, buf := [kind, tag, hi, lo] } := ⟨_, rfl⟩
  have behind : Framer.take { f with state := .header 1, buf := [kind, tag, hi] } lo = (behindHeader, none) := by
    rw [hbehind]
    exact Framer.afterLength_ok (f := { f with state := .header 1, buf := [kind, tag, hi, lo] }) length hb
  rw [split]
  refine ⟨{ f with state := .check 1, buf := kind :: tag :: hi :: lo :: (body ++ [a, b]) }, ?_⟩
  simp only [List.cons_append, List.append_assoc]
  rw [Framer.run_quiet (g := { f with state := .header 4, buf := [] }) (by simp [Framer.take, hf, syncByte]),
    Framer.run_quiet (g := { f with state := .header 3, buf := [kind] }) rfl,
    Framer.run_quiet (g := { f with state := .header 2, buf := [kind, tag] }) rfl,
    Framer.run_quiet (g := { f with state := .header 1, buf := [kind, tag, hi] }) rfl,
    Framer.run_quiet (g := behindHeader) behind, Framer.run_afterHeader body _ behindHeader (by rw [hbehind]), hbehind]
  refine (Framer.run_quiet (g := { f with state := .check 1, buf := [kind, tag, hi, lo] ++ body ++ [a] }) rfl _).trans ?_
  refine Framer.run_event ?_ rest
  simp only [Framer.take, List.cons_append, List.nil_append, List.append_assoc] at whole ⊢
  rw [← whole]
  rfl

theorem slotRecord_slotBytes (r : MapRec) (hp : r.ppn < 65536) (hf : r.firstSeq < 4294967296) (hl : r.lastSeq < 4294967296) :
    slotRecord (slotBytes r) = { r with closed := true } := by
  have stamp : BitVec.ofNat 48 (field (slotBytes r) 10 6) = r.newestStamp := by
    have h : field (slotBytes r) 10 6 = r.newestStamp.toNat % 256 ^ 6 := by
      simp only [slotBytes, List.append_assoc, field_encode_later, Nat.reduceLeDiff, Nat.reduceSub]
      rw [← List.append_nil (encode 6 _), field_encode_first]
    rw [h, Nat.mod_eq_of_lt (by exact r.newestStamp.isLt), BitVec.ofNat_toNat, BitVec.setWidth_eq]
  have ppn : field (slotBytes r) 0 2 = r.ppn := by
    simp [slotBytes, field_encode_first, Nat.mod_eq_of_lt hp]
  have first : field (slotBytes r) 2 4 = r.firstSeq := by
    simp [slotBytes, field_encode_later, field_encode_first, Nat.mod_eq_of_lt hf]
  have last : field (slotBytes r) 6 4 = r.lastSeq := by
    simp [slotBytes, field_encode_later, field_encode_first, Nat.mod_eq_of_lt hl]
  simp only [slotRecord, stamp, ppn, first, last]

theorem headerBytes_length (h : Header) : (headerBytes h).length = 16 := by simp [headerBytes]

theorem headerKindOf_headerCode (k : HeaderKind) : headerKindOf (headerCode k) = k := by cases k <;> rfl

/-- A header's bytes give it back, where its fields fit (log entry 7). -/
theorem headerOf_headerBytes (h : Header) (hl : h.length < 65536) (hc : h.checksum < 65536) (hs : h.seq < 4294967296) :
    headerOf (headerBytes h) = h := by
  have stamp : BitVec.ofNat 48 (field (headerBytes h) 10 6) = h.stamp := by
    have read : field (headerBytes h) 10 6 = h.stamp.toNat % 256 ^ 6 := by
      simp only [headerBytes, List.append_assoc, field_encode_later, Nat.reduceLeDiff, Nat.reduceSub]
      rw [← List.append_nil (encode 6 _), field_encode_first]
    rw [read, Nat.mod_eq_of_lt (by exact h.stamp.isLt), BitVec.ofNat_toNat, BitVec.setWidth_eq]
  have kind : headerKindOf (field (headerBytes h) 0 2) = h.kind := by
    have small : headerCode h.kind % 256 ^ 2 = headerCode h.kind := by cases h.kind <;> rfl
    simp only [headerBytes, List.append_assoc, field_encode_first, small, headerKindOf_headerCode]
  have length : field (headerBytes h) 2 2 = h.length := by
    simp [headerBytes, field_encode_later, field_encode_first, Nat.mod_eq_of_lt hl]
  have checksum : field (headerBytes h) 4 2 = h.checksum := by
    simp [headerBytes, field_encode_later, field_encode_first, Nat.mod_eq_of_lt hc]
  have seq : field (headerBytes h) 6 4 = h.seq := by
    simp [headerBytes, field_encode_later, field_encode_first, Nat.mod_eq_of_lt hs]
  simp only [headerOf, stamp, kind, length, checksum, seq]

theorem entryBytes_header (seq : Seq) (stamp : Clock) (payload : List Byte) : (entryBytes seq stamp payload).take 16 =
    headerBytes ⟨.entry, payload.length, (crc16 payload).toNat, seq, stamp⟩ := by
  rw [entryBytes, List.append_assoc]
  exact List.take_left' (headerBytes_length _)

theorem entryBytes_payload (seq : Seq) (stamp : Clock) (payload : List Byte) :
    ((entryBytes seq stamp payload).drop 16).take payload.length = payload := by
  rw [entryBytes, List.append_assoc, List.drop_left' (headerBytes_length _)]
  exact List.take_left' rfl

end Sys2Proof.Machine

/-! The statement about frames and layouts. -/

section
open Sys2Proof Sys2Proof.Machine

/-- Settles O55: the framer is followed through sync, header, body and check of a built frame; fields read back what `encode` wrote. -/
theorem framesAreTakenAsBuilt : Obligations.FramesAreTakenAsBuilt := by
  refine ⟨Framer.run_built, ?_, ?_, ?_⟩
  · intro r hp hf hl
    exact ⟨by simp [slotBytes], slotRecord_slotBytes r hp hf hl⟩
  · intro seq stamp payload hs hp
    refine ⟨entryBytes_length seq stamp payload, ?_, entryBytes_payload seq stamp payload⟩
    rw [entryBytes_header]
    exact headerOf_headerBytes _ hp (crc16 payload).isLt hs
  · intro n h16 h2048
    exact headerOf_headerBytes ⟨.pad, n - 16, 0, 0, 0⟩ (show n - 16 < 65536 by omega) (Nat.zero_lt_succ _) (Nat.zero_lt_succ _)
end

/-! SUPPORT. The Notice Unit: its queues, the fan-out of an event, the end of a session (R151 to R159). -/

namespace Sys2Proof.Machine

/-! ### Events whose work is known -/

/-- An event at NU touches NU and the messages on their way. -/
theorem State.onNu_only (t : State) (f : Work NU → Work NU) : OnlyNu t (t.onNu f) := by
  simp [OnlyNu, State.onNu, State.post]

theorem State.onNu_sends {t : State} {f : Work NU → Work NU} {ms : List Instr} (h : (f (Work.start t.nu)).out = ms) :
    Sends .nu t (t.onNu f) ms := by
  rw [Sends, State.onNu_wires, h]

/-- A command at NU whose work is known. -/
theorem arrive_nu {c : Instr} {s t : State} {f : State → Work NU → Work NU} {nu : NU} {ms : List Instr} (h : Takes c s t)
    (hf : f t (Work.start t.nu) = ⟨nu, ms⟩) :
    arrive c s (fun t => t.onNu (f t)) = .next (({ t with nu := nu } : State).post .nu ms) := by
  rw [arrive_takes h, State.onNu, hf]

/-- A command at NU that sends nothing. -/
theorem arrive_nu_silent {c : Instr} {s t : State} {f : State → Work NU → Work NU} {nu : NU} (h : Takes c s t)
    (hf : f t (Work.start t.nu) = ⟨nu, []⟩) : arrive c s (fun t => t.onNu (f t)) = .next { t with nu := nu } :=
  (arrive_nu h hf).trans (congrArg Host.Outcome.next (State.post_nil _ _))

theorem NU.knows_iff (t : State) (sess : SessId) : t.nu.knows sess = true ↔ OpenAtNu t sess := by
  simp [NU.knows, OpenAtNu]

/-! ### Queues -/

theorem afterCopy_queueCopy (n : Notice) (q : NuPort) : AfterCopy n q (queueCopy n q) := by
  refine ⟨fun h => ?_, fun h => ?_⟩
  · exact if_pos (Nat.lt_succ_of_le h)
  · exact if_neg (Nat.not_lt.2 h)

theorem queueCopy_ne_nil {n : Notice} {q : NuPort} (h : q.queue = []) : (queueCopy n q).queue ≠ [] := by
  simp [queueCopy, join, h]

theorem queueAlways_ne_nil {n : Notice} {q : NuPort} (h : q.queue = []) : (queueAlways n q).queue ≠ [] := by
  simp [queueAlways, join, h]

theorem queueAlways_draining (n : Notice) (q : NuPort) : (queueAlways n q).draining = q.draining := by
  unfold queueAlways makeRoom
  split
  · rfl
  · split <;> rfl

theorem NoticeKind.always_iff (k : NoticeKind) : NoticeKind.always k = true ↔ k = .roleChanged ∨ k = .restart := by
  cases k <;> simp [NoticeKind.always]

/-- The newest notice that is not always sent makes room (R155). -/
theorem makeRoom_eq {q : NuPort} {before after : List Notice} {x : Notice} (hq : q.queue = before ++ x :: after)
    (hx : NoticeKind.always x.kind = false) (ha : ∀ y ∈ after, NoticeKind.always y.kind = true) :
    makeRoom q = lose { q with queue := before ++ after } (1 + x.lost) := by
  have reversed : q.queue.reverse = after.reverse ++ x :: before.reverse := by simp [hq]
  have passed : ∀ y ∈ after.reverse, ¬(!NoticeKind.always y.kind) = true := by
    intro y hy
    simp [ha y (List.mem_reverse.1 hy)]
  have found : q.queue.reverse.find? (fun n => !NoticeKind.always n.kind) = some x := by
    rw [reversed, List.find?_append, List.find?_eq_none.2 passed, List.find?_cons_of_pos (by simp [hx])]
    rfl
  have left : (q.queue.reverse.eraseP fun n => !NoticeKind.always n.kind).reverse = before ++ after := by
    rw [reversed, List.eraseP_append_right _ passed, List.eraseP_cons_of_pos (by simp [hx])]
    simp
  unfold makeRoom
  rw [found]
  simp only [left]

theorem afterAlwaysCopy_queueAlways (n : Notice) (q : NuPort) : AfterAlwaysCopy n q (queueAlways n q) := by
  refine ⟨fun h => ?_, fun x before after full hq hr hs ha => ?_⟩
  · exact congrArg (join n) (if_pos (Nat.lt_succ_of_le h))
  · have hx : NoticeKind.always x.kind = false := by
      rw [← Bool.not_eq_true, NoticeKind.always_iff]
      exact fun h => h.elim hr hs
    have room := makeRoom_eq hq hx fun y hy => (NoticeKind.always_iff _).2 (ha y hy)
    exact congrArg (join n) ((if_neg (Nat.not_lt.2 full)).trans room)

/-- A change that fills an empty queue is offered to the arbiter just where the queue was empty (R156). -/
theorem NU.enqueue_eq (p : Port) (f : NuPort → NuPort) (w : Work NU)
    (h : w.st.ports[p].queue = [] → (f w.st.ports[p]).queue ≠ []) :
    NU.enqueue p f w = ⟨⟨upd w.st.ports p f⟩, w.out ++ if w.st.ports[p].queue = [] then [.transmitOffer p] else []⟩ := by
  have changed : (NU.change p f w).st.ports[p] = f w.st.ports[p] := upd_self ..
  simp only [NU.enqueue, changed]
  by_cases empty : w.st.ports[p].queue = []
  · rw [if_pos (by simp [-Fin.getElem_fin, empty, h empty]), if_pos empty]
    rfl
  · rw [if_neg (by simp [-Fin.getElem_fin, empty]), if_neg empty, List.append_nil]
    rfl

/-! ### Fan-out -/

/-- An event of a class goes to the port's session (R151, R157). -/
def NuPort.copies (wants : Mask → Bool) (q : NuPort) : Bool := q.isOpen && wants q.mask && !q.draining

/-- What an event of a class leaves of a port's queue. -/
def fanned (wants : Mask → Bool) (n : Notice) (q : NuPort) : NuPort := if q.copies wants then queueCopy n q else q

theorem upd_unchanged {α : Type} {n : Nat} {v : Vector α n} {i : Fin n} {f : α → α} (h : f v[i] = v[i]) : upd v i f = v := by
  refine (upd_congr (g := id) h).trans ?_
  simp [upd]

theorem NU.fan_eq (wants : Mask → Bool) (n : Notice) (w : Work NU) (p : Port) : NU.fan wants n w p =
    ⟨⟨upd w.st.ports p (fanned wants n)⟩,
      w.out ++ if w.st.ports[p].copies wants && w.st.ports[p].queue.isEmpty then [.transmitOffer p] else []⟩ := by
  unfold NU.fan
  by_cases h : w.st.ports[p].copies wants = true
  · have copied : fanned wants n w.st.ports[p] = queueCopy n w.st.ports[p] := if_pos h
    refine (if_pos h).trans ?_
    rw [NU.enqueue_eq p _ w queueCopy_ne_nil, upd_congr copied.symm]
    simp only [h, Bool.true_and, List.isEmpty_iff]
  · have kept : fanned wants n w.st.ports[p] = w.st.ports[p] := if_neg h
    refine (if_neg h).trans ?_
    rw [upd_unchanged kept]
    simp only [h, Bool.false_and, Bool.false_eq_true, if_false, List.append_nil]

/-- The fan-out over some ports: each of them takes its copy of the event, the others stay. -/
theorem NU.foldl_fan (wants : Mask → Bool) (n : Notice) (l : List Port) (w : Work NU) (nodup : l.Nodup) :
    (l.foldl (NU.fan wants n) w).out = w.out ++ (l.filter fun p =>
      w.st.ports[p].copies wants && w.st.ports[p].queue.isEmpty).map .transmitOffer ∧
    ∀ p : Port, (l.foldl (NU.fan wants n) w).st.ports[p] =
      if p ∈ l then fanned wants n w.st.ports[p] else w.st.ports[p] := by
  induction l generalizing w with
  | nil => simp
  | cons q l ih =>
    obtain ⟨fresh, rest⟩ := List.nodup_cons.1 nodup
    have other : ∀ p, p ≠ q → (NU.fan wants n w q).st.ports[p] = w.st.ports[p] := by
      intro p hp
      rw [NU.fan_eq]
      exact upd_ne _ _ hp
    have self : (NU.fan wants n w q).st.ports[q] = fanned wants n w.st.ports[q] := by
      rw [NU.fan_eq]
      exact upd_self ..
    obtain ⟨out, ports⟩ := ih (NU.fan wants n w q) rest
    rw [List.foldl_cons]
    refine ⟨?_, fun p => ?_⟩
    · have same : (l.filter fun p => (NU.fan wants n w q).st.ports[p].copies wants &&
            (NU.fan wants n w q).st.ports[p].queue.isEmpty) =
          l.filter fun p => w.st.ports[p].copies wants && w.st.ports[p].queue.isEmpty :=
        List.filter_congr fun p hp => by rw [other p fun h => fresh (h ▸ hp)]
      rw [out, same, NU.fan_eq, List.filter_cons]
      split <;> simp
    · rw [ports]
      by_cases hp : p = q
      · subst hp
        rw [if_neg fresh, self, if_pos List.mem_cons_self]
      · rw [other p hp]
        simp [hp]

/-- An event of class POOL or STREAM is fanned out over the four ports (R151). -/
theorem NU.event_fan {clock : Clock} {e : Event} {wants : Mask → Bool} {w : Work NU}
    (h : ((e.kind = .pressureOn ∨ e.kind = .pressureOff) ∧ wants = Mask.pool) ∨
      ((e.kind = .streamFull ∨ e.kind = .streamSealed ∨ e.kind = .streamDeleted) ∧ wants = Mask.stream)) :
    NU.event clock e w = (List.finRange 4).foldl (NU.fan wants ⟨e.kind, clock, e.stream, e.cursor, e.value, 0⟩) w := by
  unfold NU.event
  rcases h with ⟨h | h, rfl⟩ | ⟨h | h | h, rfl⟩ <;> rw [h]

/-- An event of class CURSOR goes to its addressee (R151). -/
theorem NU.event_cursor {clock : Clock} {e : Event} {sess : SessId} {w : Work NU} (ha : e.addressee = some sess)
    (h : e.kind = .cursorGap ∨ e.kind = .cursorStalled ∨ e.kind = .cursorDrained ∨ e.kind = .entryDamaged) :
    NU.event clock e w = NU.cursorEvent ⟨e.kind, clock, e.stream, e.cursor, e.value, 0⟩ sess w := by
  unfold NU.event
  rcases h with h | h | h | h <;> rw [h, ha]

/-- An event of an always-sent kind goes to its addressee (R151, R155). -/
theorem NU.event_always {clock : Clock} {e : Event} {sess : SessId} {w : Work NU} (ha : e.addressee = some sess)
    (h : e.kind = .roleChanged ∨ e.kind = .restart) :
    NU.event clock e w = NU.alwaysEvent ⟨e.kind, clock, e.stream, e.cursor, e.value, 0⟩ sess w := by
  unfold NU.event
  rcases h with h | h <;> rw [h, ha]

section Addressed

variable {n : Notice} {sess : SessId} {w : Work NU}

theorem NU.cursorEvent_wanted (hk : w.st.knows sess = true) (hm : w.st.ports[sess.port].mask.cursor = true)
    (hd : w.st.ports[sess.port].draining = false) : NU.cursorEvent n sess w =
      ⟨⟨upd w.st.ports sess.port (queueCopy n)⟩,
        w.out ++ if w.st.ports[sess.port].queue = [] then [.transmitOffer sess.port] else []⟩ := by
  rw [NU.cursorEvent, if_pos hk]
  exact (if_pos (by simp only [hm, hd]; rfl)).trans (NU.enqueue_eq _ _ _ queueCopy_ne_nil)

theorem NU.cursorEvent_unwanted (hk : w.st.knows sess = true)
    (h : w.st.ports[sess.port].mask.cursor = false ∨ w.st.ports[sess.port].draining = true) :
    NU.cursorEvent n sess w = w := by
  rw [NU.cursorEvent, if_pos hk]
  exact if_neg fun both => by
    rcases h with h | h <;> simp only [h] at both <;> simp at both

theorem NU.cursorEvent_unknown (hk : ¬ w.st.knows sess = true) :
    NU.cursorEvent n sess w = NU.giveBack n.kind n.cursor n.value sess w := if_neg hk

theorem NU.giveBack_gap {c : CursorId} {v : Option Nat} :
    NU.giveBack .cursorGap (some c) v sess w = w.send (.returnedCursorGap c (v.getD 0) sess) := rfl

theorem NU.giveBack_other {k : NoticeKind} {c : Option CursorId} {v : Option Nat} (h : k ≠ .cursorGap) :
    NU.giveBack k c v sess w = w := by
  unfold NU.giveBack
  split
  · exact absurd rfl h
  · rfl

/-- A notice that did not reach its session sends its gap back, or nothing (R158). -/
theorem NU.giveBack_eq (n : Notice) : NU.giveBack n.kind n.cursor n.value sess w = ⟨w.st, w.out ++ returnedGaps sess [n]⟩ := by
  by_cases h : n.kind = .cursorGap
  · cases hc : n.cursor with
    | none =>
      rw [h]
      simp [NU.giveBack, returnedGaps, h, hc]
    | some c =>
      rw [h]
      simp [NU.giveBack_gap, returnedGaps, h, hc]
      rfl
  · rw [NU.giveBack_other h]
    simp [returnedGaps, h]

/-- What an always-sent event leaves of its port (R155, R157). -/
def alwaysTaken (n : Notice) (q : NuPort) : NuPort := { queueAlways n q with draining := decide (n.kind = .restart) }

theorem NU.alwaysEvent_taken (hk : w.st.knows sess = true) (hd : w.st.ports[sess.port].draining = false) :
    NU.alwaysEvent n sess w = ⟨⟨upd w.st.ports sess.port (alwaysTaken n)⟩,
      w.out ++ if w.st.ports[sess.port].queue = [] then [.transmitOffer sess.port] else []⟩ := by
  have go : (w.st.knows sess && !w.st.ports[sess.port].draining) = true := by rw [hk, hd]; rfl
  rw [NU.alwaysEvent, if_pos go, NU.enqueue_eq _ _ _ queueAlways_ne_nil]
  by_cases hn : n.kind = .restart
  · have draining : alwaysTaken n = fun q => { queueAlways n q with draining := true } := by
      funext q
      simp only [alwaysTaken, hn, decide_true]
    rw [if_pos hn, NU.change, Work.mod, upd_upd, draining]
  · have undrained : queueAlways n w.st.ports[sess.port] = alwaysTaken n w.st.ports[sess.port] := by
      simp only [alwaysTaken, hn, decide_false]
      rw [← hd, ← queueAlways_draining n]
    rw [if_neg hn, upd_congr undrained]

theorem NU.alwaysEvent_ignored (h : ¬ w.st.knows sess = true ∨ w.st.ports[sess.port].draining = true) :
    NU.alwaysEvent n sess w = w := if_neg fun both => by
  obtain ⟨hk, hd⟩ := Bool.and_eq_true_iff.1 both
  exact h.elim (fun hn => hn hk) fun draining => by rw [draining] at hd; cases hd

end Addressed

end Sys2Proof.Machine

/-! The statement about events at the Notice Unit. -/

section
open Sys2Proof Sys2Proof.Machine

/-- Settles O44: fan-out by induction on the ports, an addressed event by whether its session is open and drains. -/
theorem noticeEventResults : Obligations.NoticeEventResults := by
  refine ⟨?_, ?_, ?_⟩
  · intro e wants s t h hclass
    obtain ⟨out, ports⟩ := NU.foldl_fan wants ⟨e.kind, t.tb.clock, e.stream, e.cursor, e.value, 0⟩ (List.finRange 4)
      (Work.start t.nu) (List.nodup_finRange 4)
    rw [← NU.event_fan hclass] at out ports
    refine ⟨_, arrive_takes h _, State.onNu_only _ _, fun p => ⟨?_, ?_⟩, State.onNu_sends out⟩
    · rintro ⟨hopen, hwants, hdrain⟩
      have copied : (NU.event t.tb.clock e (Work.start t.nu)).st.ports[p] = queueCopy _ t.nu.ports[p] :=
        (ports p).trans ((if_pos (List.mem_finRange p)).trans (if_pos (by
          simp only [NuPort.copies, Work.start_st, hopen, hwants, hdrain]; rfl)))
      rw [State.onNu_nu, copied]
      exact afterCopy_queueCopy _ _
    · intro hno
      refine (ports p).trans ((if_pos (List.mem_finRange p)).trans (if_neg fun hc => ?_))
      simp only [NuPort.copies, Work.start_st, Bool.and_eq_true, Bool.not_eq_true'] at hc
      obtain ⟨⟨hopen, hwants⟩, hdrain⟩ := hc
      rcases hno with hno | hno | hno
      · rw [hno] at hopen; cases hopen
      · rw [hno] at hwants; cases hwants
      · rw [hno] at hdrain; cases hdrain
  · intro e sess s t h ha hkind
    refine ⟨fun hopen hmask hdrain => ?_, fun hopen hno => ?_, fun hclosed => ⟨fun c hgap hc => ?_, fun hgap => ?_⟩⟩
    · have result := (NU.event_cursor (clock := t.tb.clock) (w := Work.start t.nu) ha hkind).trans
        (NU.cursorEvent_wanted ((NU.knows_iff t sess).2 hopen) hmask hdrain)
      have ports : (t.onNu (NU.event t.tb.clock e)).nu.ports = upd t.nu.ports sess.port (queueCopy _) :=
        congrArg (fun w => w.st.ports) result
      refine ⟨_, arrive_takes h _, State.onNu_only _ _, fun p hp => ?_, ?_, State.onNu_sends (congrArg Work.out result)⟩
      · rw [ports, upd_ne _ _ hp]
      · rw [ports, upd_self]
        exact afterCopy_queueCopy _ _
    · exact arrive_nu_silent h ((NU.event_cursor ha hkind).trans
        (NU.cursorEvent_unwanted ((NU.knows_iff t sess).2 hopen) hno))
    · refine arrive_nu h ((NU.event_cursor ha hkind).trans
        ((NU.cursorEvent_unknown (mt (NU.knows_iff t sess).1 hclosed)).trans ?_))
      rw [hgap, hc]
      rfl
    · exact arrive_nu_silent h ((NU.event_cursor ha hkind).trans
        ((NU.cursorEvent_unknown (mt (NU.knows_iff t sess).1 hclosed)).trans (NU.giveBack_other hgap)))
  · intro e sess s t h ha hkind
    refine ⟨fun hopen hdrain => ?_, fun hno => ?_⟩
    · have result := (NU.event_always (clock := t.tb.clock) (w := Work.start t.nu) ha hkind).trans
        (NU.alwaysEvent_taken ((NU.knows_iff t sess).2 hopen) hdrain)
      have ports : (t.onNu (NU.event t.tb.clock e)).nu.ports = upd t.nu.ports sess.port (alwaysTaken _) :=
        congrArg (fun w => w.st.ports) result
      refine ⟨_, _, arrive_takes h _, State.onNu_only _ _, fun p hp => ?_, afterAlwaysCopy_queueAlways _ _, ?_,
        State.onNu_sends (congrArg Work.out result)⟩
      · rw [ports, upd_ne _ _ hp]
      · rw [ports, upd_self]
        rfl
    · exact arrive_nu_silent h ((NU.event_always ha hkind).trans
        (NU.alwaysEvent_ignored (hno.imp_left (mt (NU.knows_iff t sess).1))))
end

/-! SUPPORT. The Notice Unit: the end of a session, the head taken, and the mask (R152, R153, R156, R158, R159). -/

namespace Sys2Proof.Machine

theorem returnedGaps_cons (sess : SessId) (n : Notice) (rest : List Notice) :
    returnedGaps sess (n :: rest) = returnedGaps sess [n] ++ returnedGaps sess rest := by
  simp only [returnedGaps, ← List.filterMap_append, List.singleton_append]

/-- The queued gaps go back in queue order (R153, R158). -/
theorem NU.foldl_giveBack (sess : SessId) (queue : List Notice) (w : Work NU) :
    queue.foldl (fun w n => NU.giveBack n.kind n.cursor n.value sess w) w = ⟨w.st, w.out ++ returnedGaps sess queue⟩ := by
  induction queue generalizing w with
  | nil => simp [returnedGaps]
  | cons n rest ih =>
    rw [List.foldl_cons, NU.giveBack_eq, ih, returnedGaps_cons sess n rest, List.append_assoc]

theorem NU.allClosed_iff (n : NU) : n.allClosed = true ↔ ∀ p : Port, n.ports[p].isOpen = false := by
  rw [NU.allClosed, List.all_eq_true]
  constructor
  · exact fun h p => by simpa using h n.ports[p] (by simp)
  · intro h x hx
    obtain ⟨i, hi, rfl⟩ := List.mem_iff_getElem.1 hx
    simpa using h ⟨i, by simpa using hi⟩

/-- With one session closed, all are closed where the others are. -/
theorem NU.allClosed_closed (n : NU) (p : Port) : (NU.mk (n.ports.set p noSession)).allClosed = true ↔
    ∀ q : Port, q ≠ p → n.ports[q].isOpen = false := by
  rw [NU.allClosed_iff]
  refine forall_congr' fun q => ?_
  by_cases h : q = p
  · subst h
    simp [noSession]
  · rw [set_ne _ _ h]
    simp [h]

/-- A session that is open at NU ends there (R153, R159). -/
theorem NU.endSession_open {sess : SessId} {restarting : Bool} {w : Work NU} (hk : w.st.knows sess = true) :
    NU.endSession restarting sess w = ⟨⟨w.st.ports.set sess.port noSession⟩,
      w.out ++ (returnedGaps sess w.st.ports[sess.port].queue ++
        if restarting = true ∧ ∀ q : Port, q ≠ sess.port → w.st.ports[q].isOpen = false then [.nuResetReport] else [])⟩ := by
  have closed : NU.change sess.port (fun _ => noSession) w = ⟨⟨w.st.ports.set sess.port noSession⟩, w.out⟩ := rfl
  rw [NU.endSession, if_pos hk]
  simp only [closed, NU.foldl_giveBack, Work.send_if, Bool.and_eq_true, NU.allClosed_closed, List.append_assoc]

theorem NU.endSession_closed {sess : SessId} {restarting : Bool} {w : Work NU} (hk : ¬ w.st.knows sess = true) :
    NU.endSession restarting sess w = w := if_neg hk

theorem NU.taken_eq {p : Port} {n : Notice} {rest : List Notice} {w : Work NU} (h : w.st.ports[p].queue = n :: rest) :
    NU.taken p w = ⟨⟨upd w.st.ports p fun q => { q with queue := rest }⟩,
      w.out ++ if rest = [] then [] else [.transmitOffer p]⟩ := by
  have ports : upd w.st.ports p (fun q => { q with queue := q.queue.tail }) =
      upd w.st.ports p fun q => { q with queue := rest } := upd_congr (by simp only [h, List.tail_cons])
  have queue : (NU.change p (fun q => { q with queue := q.queue.tail }) w).st.ports[p].queue = rest :=
    (congrArg NuPort.queue (upd_self ..)).trans (congrArg List.tail h)
  have changed : NU.change p (fun q => { q with queue := q.queue.tail }) w =
      ⟨⟨upd w.st.ports p fun q => { q with queue := rest }⟩, w.out⟩ := congrArg (fun v => Work.mk (NU.mk v) w.out) ports
  simp only [NU.taken, queue]
  rw [changed]
  by_cases empty : rest = []
  · rw [if_pos (List.isEmpty_iff.2 empty), if_pos empty, List.append_nil]
  · rw [if_neg (mt List.isEmpty_iff.1 empty), if_neg empty]
    rfl

theorem NU.report_restart {sess : SessId} {n : Notice} {restarting sent : Bool} {w : Work NU} (h : n.kind = .restart) :
    NU.report restarting sess n sent w = NU.endSession restarting sess w := if_pos h

theorem NU.report_sent {sess : SessId} {n : Notice} {restarting : Bool} {w : Work NU} (h : n.kind ≠ .restart) :
    NU.report restarting sess n true w = w := if_neg h

theorem NU.report_dropped {sess : SessId} {n : Notice} {restarting : Bool} {w : Work NU} (h : n.kind ≠ .restart) :
    NU.report restarting sess n false w = NU.giveBack n.kind n.cursor n.value sess w := if_neg h

/-! ### NOTICE_MASK -/

theorem maskOf_large {v : Nat} (h : 8 ≤ v) : maskOf v = none := if_neg (Nat.not_lt.2 h)

section Mask

variable {r : Req} {v : Nat} {m : Mask} {body : List Byte} {w : Work NU}

theorem NU.noticeMask_refused (hb : oneField 1 body = .ok v) (hv : 8 ≤ v) :
    NU.noticeMask r body w = w.refuse r .outOfRange 1 := by
  rw [NU.noticeMask, hb, Work.layout_ok, maskOf_large hv]

theorem NU.noticeMask_known (hb : oneField 1 body = .ok v) (hm : maskOf v = some m) (hk : w.st.knows r.sess = true) :
    NU.noticeMask r body w = ⟨⟨upd w.st.ports r.sess.port fun p => { p with mask := m }⟩,
      w.out ++ [reply r (okWith (.mask m))]⟩ := by
  rw [NU.noticeMask, hb, Work.layout_ok]
  simp only [hm]
  rw [if_pos hk]
  rfl

theorem NU.noticeMask_unknown (hb : oneField 1 body = .ok v) (hm : maskOf v = some m) (hk : ¬ w.st.knows r.sess = true) :
    NU.noticeMask r body w = w.answer r (okWith (.mask m)) := by
  rw [NU.noticeMask, hb, Work.layout_ok]
  simp only [hm]
  rw [if_neg hk]

/-- The copy of the mask at the Port Engine that `copyMask` keeps (R152). -/
theorem State.copyMask_ok {s : State} (hb : oneField 1 (s.body r) = .ok v) (hm : maskOf v = some m) : s.copyMask r =
    { s with pe := upd s.pe r.sess.port fun e => if e.has r.sess then e.onSess fun x => { x with mask := m } else e } := by
  simp only [State.copyMask, hb, hm]

theorem State.copyMask_large {s : State} (hb : oneField 1 (s.body r) = .ok v) (hv : 8 ≤ v) : s.copyMask r = s := by
  simp only [State.copyMask, hb, maskOf_large hv]

theorem PE.has_iff (t : State) (sess : SessId) : t.pe[sess.port].has sess = true ↔ SessionOpen t sess := by
  simp [PE.has, SessionOpen]

theorem State.copyMask_open {s : State} (hb : oneField 1 (s.body r) = .ok v) (hm : maskOf v = some m)
    (hs : SessionOpen s r.sess) : s.copyMask r =
      { s with pe := upd s.pe r.sess.port fun e => { e with sess := { e.sess with mask := m } } } := by
  have copied : upd s.pe r.sess.port (fun e => if e.has r.sess then e.onSess fun x => { x with mask := m } else e) =
      upd s.pe r.sess.port fun e => { e with sess := { e.sess with mask := m } } :=
    upd_congr (if_pos ((PE.has_iff s r.sess).2 hs))
  rw [State.copyMask_ok hb hm, copied]

theorem State.copyMask_closed {s : State} (hb : oneField 1 (s.body r) = .ok v) (hm : maskOf v = some m)
    (hs : ¬ SessionOpen s r.sess) : s.copyMask r = s := by
  have kept : upd s.pe r.sess.port (fun e => if e.has r.sess then e.onSess fun x => { x with mask := m } else e) = s.pe :=
    upd_unchanged (if_neg (mt (PE.has_iff s r.sess).1 hs))
  rw [State.copyMask_ok hb hm, kept]

end Mask

/-- What NU does with NOTICE_MASK leaves the request's body and session. -/
theorem exec_noticeMask {r : Req} {s t : State} {nu : NU} {ms : List Instr} (h : Takes (.noticeMask r) s t)
    (hf : NU.noticeMask r (t.body r) (Work.start t.nu) = ⟨nu, ms⟩) :
    exec (.noticeMask r) s = .next ((({ t with nu := nu } : State).post .nu ms).copyMask r) := by
  refine (arrive_takes h _).trans ?_
  simp only [State.onNu, hf]

end Sys2Proof.Machine

/-! The statement about what the Notice Unit keeps for a port. -/

section
open Sys2Proof Sys2Proof.Machine

/-- Settles O45: each command's work at NU, by whether its session is open there; the mask's copy at the Port Engine behind it. -/
theorem noticeQueueResults : Obligations.NoticeQueueResults := by
  refine ⟨fun sess mask s t h => arrive_nu_silent h rfl, ?_, ?_, ?_, ?_⟩
  · intro c sess s t h hc
    have ends : ∀ {nu : NU} {ms : List Instr}, NU.endSession (t.dev.state = .restarting) sess (Work.start t.nu) = ⟨nu, ms⟩ →
        exec c s = .next (({ t with nu := nu } : State).post .nu ms) := by
      intro nu ms hw
      rcases hc with rfl | ⟨n, sent, rfl, hn⟩
      · exact arrive_nu h hw
      · exact arrive_nu h ((NU.report_restart hn).trans hw)
    refine ⟨fun hopen => ?_, fun hclosed => ?_⟩
    · have result := NU.endSession_open (restarting := t.dev.state = .restarting) (w := Work.start t.nu)
        ((NU.knows_iff t sess).2 hopen)
      refine (ends result).trans ?_
      simp only [decide_eq_true_eq]
      rfl
    · exact (ends (NU.endSession_closed (mt (NU.knows_iff t sess).1 hclosed))).trans
        (congrArg Host.Outcome.next (State.post_nil _ _))
  · intro p n rest s t h hq
    exact arrive_nu h (NU.taken_eq hq)
  · intro sess n sent s t h hn
    refine ⟨?_, ?_⟩
    · intro hs
      refine arrive_nu_silent (nu := t.nu) h ?_
      cases sent with
      | true => exact NU.report_sent hn
      | false => exact (NU.report_dropped hn).trans (NU.giveBack_other (hs.resolve_left Bool.false_ne_true))
    · rintro c rfl hgap hc
      refine arrive_nu h ((NU.report_dropped hn).trans ?_)
      rw [hgap, hc]
      rfl
  · intro r v s t h hb
    refine ⟨fun hv => ?_, fun m hm hnu hpe => ?_, fun m hm hnu hpe => ?_⟩
    · exact (exec_noticeMask h (NU.noticeMask_refused hb hv)).trans
        (congrArg Host.Outcome.next (State.copyMask_large hb hv))
    · exact (exec_noticeMask h (NU.noticeMask_known hb hm ((NU.knows_iff t r.sess).2 hnu))).trans
        (congrArg Host.Outcome.next (State.copyMask_open hb hm hpe))
    · exact (exec_noticeMask h (NU.noticeMask_unknown hb hm (mt (NU.knows_iff t r.sess).1 hnu))).trans
        (congrArg Host.Outcome.next (State.copyMask_closed hb hm hpe))
end

/-! SUPPORT. The Port Engine: an event whose work is known, sources that become free, the frame on the line and the end of a session
(R172, R178, R189, R190). -/

namespace Sys2Proof.Machine

/-! ### Events whose work is known -/

/-- An event at a Port Engine rests on what its work leaves of that Port Engine and sends. -/
theorem State.onPe_congr {t : State} {p : Port} {f g : Work PE → Work PE} (h : f (Work.start t.pe[p]) = g (Work.start t.pe[p])) :
    t.onPe p f = t.onPe p g := by
  simp only [State.onPe, h]

/-- A command at a Port Engine whose work is known. -/
theorem arrive_pe {c : Instr} {p : Port} {s t : State} {f : State → Work PE → Work PE} {w : Work PE} (h : Takes c s t)
    (hf : f t (Work.start t.pe[p]) = w) : arrive c s (fun t => t.onPe p (f t)) = .next (t.onPe p fun _ => w) :=
  (arrive_takes h _).trans (congrArg Host.Outcome.next (State.onPe_congr hf))

/-- With the link DOWN or the line taken the arbiter chooses nothing (R190). -/
theorem PE.arbitrate_idle {p : Port} {env : PeEnv} {w : Work PE} (h : w.st.link = false ∨ w.st.tx ≠ none) :
    PE.arbitrate p env w = w := by
  refine if_pos ?_
  rcases h with h | h
  · rw [h]; rfl
  · rw [Option.isSome_iff_ne_none.2 h, Bool.or_true]

/-- The state of a Port Engine whose arbiter does not choose is the event's own. -/
theorem State.onPe_idle {t : State} {p : Port} {f : Work PE → Work PE} {e : PE} {ms : List Instr}
    (hf : f (Work.start t.pe[p]) = ⟨e, ms⟩) (h : e.link = false ∨ e.tx ≠ none) :
    t.onPe p f = ({ t with pe := t.pe.set p e } : State).post (.pe p) ms := by
  rw [State.onPe, hf, PE.arbitrate_idle h]

theorem State.onPe_unchanged {t : State} {p : Port} {f : Work PE → Work PE}
    (hf : f (Work.start t.pe[p]) = Work.start t.pe[p]) (h : t.pe[p].link = false) : t.onPe p f = t := by
  have same : t.pe.set p t.pe[p] = t.pe := by simp
  rw [State.onPe_idle hf (.inl h), same, State.post_nil]

theorem State.onPe_sendsFirst {t : State} {p : Port} {f : Work PE → Work PE} {e : PE} {ms more : List Instr}
    (hf : f (Work.start t.pe[p]) = ⟨e, ms ++ more⟩) : SendsFirst (.pe p) t (t.onPe p f) ms := by
  obtain ⟨-, -, -, -, -, later, sent⟩ := State.onPe_frame t p f
  refine ⟨more ++ later, ?_⟩
  rwa [hf, List.append_assoc] at sent

/-! ### Sources that become free -/

/-- The slots once the places of some REPLYs have become free (R189). -/
def freedSlots (srcs : List ReplySource) (v : Vector Slot 8) : Vector Slot 8 :=
  Vector.ofFn fun k => if .slot k ∈ srcs then freeSlot else v[k]

theorem freedSlots_slot (srcs : List ReplySource) (v : Vector Slot 8) (k : SlotId) :
    (freedSlots srcs v)[k] = if .slot k ∈ srcs then freeSlot else v[k] := by
  simp [freedSlots]

/-- A Port Engine once the places of some REPLYs have become free (R189). -/
def PE.freed (srcs : List ReplySource) (e : PE) : PE :=
  { e with slots := freedSlots srcs e.slots, reserve := e.reserve && !decide (.reserve ∈ srcs) }

theorem vector_ext {α : Type} {n : Nat} {v u : Vector α n} (h : ∀ k : Fin n, v[k] = u[k]) : v = u :=
  Vector.ext fun i hi => h ⟨i, hi⟩

theorem PE.freeSource_eq (src : ReplySource) (e : PE) : e.freeSource src = e.freed [src] := by
  cases src with
  | slot i =>
    have slots : upd e.slots i (fun _ => freeSlot) = freedSlots [.slot i] e.slots := by
      refine vector_ext fun k => ?_
      rw [freedSlots_slot]
      by_cases h : k = i
      · subst h
        rw [upd_self, if_pos List.mem_cons_self]
      · rw [upd_ne _ _ h, if_neg (by simpa using h)]
    simp [PE.freeSource, PE.onSlot, PE.freed, slots]
  | reserve =>
    have slots : freedSlots [.reserve] e.slots = e.slots :=
      vector_ext fun k => (freedSlots_slot _ _ _).trans (if_neg (by simp))
    simp [PE.freeSource, PE.freed, slots]

theorem PE.freed_freed (l l' : List ReplySource) (e : PE) : (e.freed l).freed l' = e.freed (l ++ l') := by
  have slots : freedSlots l' (freedSlots l e.slots) = freedSlots (l ++ l') e.slots := by
    refine vector_ext fun k => ?_
    simp only [freedSlots_slot, List.mem_append]
    by_cases h : ReplySource.slot k ∈ l <;> by_cases h' : ReplySource.slot k ∈ l' <;> simp [h, h']
  unfold PE.freed
  simp only [slots, List.mem_append, Bool.decide_or, Bool.not_or, Bool.and_assoc]

theorem PE.freed_nil (e : PE) : e.freed [] = e := by
  have slots : freedSlots [] e.slots = e.slots := vector_ext fun k => freedSlots_slot _ _ _
  simp [PE.freed, slots]

/-- Places freed one after the other. -/
theorem PE.foldl_freeSource (l : List Reply) (e : PE) :
    l.foldl (fun e r => e.freeSource r.source) e = e.freed (l.map Reply.source) := by
  induction l generalizing e with
  | nil => exact e.freed_nil.symm
  | cons r l ih => rw [List.foldl_cons, ih, PE.freeSource_eq, PE.freed_freed, List.map_cons, List.singleton_append]

/-- The place that the frame on the line came from, where it is a REPLY (R190). -/
def txSources : Option Tx → List ReplySource
  | some ⟨.reply src, _, _⟩ => [src]
  | _ => []

theorem mem_txSources {src : ReplySource} {tx : Option Tx} : src ∈ txSources tx ↔ ∃ x, tx = some x ∧ x.source = .reply src := by
  cases tx with
  | none => simp [txSources]
  | some x =>
    obtain ⟨source, bytes, reported⟩ := x
    cases source <;> simp [txSources, eq_comm]

/-! ### The frame on the line -/

/-- The frame on the line once a drop has been reported of it; a REPLY has none (R172, R178). -/
def Tx.dropped (x : Tx) : Tx :=
  match x.source with
  | .reply _ => x
  | _ => { x with reported := true }

theorem PE.dropTx_eq (w : Work PE) :
    PE.dropTx w = ⟨{ w.st with tx := w.st.tx.map Tx.dropped }, w.out ++ droppedReport w.st.tx⟩ := by
  obtain ⟨⟨link, framer, slots, replies, reserve, tx, prefer, last, sess, grant, counters, dev, settled⟩, out⟩ := w
  cases tx with
  | none => simp [PE.dropTx, droppedReport]
  | some x =>
    obtain ⟨source, bytes, reported⟩ := x
    cases reported <;> cases source <;> simp [PE.dropTx, droppedReport, Tx.dropped, Work.mod, Work.send]

/-- The frame on the line is cut off: its place is free, and a DELIVER or NOTICE is reported dropped (R178, R190). -/
theorem PE.cutTx_eq (w : Work PE) :
    PE.cutTx w = ⟨{ w.st.freed (txSources w.st.tx) with tx := none }, w.out ++ droppedReport w.st.tx⟩ := by
  unfold PE.cutTx
  rw [PE.dropTx_eq]
  obtain ⟨⟨link, framer, slots, replies, reserve, tx, prefer, last, sess, grant, counters, dev, settled⟩, out⟩ := w
  cases tx with
  | none => simp [txSources, PE.freed_nil]
  | some x =>
    obtain ⟨source, bytes, reported⟩ := x
    cases source with
    | reply src =>
      simp only [Option.map_some, Tx.dropped, Work.mod, PE.freeSource_eq]
      rfl
    | deliver b => simp [Tx.dropped, txSources, PE.freed_nil, Work.mod]
    | notice sess n => simp [Tx.dropped, txSources, PE.freed_nil, Work.mod]

/-! ### The end of a session -/

/-- A report that the port is settled touches the record of it alone (R207). -/
theorem PE.settle_frame (p : Port) (w : Work PE) : ∃ b more, PE.settle p w = ⟨{ w.st with settled := b }, w.out ++ more⟩ := by
  unfold PE.settle
  dsimp only
  split
  · exact ⟨true, _, rfl⟩
  · exact ⟨w.st.settled, [], by rw [List.append_nil]⟩

/-- The places of the queued REPLYs of a session (R172). -/
def PE.ownedSources (e : PE) (sess : SessId) : List ReplySource := (e.replies.filter (e.ownedReply sess)).map Reply.source

theorem PE.mem_ownedSources {e : PE} {sess : SessId} {k : SlotId} :
    .slot k ∈ e.ownedSources sess ↔ (∃ r ∈ e.replies, r.source = .slot k) ∧ e.slots[k].owner = some sess := by
  simp only [PE.ownedSources, List.mem_map, List.mem_filter]
  constructor
  · rintro ⟨r, ⟨hr, owned⟩, hs⟩
    refine ⟨⟨r, hr, hs⟩, ?_⟩
    simpa only [PE.ownedReply, hs, decide_eq_true_eq] using owned
  · rintro ⟨⟨r, hr, hs⟩, owned⟩
    refine ⟨r, ⟨hr, ?_⟩, hs⟩
    simpa only [PE.ownedReply, hs, decide_eq_true_eq] using owned

theorem PE.reserve_notMem_ownedSources (e : PE) (sess : SessId) : .reserve ∉ e.ownedSources sess := by
  simp only [PE.ownedSources, List.mem_map, List.mem_filter]
  rintro ⟨r, ⟨-, owned⟩, hs⟩
  simp [PE.ownedReply, hs] at owned

theorem PE.discardReplies_eq (sess : SessId) (e : PE) : e.discardReplies sess =
    { e.freed (e.ownedSources sess) with replies := e.replies.filter fun r => !e.ownedReply sess r } := by
  unfold PE.discardReplies
  rw [PE.foldl_freeSource]
  rfl

/-- What a session's end sends, ahead of the report that the port is settled (R172). -/
def endMessages (p : Port) (e : PE) : List Instr :=
  (if e.sess.role = .admin then [.adminRelease p] else []) ++
    [.sessionEndReportAtNu ⟨p, e.sess.number⟩, .sessionEndAtDe ⟨p, e.sess.number⟩] ++ droppedReport e.tx

/-- A Port Engine whose session has ended: the record keeps its number, and the session's queued REPLYs free their slots (R172). -/
def PE.ended (p : Port) (e : PE) : PE :=
  { e.freed (e.ownedSources ⟨p, e.sess.number⟩) with
    sess := Session.closed e.sess.number
    replies := e.replies.filter fun r => !e.ownedReply ⟨p, e.sess.number⟩ r
    tx := e.tx.map Tx.dropped }

theorem PE.endSession_eq (p : Port) (w : Work PE) :
    PE.endSession p w = PE.settle p ⟨w.st.ended p, w.out ++ endMessages p w.st⟩ := by
  obtain ⟨e, out⟩ := w
  unfold PE.endSession
  simp only [PE.dropTx_eq, Work.mod, PE.discardReplies_eq]
  by_cases admin : e.sess.role = .admin
  · simp only [admin, if_true, endMessages, Work.send, Work.sendAll, List.append_assoc]
    rfl
  · simp only [admin, if_false, endMessages, Work.sendAll, List.append_assoc]
    rfl

/-- An event at a Port Engine whose work ends in the end of a session (R172). -/
theorem sessionEnds_onPe {p : Port} {t : State} {f : Work PE → Work PE} {e : PE} {first : List Instr}
    (hf : f (Work.start t.pe[p]) = PE.endSession p ⟨e, first⟩) : SessionEnds p t e first (t.onPe p f) := by
  obtain ⟨settled, more, h⟩ := PE.settle_frame p ⟨e.ended p, first ++ endMessages p e⟩
  have work := hf.trans ((PE.endSession_eq p ⟨e, first⟩).trans h)
  obtain ⟨_, _, _, _, frame, -⟩ := State.onPe_frame t p f
  rw [work] at frame
  refine ⟨State.onPe_only t p f, ?_, ?_, ?_, ?_, ?_, ?_, ?_, fun k => ⟨fun owned => ?_, fun other => ?_⟩, ?_⟩
  · rw [frame]; rfl
  · rw [frame]; rfl
  · rw [frame]; rfl
  · rw [frame]; rfl
  · rw [frame]; rfl
  · rw [frame]
    simp [PE.ended, PE.freed, PE.reserve_notMem_ownedSources]
  · rw [frame]; rfl
  · rw [frame]
    exact congrArg Slot.state ((freedSlots_slot _ _ k).trans (if_pos (PE.mem_ownedSources.2 owned)))
  · have kept : ReplySource.slot k ∉ e.ownedSources ⟨p, e.sess.number⟩ := by
      rw [PE.mem_ownedSources]
      rintro ⟨⟨r, hr, hs⟩, owned⟩
      exact other.elim (fun h => h owned) fun h => h r hr hs
    rw [frame]
    exact (freedSlots_slot _ _ k).trans (if_neg kept)
  · have sent := State.onPe_sendsFirst work
    simpa only [endMessages, List.append_assoc] using sent

end Sys2Proof.Machine

/-! SUPPORT. The Port Engine at state and lock reports and at the teardown order (R173, R178, R193, R199). -/

namespace Sys2Proof.Machine

/-! ### The loss of the lock -/

/-- Every slot still HELD is void (R178). -/
theorem PE.voidHeld_slot (e : PE) (k : SlotId) : e.voidHeld.slots[k] =
    if e.slots[k].state = .held then { e.slots[k] with isVoid := true } else e.slots[k] := by
  simp [PE.voidHeld]

/-- The places of the REPLYs that wait or are on the line (R189, R190). -/
def PE.replySources (e : PE) : List ReplySource := txSources e.tx ++ e.replies.map Reply.source

theorem PE.mem_replySources {src : ReplySource} {e : PE} : src ∈ e.replySources ↔
    (∃ r ∈ e.replies, r.source = src) ∨ ∃ x, e.tx = some x ∧ x.source = .reply src := by
  simp [PE.replySources, mem_txSources, or_comm]

/-- A Port Engine that has lost its lock, ahead of the end of its session (R178). -/
def PE.unlocked (e : PE) : PE :=
  PE.voidHeld { e.freed e.replySources with link := false, framer := Framer.init, tx := none, replies := [] }

theorem PE.linkLoss_eq {p : Port} {w : Work PE} (h : w.st.link = true) : PE.linkLoss p w =
    if w.st.sess.isOpen then PE.endSession p ⟨w.st.unlocked, w.out ++ droppedReport w.st.tx⟩
    else ⟨w.st.unlocked, w.out ++ droppedReport w.st.tx⟩ := by
  have cleared : ∀ e : PE, e.clearReplies = { e.freed (e.replies.map Reply.source) with replies := [] } :=
    fun e => PE.foldl_freeSource _ _
  have unlocked : (PE.cutTx (w.mod fun e => { e with link := false, framer := Framer.init })).mod
      (fun e => e.clearReplies.voidHeld) = ⟨w.st.unlocked, w.out ++ droppedReport w.st.tx⟩ := by
    simp only [PE.cutTx_eq, Work.mod, cleared]
    change Work.mk (PE.voidHeld { (w.st.freed (txSources w.st.tx)).freed (w.st.replies.map Reply.source) with
      link := false, framer := Framer.init, tx := none, replies := [] }) _ = _
    rw [PE.freed_freed]
    rfl
  unfold PE.linkLoss
  rw [if_neg (by simp [h])]
  simp only [unlocked]
  rfl

theorem PE.unlocked_slot (e : PE) (k : SlotId) : e.unlocked.slots[k] =
    if .slot k ∈ e.replySources then freeSlot
    else if e.slots[k].state = .held then { e.slots[k] with isVoid := true } else e.slots[k] := by
  have freed : PE.slots { e.freed e.replySources with link := false, framer := Framer.init, tx := none, replies := [] } =
    freedSlots e.replySources e.slots := rfl
  rw [PE.unlocked, PE.voidHeld_slot, freed, freedSlots_slot]
  by_cases h : ReplySource.slot k ∈ e.replySources
  · rw [if_pos h, if_pos h]
    rfl
  · rw [if_neg h, if_neg h]

/-! ### The teardown order -/

/-- The answers that a Port Engine has given itself, as the statement of the teardown order lists them. -/
theorem State.ownAnswers_eq (t : State) (p : Port) : t.ownAnswers p =
    t.wires.filterMap (fun w => match w.src, w.msg with
      | .pe q, .answerArrival d k a => if q = p ∧ d = p then some (k, a) else none
      | _, _ => none) := by
  refine filterMap_congr_mem fun w _ => ?_
  obtain ⟨src, msg⟩ := w
  have own : ∀ d k a, ownOf p ⟨src, .answerArrival d k a⟩ = true ↔ src = .pe p ∧ d = p := by
    intro d k a
    simp [ownOf, dstOf]
  cases msg with
  | answerArrival d k a =>
    cases src with
    | pe q =>
      have same : ownOf p ⟨.pe q, .answerArrival d k a⟩ = true ↔ q = p ∧ d = p := by rw [own, Block.pe.injEq]
      simp only [same]
    | _ => exact if_neg fun h => nomatch ((own d k a).1 h).1
  | _ => cases src <;> rfl

theorem State.settleOwn_eq (t : State) (p : Port) :
    t.settleOwn p = { t with wires := t.wires.filter fun w => decide (w.src ≠ .pe p ∨ dstOf w.msg ≠ .pe p) } := by
  have other : (fun w : Wire => !ownOf p w) = fun w => decide (w.src ≠ .pe p ∨ dstOf w.msg ≠ .pe p) := by
    funext w
    simp only [ownOf, Bool.not_and, ← decide_not, Bool.decide_or]
  rw [State.settleOwn, other]

/-- A Port Engine at its teardown order, with the slots freed whose requests were handed away (R193). -/
def PE.tearing (p : Port) (e : PE) : PE :=
  { e with
    dev := .restarting
    settled := false
    slots := e.slots.map fun x => if x.state = .held ∧ handedAway p x = true then ⟨.free, 0, 0, x.body, none, false⟩ else x }

theorem PE.freeHandedAway_eq (p : Port) (e : PE) : PE.freeHandedAway p { e with dev := .restarting, settled := false } =
    e.tearing p := by
  unfold PE.freeHandedAway PE.tearing
  simp only [Bool.and_eq_true, decide_eq_true_eq]
  rfl

theorem PE.settle_now {p : Port} {e : PE} {out : List Instr} (hd : e.dev = .restarting) (ho : e.sess.isOpen = false)
    (hc : e.sess.claim = none) (hs : e.settled = false) :
    PE.settle p ⟨e, out⟩ = ⟨{ e with settled := true }, out ++ [.portSettledReport p]⟩ :=
  if_pos (by simp only [hd, ho, hc, hs]; rfl)

theorem PE.settle_later {p : Port} {w : Work PE} (h : w.st.sess.isOpen = true ∨ w.st.sess.claim ≠ none) :
    PE.settle p w = w := by
  refine if_neg fun both => ?_
  simp only [Bool.and_eq_true, Bool.not_eq_true', Option.isNone_iff_eq_none] at both
  obtain ⟨⟨⟨-, closed⟩, unclaimed⟩, -⟩ := both
  rcases h with h | h
  · rw [closed] at h; cases h
  · exact h unclaimed

section Teardown

variable {p : Port} {own : List (SlotId × Answer)} {g : PE} {out : List Instr} {w : Work PE}

/-- An open session goes to its end by RESTART, and its port is not settled (R173). -/
theorem PE.settle_beginRestart_open (h : g.sess.isOpen = true) : PE.settle p (PE.beginRestart p ⟨g, out⟩) =
    ⟨{ g with sess := { g.sess with endPending := .restart, deadline := none } },
      out ++ [.noticeEvent ⟨.restart, none, none, none, some ⟨p, g.sess.number⟩⟩]⟩ := by
  rw [PE.beginRestart, if_pos h]
  exact PE.settle_later (.inl h)

theorem PE.settle_beginRestart_closed (h : g.sess.isOpen = false) :
    PE.settle p (PE.beginRestart p ⟨g, out⟩) = PE.settle p ⟨g, out⟩ := by
  rw [PE.beginRestart, if_neg (Bool.eq_false_iff.1 h)]

/-- The teardown order: the answers, then an open session's RESTART, or the report that the port is settled (R173, R193, R207). -/
theorem PE.teardown_eq (hg : g = restartAnswered p own (w.st.tearing p)) :
    PE.teardown p own w = PE.settle p (PE.beginRestart p ⟨g, w.out⟩) := by
  have answered : PE.answerHeld p (PE.answerClaim p (PE.takeOwn p own
      (PE.freeHandedAway p { w.st with dev := .restarting, settled := false }))) = g := by
    rw [PE.freeHandedAway_eq, PE.teardown_answers, hg]
  unfold PE.teardown
  rw [Work.mod, answered]

theorem PE.teardown_open (hg : g = restartAnswered p own (w.st.tearing p)) (hs : g.sess = w.st.sess)
    (h : w.st.sess.isOpen = true) : PE.teardown p own w =
      ⟨{ g with sess := { w.st.sess with endPending := .restart, deadline := none } },
        w.out ++ [.noticeEvent ⟨.restart, none, none, none, some ⟨p, w.st.sess.number⟩⟩]⟩ := by
  rw [← hs] at h ⊢
  rw [PE.teardown_eq hg, PE.settle_beginRestart_open h]

theorem PE.teardown_closed (hg : g = restartAnswered p own (w.st.tearing p)) (hs : g.sess = w.st.sess)
    (h : w.st.sess.isOpen = false) : PE.teardown p own w = PE.settle p ⟨g, w.out⟩ := by
  rw [← hs] at h
  rw [PE.teardown_eq hg, PE.settle_beginRestart_closed h]

end Teardown

end Sys2Proof.Machine

/-! The statement about lock and state reports and the teardown order. -/

section
open Sys2Proof Sys2Proof.Machine

/-- Settles O46: the places of the REPLYs become free at once; the teardown's answers are those of `restartAnswered`. -/
theorem linkAndTeardownOrderResults : Obligations.LinkAndTeardownOrderResults := by
  refine ⟨⟨fun p d s t h => arrive_pe h rfl, fun p s t h => arrive_pe h rfl, fun p s t h => ⟨fun down => ?_, fun up => ?_⟩⟩, ?_⟩
  · exact (arrive_takes h _).trans (congrArg Host.Outcome.next
      (State.onPe_unchanged (f := PE.linkLoss p) (if_pos (by simp only [Work.start_st, down]; rfl)) down))
  · have work := PE.linkLoss_eq (p := p) (w := Work.start t.pe[p]) up
    refine ⟨_, t.pe[p].unlocked, arrive_takes h _, State.onPe_only _ _ _, rfl, rfl, rfl, rfl, rfl, rfl, rfl, rfl, rfl, rfl,
      fun busy => ?_, fun waiting line => ?_, fun k => ⟨fun busy => ?_, fun waiting line => ?_⟩, fun closed => ?_, fun opened => ?_⟩
    · exact (congrArg (t.pe[p].reserve && !·) (decide_eq_true (PE.mem_replySources.2 busy))).trans (Bool.and_false _)
    · have kept : ReplySource.reserve ∉ t.pe[p].replySources := by
        rw [PE.mem_replySources]
        rintro (⟨r, hr, hs⟩ | ⟨x, hx, hs⟩)
        · exact waiting r hr hs
        · exact line x hx hs
      exact (congrArg (t.pe[p].reserve && !·) (decide_eq_false kept)).trans (Bool.and_true _)
    · rw [PE.unlocked_slot, if_pos (PE.mem_replySources.2 busy)]
      rfl
    · have kept : ReplySource.slot k ∉ t.pe[p].replySources := by
        rw [PE.mem_replySources]
        rintro (⟨r, hr, hs⟩ | ⟨x, hx, hs⟩)
        · exact waiting r hr hs
        · exact line x hx hs
      rw [PE.unlocked_slot, if_neg kept]
    · have result := work.trans (if_neg (Bool.eq_false_iff.1 closed))
      have next : t.onPe p (PE.linkLoss p) = _ := State.onPe_idle result (.inl rfl)
      rw [next]
      exact ⟨set_self _ _ _, rfl⟩
    · exact sessionEnds_onPe (work.trans (if_pos opened))
  · intro p own g s t v h hown hv hg
    obtain rfl : own = t.ownAnswers p := hown.trans (State.ownAnswers_eq t p).symm
    obtain rfl : v = t.settleOwn p := hv.trans (State.settleOwn_eq t p).symm
    obtain ⟨sess, dev, settled⟩ := restartAnswered_keeps p (t.ownAnswers p) (t.pe[p].tearing p)
    have held := restartAnswered_held p (t.ownAnswers p) (t.pe[p].tearing p)
    have hg' : g = restartAnswered p (t.ownAnswers p) (t.pe[p].tearing p) := hg
    rw [← hg'] at sess dev settled held
    have ends : ∀ {w : Work PE}, PE.teardown p (t.ownAnswers p) (Work.start t.pe[p]) = w →
        exec (.teardownOrder p) s = .next ((t.settleOwn p).onPe p fun _ => w) := fun hw =>
      (arrive_takes h _).trans (congrArg Host.Outcome.next (State.onPe_congr hw))
    refine ⟨held, fun opened => ends (PE.teardown_open (w := Work.start t.pe[p]) hg' sess opened), fun closed => ?_⟩
    have work := PE.teardown_closed (w := Work.start t.pe[p]) hg' sess closed
    refine ⟨fun unclaimed => ?_, fun claimed => ?_⟩
    · exact ends (work.trans (PE.settle_now dev ((congrArg Session.isOpen sess).trans closed)
        ((congrArg Session.claim sess).trans unclaimed) settled))
    · exact ends (work.trans (PE.settle_later (.inr fun none => claimed ((congrArg Session.claim sess).symm.trans none))))
end

/-! SUPPORT. The framer fed with bytes: what a rescan takes at once is what the bytes do one by one (R179, R183). -/

namespace Sys2Proof.Machine

/-! ### An answer, case by case (R188) -/

section Answer

variable {p : Port} {k : SlotId} {a : Answer} {e : PE}

theorem afterAnswer_counted (h : e.slots[k].state ≠ .held) :
    afterAnswer p k a e = { e with counters := (answeredFrom e k a).counters } := if_pos h

theorem afterAnswer_served (h : e.slots[k].state = .held) (serves : e.slots[k].isVoid = false ∧
    (e.slots[k].owner = none ∨ (e.slots[k].owner = some ⟨p, e.sess.number⟩ ∧ e.sess.isOpen = true))) :
    afterAnswer p k a e = answeredFrom e k a := (if_neg (Classical.not_not.2 h)).trans (if_pos serves)

theorem afterAnswer_dropped (h : e.slots[k].state = .held) (serves : ¬ (e.slots[k].isVoid = false ∧
    (e.slots[k].owner = none ∨ (e.slots[k].owner = some ⟨p, e.sess.number⟩ ∧ e.sess.isOpen = true)))) :
    afterAnswer p k a e = { e with
      slots := e.slots.set k ⟨.free, 0, 0, [], none, false⟩, counters := (answeredFrom e k a).counters } :=
  (if_neg (Classical.not_not.2 h)).trans (if_neg serves)

end Answer

/-! ### Slot allotment does not look at the line -/

/-- A change of the link's state and the framer alone. -/
def PE.onLine (l : Bool → Bool) (φ : Framer → Framer) (e : PE) : PE := { e with link := l e.link, framer := φ e.framer }

section Line

variable {p : Port} {l : Bool → Bool} {φ : Framer → Framer}

theorem PE.answered_onLine (i : SlotId) (a : Answer) (e : PE) :
    PE.answered p i a (e.onLine l φ) = (PE.answered p i a e).onLine l φ := by
  rw [PE.answered_eq, PE.answered_eq]
  by_cases held : e.slots[i].state = .held
  · by_cases serves : e.slots[i].isVoid = false ∧
        (e.slots[i].owner = none ∨ (e.slots[i].owner = some ⟨p, e.sess.number⟩ ∧ e.sess.isOpen = true))
    · rw [afterAnswer_served held serves, afterAnswer_served (e := e.onLine l φ) held serves]
      rfl
    · rw [afterAnswer_dropped held serves, afterAnswer_dropped (e := e.onLine l φ) held serves]
      rfl
  · rw [afterAnswer_counted held, afterAnswer_counted (e := e.onLine l φ) held]
    rfl

theorem PE.refuseGate_onLine (i : SlotId) (st : Status) (w : Work PE) :
    PE.refuseGate p i st (w.mod (PE.onLine l φ)) = (PE.refuseGate p i st w).mod (PE.onLine l φ) :=
  congrArg (Work.mk · w.out) (PE.answered_onLine i _ w.st)

theorem PE.gate_onLine (i : SlotId) (kind : Byte) (body : List Byte) (w : Work PE) :
    PE.gate p i kind body (w.mod (PE.onLine l φ)) = (PE.gate p i kind body w).mod (PE.onLine l φ) := by
  have admits : (w.mod (PE.onLine l φ)).st.admits = w.st.admits := rfl
  have role : (w.mod (PE.onLine l φ)).st.sess.role = w.st.sess.role := rfl
  unfold PE.gate
  rw [admits, role]
  cases gateOf p kind body with
  | unknown => exact PE.refuseGate_onLine i _ w
  | hello => rfl
  | any go =>
    dsimp only
    split
    · rfl
    · exact PE.refuseGate_onLine i _ w
  | admin go =>
    dsimp only
    split
    · exact PE.refuseGate_onLine i _ w
    · split
      · rfl
      · exact PE.refuseGate_onLine i _ w

/-- A good frame is taken alike whatever the line does (R181, R185). -/
theorem PE.allot_onLine (kind tag : Byte) (body : List Byte) (w : Work PE) :
    PE.allot p kind tag body (w.mod (PE.onLine l φ)) = (PE.allot p kind tag body w).mod (PE.onLine l φ) := by
  have tagHeld : (w.mod (PE.onLine l φ)).st.tagHeld tag = w.st.tagHeld tag := rfl
  have freeSlot? : (w.mod (PE.onLine l φ)).st.freeSlot? = w.st.freeSlot? := rfl
  unfold PE.allot
  rw [tagHeld, freeSlot?]
  split
  · have busy : ∀ e : PE, (if (e.onLine l φ).reserve then (e.onLine l φ).overrun else (e.onLine l φ).tagBusy kind tag) =
        (if e.reserve then e.overrun else e.tagBusy kind tag).onLine l φ := by
      intro e
      have reserve : (e.onLine l φ).reserve = e.reserve := rfl
      rw [reserve]
      split <;> rfl
    exact congrArg (Work.mk · w.out) (busy w.st)
  · split
    · rfl
    · exact PE.gate_onLine (p := p) (l := l) (φ := φ) _ kind body
        (w.mod fun e => e.onSlot _ fun _ => ⟨.held, tag, kind, body, none, false⟩)

theorem PE.accept_onLine (tick : Tick) (kind tag : Byte) (body : List Byte) (w : Work PE) :
    PE.accept p tick kind tag body (w.mod (PE.onLine l φ)) = (PE.accept p tick kind tag body w).mod (PE.onLine l φ) :=
  PE.allot_onLine kind tag body (w.mod fun e =>
    (e.onCounters fun c => { c with framesReceived := count c.framesReceived 1 }).onSess (Session.rearm tick))

/-- A good frame leaves the link's state and the framer. -/
theorem PE.accept_line (tick : Tick) (kind tag : Byte) (body : List Byte) (w : Work PE) :
    (PE.accept p tick kind tag body w).st.link = w.st.link ∧ (PE.accept p tick kind tag body w).st.framer = w.st.framer := by
  have same := PE.accept_onLine (p := p) (l := fun _ => w.st.link) (φ := fun _ => w.st.framer) tick kind tag body w
  have unchanged : w.mod (PE.onLine (fun _ => w.st.link) fun _ => w.st.framer) = w := rfl
  rw [unchanged] at same
  exact ⟨congrArg (fun w => w.st.link) same, congrArg (fun w => w.st.framer) same⟩

end Line

/-! ### A run of the framer -/

/-- The framer with another count of microseconds since the last byte. -/
def Framer.atGap (n : Nat) (f : Framer) : Framer := { f with gap := n }

theorem Framer.afterLength_atGap (n : Nat) (f : Framer) :
    (f.atGap n).afterLength = (f.afterLength.1.atGap n, f.afterLength.2) := by
  unfold Framer.afterLength
  dsimp only [Framer.atGap]
  split <;> rfl

theorem Framer.take_atGap (n : Nat) (f : Framer) (b : Byte) : (f.atGap n).take b = ((f.take b).1.atGap n, (f.take b).2) := by
  obtain ⟨state, buf, gap⟩ := f
  cases state with
  | hunting => by_cases h : b = syncByte <;> simp [Framer.take, Framer.atGap, h]
  | header k =>
    by_cases h : k ≤ 1
    · have short : ∀ f : Framer, f.state = .header k → f.take b = Framer.afterLength { f with buf := f.buf ++ [b] } := by
        intro f hf
        simp [Framer.take, hf, h]
      rw [short ⟨.header k, buf, gap⟩ rfl, short _ rfl]
      exact Framer.afterLength_atGap n ⟨.header k, buf ++ [b], gap⟩
    · simp [Framer.take, Framer.atGap, h]
  | body k => rfl
  | check k => by_cases h : k ≤ 1 <;> simp [Framer.take, Framer.atGap, h]

theorem Framer.run_atGap (n : Nat) (bytes : List Byte) (f : Framer) :
    (f.atGap n).run bytes = ((f.run bytes).1.atGap n, (f.run bytes).2) := by
  induction bytes generalizing f with
  | nil => rfl
  | cons b rest ih =>
    cases h : f.take b with
    | mk g ev =>
      have taken : (f.atGap n).take b = (g.atGap n, ev) := by rw [Framer.take_atGap, h]
      cases ev with
      | none => rw [Framer.run_quiet taken, Framer.run_quiet h, ih]
      | some ev => rw [Framer.run_event taken, Framer.run_event h]

/-- A run leaves the count of microseconds. -/
theorem Framer.run_gap {bytes : List Byte} {f g : Framer} {r : Option FrameEvent × List Byte} (h : f.run bytes = (g, r)) :
    g.gap = f.gap := by
  have same : f.run bytes = _ := Framer.run_atGap f.gap bytes f
  exact (congrArg (·.1.gap) h).symm.trans (congrArg (·.1.gap) same)

/-- What a framer and the bytes before it hold at the most, for the rounds that a rescan can take. -/
def Framer.load (f : Framer) (bytes : List Byte) : Nat :=
  if f.state = .hunting then bytes.length else f.buf.length + bytes.length + 1

theorem Framer.load_hunting {f : Framer} (h : f.state = .hunting) (bytes : List Byte) : f.load bytes = bytes.length := if_pos h

theorem Framer.load_inFrame {f : Framer} (h : f.state ≠ .hunting) (bytes : List Byte) :
    f.load bytes = f.buf.length + bytes.length + 1 := if_neg h

/-- A byte that completes or spoils a frame is one of a frame in progress, and is stored. -/
theorem Framer.take_event {f g : Framer} {b : Byte} {ev : FrameEvent} (h : f.take b = (g, some ev)) :
    f.state ≠ .hunting ∧ g.buf = f.buf ++ [b] := by
  obtain ⟨state, buf, gap⟩ := f
  cases state with
  | hunting => cases h
  | header k =>
    refine ⟨nofun, ?_⟩
    simp only [Framer.take, Framer.afterLength] at h
    split at h
    · split at h
      · cases h; rfl
      · cases h
    · cases h
  | body k => cases h
  | check k =>
    refine ⟨nofun, ?_⟩
    simp only [Framer.take] at h
    split at h
    · cases h; rfl
    · cases h

/-- A byte that completes nothing adds nothing to the load. -/
theorem Framer.take_quiet {f g : Framer} {b : Byte} (h : f.take b = (g, none)) (bytes : List Byte) :
    g.load bytes ≤ f.load (b :: bytes) := by
  obtain ⟨state, buf, gap⟩ := f
  have stored : state ≠ .hunting → g.buf = buf ++ [b] ∧ g.state ≠ .hunting → g.load bytes ≤
      Framer.load ⟨state, buf, gap⟩ (b :: bytes) := by
    rintro hs ⟨hb, hg⟩
    rw [Framer.load_inFrame hg, Framer.load_inFrame hs, hb]
    simp only [List.length_append, List.length_cons, List.length_nil]
    omega
  cases state with
  | hunting =>
    rw [Framer.load_hunting (f := ⟨.hunting, buf, gap⟩) rfl]
    simp only [Framer.take] at h
    split at h
    · cases h
      exact Nat.le_of_eq (by rw [Framer.load_inFrame (f := ⟨.header 4, [], gap⟩) nofun]; simp)
    · cases h
      exact Nat.le_succ _
  | header k =>
    refine stored nofun ?_
    simp only [Framer.take, Framer.afterLength] at h
    split at h
    · split at h
      · cases h
      · cases h
        refine ⟨rfl, ?_⟩
        dsimp only
        split <;> nofun
    · cases h
      exact ⟨rfl, nofun⟩
  | body k =>
    refine stored nofun ?_
    cases h
    refine ⟨rfl, ?_⟩
    dsimp only
    split <;> nofun
  | check k =>
    refine stored nofun ?_
    simp only [Framer.take] at h
    split at h
    · cases h
    · cases h
      exact ⟨rfl, nofun⟩

/-- What a run leaves at a frame's end is less than it began with (R183). -/
theorem Framer.run_event_load {bytes rest : List Byte} {f g : Framer} {ev : FrameEvent}
    (h : f.run bytes = (g, some ev, rest)) : g.buf.length + rest.length < f.load bytes := by
  induction bytes generalizing f with
  | nil => cases h
  | cons b bytes ih =>
    cases ht : f.take b with
    | mk x ev' =>
      cases ev' with
      | none =>
        rw [Framer.run_quiet ht] at h
        exact Nat.lt_of_lt_of_le (ih h) (Framer.take_quiet ht bytes)
      | some ev' =>
        rw [Framer.run_event ht] at h
        obtain ⟨inFrame, stored⟩ := Framer.take_event ht
        cases h
        rw [Framer.load_inFrame inFrame, stored]
        simp only [List.length_append, List.length_cons, List.length_nil]
        omega

theorem Framer.run_append_quiet {bytes rest : List Byte} {f g : Framer} (h : f.run bytes = (g, none, rest))
    (more : List Byte) : f.run (bytes ++ more) = g.run more := by
  induction bytes generalizing f with
  | nil => cases h; rfl
  | cons b bytes ih =>
    cases ht : f.take b with
    | mk x ev =>
      cases ev with
      | none =>
        rw [Framer.run_quiet ht] at h
        exact (Framer.run_quiet ht _).trans (ih h)
      | some ev => rw [Framer.run_event ht] at h; cases h

theorem Framer.run_append_event {bytes rest : List Byte} {f g : Framer} {ev : FrameEvent}
    (h : f.run bytes = (g, some ev, rest)) (more : List Byte) : f.run (bytes ++ more) = (g, some ev, rest ++ more) := by
  induction bytes generalizing f with
  | nil => cases h
  | cons b bytes ih =>
    cases ht : f.take b with
    | mk x ev' =>
      cases ev' with
      | none =>
        rw [Framer.run_quiet ht] at h
        exact (Framer.run_quiet ht _).trans (ih h)
      | some ev' =>
        rw [Framer.run_event ht] at h
        cases h
        exact Framer.run_event ht _

/-- Bytes without a sync are passed over in HUNTING (R179). -/
theorem Framer.run_passed {f : Framer} (hf : f.state = .hunting) {bytes : List Byte} (h : syncByte ∉ bytes) :
    f.run bytes = (f, none, []) := by
  induction bytes with
  | nil => rfl
  | cons b bytes ih =>
    obtain ⟨hb, hbytes⟩ := not_or.1 (mt List.mem_cons.2 h)
    have passed : f.take b = (f, none) := by
      unfold Framer.take
      rw [hf]
      exact congrArg (·, none) (if_neg (Ne.symm hb))
    rw [Framer.run_quiet passed, ih hbytes]

/-! ### Feeding -/

/-- A Port Engine behind a discarded frame: the framer hunts, and the discard is counted (R180, R181, R183). -/
def PE.discarded (ev : FrameEvent) (e : PE) : PE := e.hunt.onCounters (countDiscard ev)

section Feed

variable {p : Port} {tick : Tick} {bytes rest : List Byte} {f : Framer} {ev : FrameEvent} {kind tag : Byte} {body : List Byte}

theorem PE.feed_quiet {w : Work PE} (fuel : Nat) (h : w.st.framer.run bytes = (f, none, rest)) :
    PE.feed p tick (fuel + 1) bytes w = w.mod fun e => { e with framer := f } := by
  rw [PE.feed, h]

theorem PE.feed_good {w : Work PE} (fuel : Nat) (h : w.st.framer.run bytes = (f, some (.good kind tag body), rest)) :
    PE.feed p tick (fuel + 1) bytes w = PE.feed p tick fuel rest (PE.accept p tick kind tag body (w.mod PE.hunt)) := by
  rw [PE.feed, h]

theorem PE.feed_bad {w : Work PE} (fuel : Nat) (h : w.st.framer.run bytes = (f, some ev, rest))
    (hev : ∀ kind tag body, ev ≠ .good kind tag body) :
    PE.feed p tick (fuel + 1) bytes w = PE.feed p tick fuel (f.buf ++ rest) (w.mod (PE.discarded ev)) := by
  rw [PE.feed, h]
  cases ev with
  | good kind tag body => exact absurd rfl (hev kind tag body)
  | badLength => rfl
  | badCrc => rfl

theorem PE.accept_hunt_load {w : Work PE} :
    (PE.accept p tick kind tag body (w.mod PE.hunt)).st.framer.load rest = rest.length := by
  obtain ⟨-, framer⟩ := PE.accept_line (p := p) tick kind tag body (w.mod PE.hunt)
  rw [framer]
  exact Framer.load_hunting rfl rest

/-- Each event of a run is a good frame or a discard. -/
theorem FrameEvent.good_or (ev : FrameEvent) : (∃ kind tag body, ev = .good kind tag body) ∨
    ∀ kind tag body, ev ≠ .good kind tag body := by
  cases ev with
  | good kind tag body => exact .inl ⟨kind, tag, body, rfl⟩
  | badLength => exact .inr fun _ _ _ => nofun
  | badCrc => exact .inr fun _ _ _ => nofun

/-- Above the load the fuel does not matter (log entry 44). -/
theorem PE.feed_fuel (fuel : Nat) {fuel' : Nat} {w : Work PE} (h : w.st.framer.load bytes < fuel)
    (h' : w.st.framer.load bytes < fuel') : PE.feed p tick fuel bytes w = PE.feed p tick fuel' bytes w := by
  induction fuel generalizing fuel' bytes w with
  | zero => exact absurd h (Nat.not_lt_zero _)
  | succ fuel ih =>
    obtain ⟨fuel', rfl⟩ : ∃ k, fuel' = k + 1 := ⟨fuel' - 1, by omega⟩
    rcases hr : w.st.framer.run bytes with ⟨g, ev, rest⟩
    cases ev with
    | none => rw [PE.feed_quiet fuel hr, PE.feed_quiet fuel' hr]
    | some ev =>
      have less := Framer.run_event_load hr
      rcases ev.good_or with ⟨kind, tag, body, rfl⟩ | hev
      · rw [PE.feed_good fuel hr, PE.feed_good fuel' hr]
        exact ih (by rw [PE.accept_hunt_load]; omega) (by rw [PE.accept_hunt_load]; omega)
      · have load : (w.mod (PE.discarded ev)).st.framer.load (g.buf ++ rest) = g.buf.length + rest.length :=
          (Framer.load_hunting rfl _).trans List.length_append
        rw [PE.feed_bad fuel hr hev, PE.feed_bad fuel' hr hev]
        exact ih (by rw [load]; omega) (by rw [load]; omega)

/-- Feeds bytes to the framer with fuel enough. -/
def PE.feedAll (p : Port) (tick : Tick) (bytes : List Byte) (w : Work PE) : Work PE :=
  PE.feed p tick (w.st.framer.load bytes + 1) bytes w

theorem PE.feed_eq_feedAll {fuel : Nat} {w : Work PE} (h : w.st.framer.load bytes < fuel) :
    PE.feed p tick fuel bytes w = PE.feedAll p tick bytes w := PE.feed_fuel fuel h (Nat.lt_succ_self _)

theorem PE.feedAll_quiet {w : Work PE} (h : w.st.framer.run bytes = (f, none, rest)) :
    PE.feedAll p tick bytes w = w.mod fun e => { e with framer := f } := PE.feed_quiet _ h

theorem PE.feedAll_good {w : Work PE} (h : w.st.framer.run bytes = (f, some (.good kind tag body), rest)) :
    PE.feedAll p tick bytes w = PE.feedAll p tick rest (PE.accept p tick kind tag body (w.mod PE.hunt)) := by
  have less := Framer.run_event_load h
  refine (PE.feed_good _ h).trans (PE.feed_eq_feedAll ?_)
  rw [PE.accept_hunt_load]
  omega

theorem PE.feedAll_bad {w : Work PE} (h : w.st.framer.run bytes = (f, some ev, rest))
    (hev : ∀ kind tag body, ev ≠ .good kind tag body) :
    PE.feedAll p tick bytes w = PE.feedAll p tick (f.buf ++ rest) (w.mod (PE.discarded ev)) := by
  have less := Framer.run_event_load h
  have load : (w.mod (PE.discarded ev)).st.framer.load (f.buf ++ rest) = f.buf.length + rest.length :=
    (Framer.load_hunting rfl _).trans List.length_append
  refine (PE.feed_bad _ h hev).trans (PE.feed_eq_feedAll ?_)
  rw [load]
  exact less

theorem PE.feedAll_nil (w : Work PE) : PE.feedAll p tick [] w = w := PE.feedAll_quiet (f := w.st.framer) rfl

/-- The induction along the frames that a run of bytes completes or spoils (R183). -/
theorem feed_induction {P : List Byte → Work PE → Prop} (p : Port) (tick : Tick)
    (quiet : ∀ bytes w f rest, w.st.framer.run bytes = (f, none, rest) → P bytes w)
    (good : ∀ bytes w f kind tag body rest, w.st.framer.run bytes = (f, some (.good kind tag body), rest) →
      P rest (PE.accept p tick kind tag body (w.mod PE.hunt)) → P bytes w)
    (bad : ∀ bytes w f ev rest, w.st.framer.run bytes = (f, some ev, rest) → (∀ kind tag body, ev ≠ .good kind tag body) →
      P (f.buf ++ rest) (w.mod (PE.discarded ev)) → P bytes w)
    (bytes : List Byte) (w : Work PE) : P bytes w := by
  have bounded : ∀ n bytes w, w.st.framer.load bytes < n → P bytes w := by
    intro n
    induction n with
    | zero => exact fun _ _ h => absurd h (Nat.not_lt_zero _)
    | succ n ih =>
      intro bytes w h
      rcases hr : w.st.framer.run bytes with ⟨g, ev, rest⟩
      cases ev with
      | none => exact quiet bytes w g rest hr
      | some ev =>
        have less := Framer.run_event_load hr
        rcases ev.good_or with ⟨kind, tag, body, rfl⟩ | hev
        · exact good bytes w g kind tag body rest hr (ih _ _ (by rw [PE.accept_hunt_load]; omega))
        · refine bad bytes w g ev rest hr hev (ih _ _ (Nat.lt_of_le_of_lt (Nat.le_of_eq ?_) (Nat.lt_of_lt_of_le less
            (Nat.le_of_lt_succ h))))
          exact (Framer.load_hunting rfl _).trans List.length_append
  exact bounded _ bytes w (Nat.lt_succ_self _)

/-- Bytes fed at once are those before fed first, then those behind. -/
theorem PE.feedAll_append (more : List Byte) (bytes : List Byte) (w : Work PE) :
    PE.feedAll p tick (bytes ++ more) w = PE.feedAll p tick more (PE.feedAll p tick bytes w) := by
  induction bytes, w using feed_induction p tick with
  | quiet bytes w f rest h =>
    have behind := Framer.run_append_quiet h more
    have hunt : (w.mod fun e => { e with framer := f }).mod PE.hunt = w.mod PE.hunt := by
      simp only [Work.mod, PE.hunt, Framer.run_gap h]
    have discarded : ∀ ev, (w.mod fun e => { e with framer := f }).mod (PE.discarded ev) = w.mod (PE.discarded ev) :=
      fun ev => congrArg (Work.mod · fun e : PE => e.onCounters (countDiscard ev)) hunt
    rw [PE.feedAll_quiet h]
    rcases hr : f.run more with ⟨g, ev, rest'⟩
    rw [hr] at behind
    cases ev with
    | none => rw [PE.feedAll_quiet behind, PE.feedAll_quiet (w := w.mod fun e => { e with framer := f }) hr]; rfl
    | some ev =>
      rcases ev.good_or with ⟨kind, tag, body, rfl⟩ | hev
      · rw [PE.feedAll_good behind, PE.feedAll_good (w := w.mod fun e => { e with framer := f }) hr, hunt]
      · rw [PE.feedAll_bad behind hev, PE.feedAll_bad (w := w.mod fun e => { e with framer := f }) hr hev, discarded]
  | good bytes w f kind tag body rest h ih =>
    rw [PE.feedAll_good h, PE.feedAll_good (Framer.run_append_event h more), ih]
  | bad bytes w f ev rest h hev ih =>
    rw [PE.feedAll_bad h hev, PE.feedAll_bad (Framer.run_append_event h more) hev, ← List.append_assoc, ih]

end Feed

end Sys2Proof.Machine

/-! SUPPORT. Bytes on the line, one by one, and the byte gap's abort (R179 to R183). -/

namespace Sys2Proof.Machine

/-- A Port Engine on whose line no microsecond has passed since the last byte. -/
def PE.fresh (e : PE) : PE := e.onLine id (Framer.atGap 0)

section Feed

variable {p : Port} {tick : Tick} {b : Byte} {f g : Framer} {ev : FrameEvent} {e : PE} {out : List Instr}

/-- What is fed does not depend on the microseconds since the last byte. -/
theorem PE.feedAll_fresh (bytes : List Byte) (w : Work PE) :
    PE.feedAll p tick bytes (w.mod PE.fresh) = (PE.feedAll p tick bytes w).mod PE.fresh := by
  have run : ∀ {bytes : List Byte} {w : Work PE} {f r}, w.st.framer.run bytes = (f, r) →
      (w.mod PE.fresh).st.framer.run bytes = (f.atGap 0, r) := by
    intro bytes w f r h
    exact (Framer.run_atGap 0 bytes w.st.framer).trans (by rw [h])
  induction bytes, w using feed_induction p tick with
  | quiet bytes w f rest h =>
    rw [PE.feedAll_quiet h, PE.feedAll_quiet (run h)]
    rfl
  | good bytes w f kind tag body rest h ih =>
    have hunt : (w.mod PE.fresh).mod PE.hunt = (w.mod PE.hunt).mod PE.fresh := rfl
    have accepted := PE.accept_onLine (p := p) (l := id) (φ := Framer.atGap 0) tick kind tag body (w.mod PE.hunt)
    rw [PE.feedAll_good h, PE.feedAll_good (run h), hunt, ← ih]
    exact congrArg (PE.feedAll p tick rest) accepted
  | bad bytes w f ev rest h hev ih =>
    rw [PE.feedAll_bad h hev, PE.feedAll_bad (run h) hev, ← ih]
    rfl

theorem PE.feedAll_link (bytes : List Byte) (w : Work PE) : (PE.feedAll p tick bytes w).st.link = w.st.link := by
  induction bytes, w using feed_induction p tick with
  | quiet bytes w f rest h => rw [PE.feedAll_quiet h]; rfl
  | good bytes w f kind tag body rest h ih =>
    rw [PE.feedAll_good h, ih]
    exact (PE.accept_line tick kind tag body _).1
  | bad bytes w f ev rest h hev ih => rw [PE.feedAll_bad h hev, ih]; rfl

/-- A byte at a link that is UP. -/
theorem PE.frameByte_up {w : Work PE} (h : w.st.link = true) :
    PE.frameByte p tick b w = (PE.feedAll p tick [b] w).mod PE.fresh := by
  have fed : PE.feed p tick (w.st.framer.buf.length + 3) [b] w = PE.feedAll p tick [b] w := by
    refine PE.feed_eq_feedAll ?_
    unfold Framer.load
    split
    · exact Nat.lt_of_lt_of_le (by decide : 1 < 3) (Nat.le_add_left _ _)
    · exact Nat.lt_succ_self _
  unfold PE.frameByte
  rw [if_neg (by simp [h]), fed]
  rfl

theorem PE.frameByte_down {w : Work PE} (h : w.st.link = false) : PE.frameByte p tick b w = w := if_pos (by simp [h])

/-- Bytes one by one at a link that is UP are taken as if they were fed at once (R183). -/
theorem PE.foldl_frameByte (bytes : List Byte) (w : Work PE) (h : w.st.link = true) (hg : w.st.framer.gap = 0) :
    bytes.foldl (fun w x => PE.frameByte p tick x w) w = (PE.feedAll p tick bytes w).mod PE.fresh := by
  induction bytes generalizing w with
  | nil =>
    have framer : w.st.framer.atGap 0 = w.st.framer := by rw [Framer.atGap, ← hg]
    rw [PE.feedAll_nil, List.foldl_nil]
    exact congrArg (fun f => Work.mk { w.st with framer := f } w.out) framer.symm
  | cons b bytes ih =>
    have link : ((PE.feedAll p tick [b] w).mod PE.fresh).st.link = true := (PE.feedAll_link [b] w).trans h
    rw [List.foldl_cons, PE.frameByte_up h, ih _ link rfl, PE.feedAll_fresh, ← PE.feedAll_append]
    rfl

/-- A byte that completes nothing. -/
theorem PE.frameByte_quiet (h : e.link = true) (ht : e.framer.take b = (f, none)) (hg : f.atGap 0 = g) :
    PE.frameByte p tick b ⟨e, out⟩ = ⟨{ e with framer := g }, out⟩ := by
  have run : e.framer.run [b] = (f, none, []) := (Framer.run_quiet ht []).trans rfl
  subst hg
  rw [PE.frameByte_up h, PE.feedAll_quiet (w := ⟨e, out⟩) run]
  rfl

/-- The byte that spoils a frame: what stands behind the frame's sync is taken again (R183). -/
theorem PE.frameByte_bad {w : Work PE} (h : w.st.link = true) (ht : w.st.framer.take b = (f, some ev))
    (hev : ∀ kind tag body, ev ≠ .good kind tag body) : PE.frameByte p tick b w =
      (PE.feedAll p tick (w.st.framer.buf ++ [b]) (w.mod fun e =>
        { e with framer := ⟨.hunting, [], 0⟩, counters := countDiscard ev e.counters })).mod PE.fresh := by
  obtain ⟨-, stored⟩ := Framer.take_event ht
  have fresh : ∀ v : Work PE, (v.mod PE.fresh).mod PE.fresh = v.mod PE.fresh := fun _ => rfl
  rw [PE.frameByte_up h, PE.feedAll_bad (Framer.run_event ht []) hev, stored, List.append_nil, ← fresh, ← PE.feedAll_fresh]
  rfl

/-- A spoilt frame without another sync in it leaves the framer HUNTING (R179, R183). -/
theorem PE.frameByte_spoilt (h : e.link = true) (ht : e.framer.take b = (f, some ev))
    (hev : ∀ kind tag body, ev ≠ .good kind tag body) (hs : syncByte ∉ e.framer.buf ++ [b]) :
    PE.frameByte p tick b ⟨e, out⟩ =
      ⟨{ e with framer := ⟨.hunting, [], 0⟩, counters := countDiscard ev e.counters }, out⟩ := by
  rw [PE.frameByte_bad (w := ⟨e, out⟩) h ht hev]
  rw [PE.feedAll_quiet (w := (Work.mk e out).mod fun e =>
    { e with framer := ⟨.hunting, [], 0⟩, counters := countDiscard ev e.counters }) (Framer.run_passed rfl hs)]
  rfl

/-- The byte that completes a good frame (R181). -/
theorem PE.frameByte_good {kind tag : Byte} {body : List Byte} {w : Work PE} (h : w.st.link = true)
    (ht : w.st.framer.take b = (f, some (.good kind tag body))) : PE.frameByte p tick b w =
      PE.accept p tick kind tag body (w.mod fun e => { e with framer := ⟨.hunting, [], 0⟩ }) := by
  rw [PE.frameByte_up h, PE.feedAll_good (Framer.run_event ht []), PE.feedAll_nil]
  exact (PE.accept_onLine (p := p) (l := id) (φ := Framer.atGap 0) tick kind tag body (w.mod PE.hunt)).symm

/-- A frame aborted by the gap without another sync in it (R182). -/
theorem PE.byteGapAbort_passed (hf : e.framer.state ≠ .hunting) (hs : syncByte ∉ e.framer.buf) :
    PE.byteGapAbort p tick ⟨e, out⟩ = ⟨{ e with
      framer := ⟨.hunting, [], 0⟩
      counters := { e.counters with byteGapAborts := count e.counters.byteGapAborts 1 } }, out⟩ := by
  have run : (e.hunt.onCounters fun c => { c with byteGapAborts := count c.byteGapAborts 1 }).framer.run e.framer.buf =
      (e.hunt.framer, none, []) := Framer.run_passed rfl hs
  unfold PE.byteGapAbort
  simp only [if_neg hf]
  rw [PE.feed_quiet (w := (Work.mk e out).mod fun e =>
    e.hunt.onCounters fun c => { c with byteGapAborts := count c.byteGapAborts 1 }) _ run]
  rfl

end Feed

/-! ### The framer's bytes -/

section Take

variable {f : Framer} {b : Byte}

theorem Framer.take_hunting (hf : f.state = .hunting) :
    f.take b = (if b = syncByte then { f with state := .header 4, buf := [] } else f, none) := by
  unfold Framer.take
  rw [hf]

theorem Framer.take_header {n : Nat} (hf : f.state = .header (n + 2)) :
    f.take b = ({ f with state := .header (n + 1), buf := f.buf ++ [b] }, none) := by
  unfold Framer.take
  rw [hf]
  exact if_neg (by omega)

/-- The last header byte completes the length (R180). -/
theorem Framer.take_length {k g h : Byte} (hf : f.state = .header 1) (hb : f.buf = [k, g, h]) :
    f.take b = Framer.afterLength ⟨.header 1, [k, g, h, b], f.gap⟩ := by
  obtain ⟨state, buf, gap⟩ := f
  obtain rfl : state = .header 1 := hf
  obtain rfl : buf = [k, g, h] := hb
  rfl

theorem field_length (k g h b : Byte) : field [k, g, h, b] 2 2 = h.toNat * 256 + b.toNat := by simp [field, number]

theorem Framer.take_body {n : Nat} (hf : f.state = .body n) :
    f.take b = ({ f with state := if n ≤ 1 then .check 2 else .body (n - 1), buf := f.buf ++ [b] }, none) := by
  unfold Framer.take
  rw [hf]

theorem Framer.take_check {n : Nat} (hf : f.state = .check (n + 2)) :
    f.take b = ({ f with state := .check (n + 1), buf := f.buf ++ [b] }, none) := by
  unfold Framer.take
  rw [hf]
  exact if_neg (by omega)

theorem Framer.take_checkLast (hf : f.state = .check 1) :
    f.take b = ({ f with buf := f.buf ++ [b] }, some (checkFrame (f.buf ++ [b]))) := by
  unfold Framer.take
  rw [hf]
  rfl

end Take

end Sys2Proof.Machine

/-! The statement about the framer and the rescan. -/

section
open Sys2Proof Sys2Proof.Machine

/-- Settles O47: a byte by the framer's state; the rescan, by induction along its frames, is the bytes one by one. -/
theorem framerAndRescanResults : Obligations.FramerAndRescanResults := by
  refine ⟨⟨fun p b s t h => ⟨fun down => ?_, fun up => ⟨fun f hf => ?_, ?_, ?_⟩⟩, fun p s t h hs hc => ?_⟩, ?_⟩
  · exact (arrive_takes h _).trans (congrArg Host.Outcome.next
      (State.onPe_unchanged (f := PE.frameByte p t.tb.tick b) (PE.frameByte_down down) down))
  · have taken : ∃ g, t.pe[p].framer.take b = (g, none) ∧ g.atGap 0 = f := by
      rcases hf with ⟨hs, rfl, rfl⟩ | ⟨hs, hb, rfl⟩ | ⟨n, hs, rfl⟩ | ⟨k, g, x, hs, hb, len⟩ | ⟨n, hs, rfl⟩ | ⟨hs, rfl⟩ | ⟨hs, rfl⟩
      · exact ⟨_, Framer.take_hunting hs, rfl⟩
      · exact ⟨_, (Framer.take_hunting hs).trans (congrArg (·, none) (if_neg hb)), rfl⟩
      · exact ⟨_, Framer.take_header hs, rfl⟩
      · have hlen : field [k, g, x, b] 2 2 = _ := field_length k g x b
        rcases len with ⟨zero, rfl⟩ | ⟨positive, small, rfl⟩
        · exact ⟨_, (Framer.take_length hs hb).trans (Framer.afterLength_ok hlen (by omega)), by rw [if_pos zero]; rfl⟩
        · exact ⟨_, (Framer.take_length hs hb).trans (Framer.afterLength_ok hlen small), by
            rw [if_neg (Nat.one_le_iff_ne_zero.1 positive)]; rfl⟩
      · exact ⟨_, Framer.take_body hs, by rw [if_neg (by omega)]; rfl⟩
      · exact ⟨_, Framer.take_body hs, rfl⟩
      · exact ⟨_, Framer.take_check hs, rfl⟩
    obtain ⟨g, ht, hg⟩ := taken
    exact arrive_pe h (PE.frameByte_quiet up ht hg)
  · intro k g x hs hb long hc
    have taken := (Framer.take_length (b := b) hs hb).trans
      (Framer.afterLength_long (Nat.lt_of_lt_of_eq long (field_length k g x b).symm))
    exact arrive_pe h (PE.frameByte_spoilt up taken (fun _ _ _ => nofun) (by rw [hb]; exact hc))
  · intro covered hi hs hb wrong hc
    have crc : number [hi, b] = hi.toNat * 256 + b.toNat := by simp [number]
    have bad : checkFrame (t.pe[p].framer.buf ++ [b]) = .badCrc := by
      rw [hb, List.append_assoc]
      exact checkFrame_other rfl (crc ▸ wrong)
    have taken := Framer.take_checkLast (b := b) hs
    rw [bad] at taken
    exact arrive_pe h (PE.frameByte_spoilt up taken (fun _ _ _ => nofun) (by rw [hb, List.append_assoc]; exact hc))
  · exact arrive_pe h (PE.byteGapAbort_passed hs hc)
  · intro p tick b w f ev up ht hev
    rw [PE.frameByte_bad up ht hev]
    exact (PE.foldl_frameByte _ (w.mod fun e =>
      { e with framer := ⟨.hunting, [], 0⟩, counters := countDiscard ev e.counters }) up rfl).symm
end

/-! SUPPORT. Slot allotment and the gate for a good frame, and an answer at its Port Engine (R161, R165, R185 to R188). -/

namespace Sys2Proof.Machine

/-! ### Slot allotment (R185, R186) -/

theorem PE.tagHeld_iff (e : PE) (tag : Byte) :
    e.tagHeld tag = true ↔ ∃ k : SlotId, e.slots[k].state ≠ .free ∧ e.slots[k].tag = tag := by
  unfold PE.tagHeld
  rw [Vector.any_eq_true]
  constructor
  · rintro ⟨i, hi, h⟩
    exact ⟨⟨i, hi⟩, by simpa using h⟩
  · rintro ⟨k, h⟩
    exact ⟨k.val, k.isLt, by simpa using h⟩

section Allot

variable {p : Port} {tick : Tick} {kind tag : Byte} {body : List Byte} {e : PE} {out : List Instr} {k : SlotId}

/-- A good frame counts, and arms the keepalive deadline, before it is allotted (R170, R181). -/
theorem PE.accept_eq : PE.accept p tick kind tag body ⟨{ e with framer := ⟨.hunting, [], 0⟩ }, out⟩ =
    PE.allot p kind tag body ⟨afterGoodFrame tick e, out⟩ := by
  have rearmed : e.sess.rearm tick = (afterGoodFrame tick e).sess := by
    simp only [Session.rearm, afterGoodFrame, Bool.and_eq_true, decide_eq_true_eq]
  unfold PE.accept
  simp only [Work.mod, PE.onSess, PE.onCounters, rearmed]
  rfl

theorem PE.allot_tagBusy (ht : e.tagHeld tag = true) (hr : e.reserve = false) : PE.allot p kind tag body ⟨e, out⟩ =
    ⟨{ e with
      reserve := true
      replies := e.replies ++ [⟨.reserve, tag, [kind, 0x06, 0xFE]⟩]
      counters := { e.counters with requestsRefused := min 4294967295 (e.counters.requestsRefused + 1) } }, out⟩ :=
  (if_pos ht).trans (congrArg (Work.mk · out) (if_neg (Bool.eq_false_iff.1 hr)))

theorem PE.allot_tagOverrun (ht : e.tagHeld tag = true) (hr : e.reserve = true) : PE.allot p kind tag body ⟨e, out⟩ =
    ⟨{ e with counters := { e.counters with overruns := min 4294967295 (e.counters.overruns + 1) } }, out⟩ :=
  (if_pos ht).trans (congrArg (Work.mk · out) (if_pos hr))

theorem PE.allot_full (ht : ¬ e.tagHeld tag = true) (hf : ∀ k : SlotId, e.slots[k].state ≠ .free) :
    PE.allot p kind tag body ⟨e, out⟩ =
      ⟨{ e with counters := { e.counters with overruns := min 4294967295 (e.counters.overruns + 1) } }, out⟩ := by
  have none : e.freeSlot? = none := List.find?_eq_none.2 fun k _ => by simpa using hf k
  unfold PE.allot
  rw [if_neg ht]
  dsimp only
  rw [none]
  rfl

theorem PE.allot_slot (ht : ¬ e.tagHeld tag = true) (hk : e.slots[k].state = .free)
    (hlow : ∀ j < k, e.slots[j].state ≠ .free) : PE.allot p kind tag body ⟨e, out⟩ =
      PE.gate p k kind body ⟨{ e with slots := e.slots.set k (heldSlot kind tag body) }, out⟩ := by
  have lowest : e.freeSlot? = some k :=
    find_finRange.2 ⟨by simpa using hk, fun j hj => by simpa using hlow j hj⟩
  unfold PE.allot
  rw [if_neg ht]
  dsimp only
  rw [lowest]
  rfl

end Allot

/-! ### The gate (R165) -/

section Gate

variable {p : Port} {k : SlotId} {kind tag : Byte} {body : List Byte} {e : PE} {out : List Instr} {go : Req → Instr}

/-- The gate answers from the slot that the frame has taken. -/
theorem PE.refuseGate_held (h : e.slots[k] = heldSlot kind tag body) (st : Status) :
    PE.refuseGate p k st ⟨e, out⟩ = ⟨answeredFrom e k ⟨st, 0, .empty⟩, out⟩ := by
  have answered : e.answered p k (refusal st 0) = answeredFrom e k ⟨st, 0, .empty⟩ := by
    rw [PE.answered_eq]
    exact afterAnswer_served (by rw [h]; rfl) ⟨by rw [h]; rfl, .inl (by rw [h]; rfl)⟩
  exact congrArg (Work.mk · out) answered

theorem PE.gate_unknown (h : e.slots[k] = heldSlot kind tag body) (hg : gateOf p kind body = .unknown) :
    PE.gate p k kind body ⟨e, out⟩ = ⟨answeredFrom e k ⟨.unknownKind, 0, .empty⟩, out⟩ := by
  rw [PE.gate, hg]
  exact PE.refuseGate_held h _

theorem PE.gate_hello (hg : gateOf p kind body = .hello) :
    PE.gate p k kind body ⟨e, out⟩ = ⟨e, out ++ [.hello p k]⟩ := by
  rw [PE.gate, hg]
  rfl

theorem PE.admits_iff (e : PE) : e.admits = true ↔ e.dev = .ready ∧ e.sess.isOpen = true ∧ e.sess.endPending = .none := by
  simp only [PE.admits, Bool.and_eq_true, decide_eq_true_eq, and_assoc]

theorem PE.gate_noSession (h : e.slots[k] = heldSlot kind tag body)
    (hg : gateOf p kind body = .any go ∨ gateOf p kind body = .admin go) (hn : ¬ e.admits = true) :
    PE.gate p k kind body ⟨e, out⟩ = ⟨answeredFrom e k ⟨.noSession, 0, .empty⟩, out⟩ := by
  rcases hg with hg | hg
  · rw [PE.gate, hg]
    exact (if_neg hn).trans (PE.refuseGate_held h _)
  · rw [PE.gate, hg]
    exact (if_pos (by simpa using hn)).trans (PE.refuseGate_held h _)

theorem PE.gate_passes (hg : gateOf p kind body = .any go ∨ (gateOf p kind body = .admin go ∧ e.sess.role = .admin))
    (ha : e.admits = true) : PE.gate p k kind body ⟨e, out⟩ = PE.route p k go ⟨e, out⟩ := by
  rcases hg with hg | ⟨hg, hr⟩
  · rw [PE.gate, hg]
    exact if_pos ha
  · rw [PE.gate, hg]
    exact (if_neg (by simp [ha])).trans (if_pos hr)

theorem PE.gate_notAdmin (h : e.slots[k] = heldSlot kind tag body) (hg : gateOf p kind body = .admin go)
    (ha : e.admits = true) (hr : e.sess.role ≠ .admin) :
    PE.gate p k kind body ⟨e, out⟩ = ⟨answeredFrom e k ⟨.notAdmin, 0, .empty⟩, out⟩ := by
  rw [PE.gate, hg]
  exact ((if_neg (by simp [ha])).trans (if_neg hr)).trans (PE.refuseGate_held h _)

/-- A request that passes goes to its block with its session as the slot's owner (R165, R187). -/
theorem PE.route_held (go : Req → Instr) : PE.route p k go ⟨{ e with slots := e.slots.set k (heldSlot kind tag body) }, out⟩ =
    ⟨{ e with slots := e.slots.set k { heldSlot kind tag body with owner := some ⟨p, e.sess.number⟩ } },
      out ++ [go ⟨⟨p, e.sess.number⟩, k⟩]⟩ := by
  simp [PE.route, PE.onSlot, upd, Work.mod, Work.send]

end Gate

end Sys2Proof.Machine

/-! The statements about good frames and answers. -/

section
open Sys2Proof Sys2Proof.Machine

/-- Settles O48: the byte completes a frame that the check passes; then slot allotment and the gate, case by case. -/
theorem goodFrameResults : Obligations.GoodFrameResults := by
  intro p b kind tag body s t e h up hs hlen hbytes he
  have taken := Framer.take_checkLast (b := b) hs
  rw [hbytes, checkFrame_built] at taken
  have allotted : ∀ {w : Work PE}, PE.allot p kind tag body ⟨e, []⟩ = w →
      exec (.frameByte p b) s = .next (t.onPe p fun _ => w) := by
    intro w hw
    refine arrive_pe h ((PE.frameByte_good (w := Work.start t.pe[p]) up taken).trans (PE.accept_eq.trans ?_))
    exact (congrArg (fun e => PE.allot p kind tag body ⟨e, []⟩) he).symm.trans hw
  refine ⟨fun busy => ⟨fun free => allotted (PE.allot_tagBusy ((PE.tagHeld_iff e tag).2 busy) free),
    fun taken => allotted (PE.allot_tagOverrun ((PE.tagHeld_iff e tag).2 busy) taken)⟩, fun full => ?_, ?_⟩
  · refine allotted (PE.allot_full ?_ fun k => (full k).1)
    rw [PE.tagHeld_iff]
    rintro ⟨k, -, same⟩
    exact (full k).2 same
  · intro k g other hk hlow hg
    have untagged : ¬ e.tagHeld tag = true := by
      rw [PE.tagHeld_iff]
      rintro ⟨j, held, same⟩
      exact (other j).elim held fun h => h same
    have slot : g.slots[k] = heldSlot kind tag body := by rw [hg]; exact set_self _ _ _
    have gated : ∀ {w : Work PE}, PE.gate p k kind body ⟨g, []⟩ = w → exec (.frameByte p b) s = .next (t.onPe p fun _ => w) :=
      fun hw => allotted ((PE.allot_slot untagged hk hlow).trans (hg ▸ hw))
    have admits : g.admits = true ↔ e.dev = .ready ∧ e.sess.isOpen = true ∧ e.sess.endPending = .none := by
      rw [PE.admits_iff, hg]
    refine ⟨fun hgate => gated (PE.gate_unknown slot hgate), fun hgate => gated (PE.gate_hello hgate),
      fun go hgate => ⟨fun hno => gated (PE.gate_noSession slot hgate ?_), fun ready opened staying => ?_⟩⟩
    · rw [admits]
      rintro ⟨ready, opened, staying⟩
      rcases hno with hno | hno | hno
      · exact hno ready
      · rw [opened] at hno; cases hno
      · exact hno staying
    · have passing := admits.2 ⟨ready, opened, staying⟩
      refine ⟨fun may => gated ?_, fun admin client => gated (PE.gate_notAdmin slot admin passing ?_)⟩
      · have role : gateOf p kind body = .any go ∨ (gateOf p kind body = .admin go ∧ g.sess.role = .admin) := by
          rcases hgate with any | admin
          · exact .inl any
          · exact may.imp_right fun role => ⟨admin, by rw [hg]; exact role⟩
        refine (PE.gate_passes role passing).trans ?_
        rw [hg]
        exact PE.route_held go
      · rw [hg]
        exact fun admin => Role.noConfusion (admin.symm.trans client)

/-- Settles O49: an answer by whether it is counted alone, whether its slot is HELD and whether its REPLY has a partner. -/
theorem answerArrivalResults : Obligations.AnswerArrivalResults := by
  intro p k a s t h
  have strayFree : s.strayAnswer p k a = false → ∀ {e : PE}, afterAnswer p k a t.pe[p] = e →
      exec (.answerArrival p k a) s = .next (t.onPe p fun _ => ⟨e, []⟩) := by
    intro stray e he
    refine arrive_pe h (congrArg (Work.mk · []) ?_)
    rw [stray]
    exact (PE.answered_eq ..).trans he
  have owner : ∀ o : SessId, o.port = p ∧ SessionOpen t o ↔ o = ⟨p, t.pe[p].sess.number⟩ ∧ t.pe[p].sess.isOpen = true := by
    rintro ⟨q, n⟩
    constructor
    · rintro ⟨rfl, opened, number⟩
      exact ⟨by rw [SessId.mk.injEq]; exact ⟨rfl, number.symm⟩, opened⟩
    · rintro ⟨same, opened⟩
      cases same
      exact ⟨rfl, opened, rfl⟩
  refine ⟨fun stray held => ⟨fun serves => ?_, fun lost => ?_⟩, fun counted => ?_⟩
  · obtain ⟨valid, partner⟩ := serves
    refine strayFree stray (afterAnswer_served held ⟨valid, partner.imp_right ?_⟩)
    rintro ⟨o, ho, ours⟩
    obtain ⟨rfl, opened⟩ := (owner o).1 ours
    exact ⟨ho, opened⟩
  · refine strayFree stray (afterAnswer_dropped held ?_)
    rintro ⟨valid, partner⟩
    rcases lost with isVoid | ⟨o, ho, other⟩
    · rw [valid] at isVoid; cases isVoid
    · rcases partner with none | ⟨ours, opened⟩
      · rw [ho] at none; cases none
      · obtain ⟨port, session⟩ := (owner o).2 ⟨Option.some.inj (ho.symm.trans ours), opened⟩
        exact other.elim (fun h => h port) fun h => h session
  · cases stray : s.strayAnswer p k a with
    | false =>
      refine strayFree stray (afterAnswer_counted (counted.resolve_left ?_))
      rw [stray]
      exact Bool.false_ne_true
    | true =>
      refine arrive_pe h (congrArg (Work.mk · []) ?_)
      rw [stray]
      exact PE.countRefused_eq k a t.pe[p]
end

/-! SUPPORT. The transmit arbiter's choice, and the end of a frame on the line (R119, R171, R173, R190 to R192). -/

namespace Sys2Proof.Machine

/-! ### What DE offers (R119, R130) -/

theorem State.offerOf_eq_some {t : State} {b : BufId} {o : Offer} : t.offerOf b = some o ↔
    t.dev.state ≠ .restarting ∧ (t.de.buffer b).state = .ready ∧ (∀ w ∈ t.wires, w.msg ≠ .deliverTaken b) ∧
      (t.de.buffer b).owner = some o.sess ∧ o.buf = b ∧ o.cursor = (t.de.buffer b).cursor ∧
      o.body = deliverBody (t.de.buffer b) := by
  have untaken : (!(takenOffers t.wires).contains b) = true ↔ ∀ w ∈ t.wires, w.msg ≠ .deliverTaken b := by
    simp only [Bool.not_eq_true', List.contains_eq_mem, decide_eq_false_iff_not, mem_takenOffers, not_exists, not_and, ne_eq]
  unfold State.offerOf
  simp only [Bool.and_eq_true, decide_eq_true_eq, untaken]
  constructor
  · intro h
    split at h
    · next stands =>
      obtain ⟨⟨running, ready⟩, free⟩ := stands
      obtain ⟨x, hx, rfl⟩ := Option.map_eq_some_iff.1 h
      exact ⟨running, ready, free, hx, rfl, rfl, rfl⟩
    · cases h
  · rintro ⟨running, ready, free, owner, rfl, cursor, body⟩
    rw [if_pos ⟨⟨running, ready⟩, free⟩, owner, Option.map_some, ← cursor, ← body]

theorem State.mem_offers {t : State} {p : Port} {o : Offer} :
    o ∈ (t.peEnv p).offers ↔ ∃ k : Fin 2, t.offerOf ⟨p, k⟩ = some o := by
  have two : ∀ P : Fin 2 → Prop, (∃ k, P k) ↔ P 0 ∨ P 1 := fun P => Fin.exists_fin_two
  rw [two]
  simp [State.peEnv, List.filterMap_cons]
  cases t.offerOf ⟨p, 0⟩ <;> cases t.offerOf ⟨p, 1⟩ <;> simp [eq_comm]

/-! ### The choice (R190 to R192) -/

/-- The offer taken is one whose cursor comes first after the last one taken (R192). -/
theorem firstOffer_some {last : CursorId} {offers : List Offer} {o : Offer} (h : firstOffer last offers = some o) :
    o ∈ offers ∧ ∀ x ∈ offers, turn last o.cursor ≤ turn last x.cursor := by
  induction offers generalizing o with
  | nil => cases h
  | cons y rest ih =>
    unfold firstOffer at h
    cases hr : firstOffer last rest with
    | none =>
      have empty : rest = [] := by
        cases rest with
        | nil => rfl
        | cons z more =>
          unfold firstOffer at hr
          split at hr
          · cases hr
          · split at hr <;> cases hr
      rw [hr] at h
      cases h
      subst empty
      exact ⟨List.mem_cons_self, fun x hx => Nat.le_of_eq (by rw [List.mem_singleton.1 hx])⟩
    | some x =>
      rw [hr] at h
      obtain ⟨mem, least⟩ := ih hr
      dsimp only at h
      split at h
      · next before =>
        cases h
        refine ⟨List.mem_cons_of_mem _ mem, fun z hz => ?_⟩
        rcases List.mem_cons.1 hz with rfl | hz
        · exact Nat.le_of_lt before
        · exact least z hz
      · next notBefore =>
        cases h
        refine ⟨List.mem_cons_self, fun z hz => ?_⟩
        rcases List.mem_cons.1 hz with rfl | hz
        · exact Nat.le_refl _
        · exact Nat.le_trans (Nat.not_lt.1 notBefore) (least z hz)

theorem firstOffer_isSome {last : CursorId} {offers : List Offer} (h : offers ≠ []) : ∃ o, firstOffer last offers = some o := by
  cases offers with
  | nil => exact absurd rfl h
  | cons y rest =>
    unfold firstOffer
    split
    · exact ⟨_, rfl⟩
    · split <;> exact ⟨_, rfl⟩

/-- The offers of DE that the arbiter may take (R119, R130). -/
def PE.openOffers (e : PE) (offers : List Offer) : List Offer := offers.filter fun o => e.dev ≠ .restarting && e.has o.sess

theorem PE.has_eq_true (e : PE) (sess : SessId) : e.has sess = true ↔ e.sess.isOpen = true ∧ e.sess.number = sess.number := by
  simp only [PE.has, Bool.and_eq_true, decide_eq_true_eq]

theorem PE.mem_openOffers {e : PE} {offers : List Offer} {o : Offer} : o ∈ e.openOffers offers ↔
    o ∈ offers ∧ e.dev ≠ .restarting ∧ e.sess.isOpen = true ∧ e.sess.number = o.sess.number := by
  simp only [PE.openOffers, List.mem_filter, Bool.and_eq_true, decide_eq_true_eq, PE.has_eq_true]

section Arbitrate

variable {p : Port} {env : PeEnv} {e : PE} {ms : List Instr} {sess : SessId} {n : Notice}

theorem PE.arbitrate_free (hl : e.link = true) (ht : e.tx = none) : PE.arbitrate p env ⟨e, ms⟩ =
    match e.replies with
    | r :: rest => (Work.mk e ms).mod fun e =>
        { e.transmit (.reply r.source) 0x80 r.tag r.body with replies := rest, preferDeliver := false }
    | [] =>
      match env.notice.filter (fun x => e.has x.1), firstOffer e.lastCursor (e.openOffers env.offers) with
      | some (sess, n), some o => if e.preferDeliver then PE.takeDeliver o ⟨e, ms⟩ else PE.takeNotice p sess n ⟨e, ms⟩
      | some (sess, n), none => PE.takeNotice p sess n ⟨e, ms⟩
      | none, some o => PE.takeDeliver o ⟨e, ms⟩
      | none, none => ⟨e, ms⟩ := by
  unfold PE.arbitrate
  rw [if_neg (by simp [hl, ht])]
  rfl

theorem PE.arbitrate_notice (hl : e.link = true) (ht : e.tx = none) (hr : e.replies = [])
    (hn : env.notice = some (sess, n)) (hs : e.has sess = true)
    (ho : e.openOffers env.offers = [] ∨ e.preferDeliver = false) :
    PE.arbitrate p env ⟨e, ms⟩ = PE.takeNotice p sess n ⟨e, ms⟩ := by
  have stands : env.notice.filter (fun x => e.has x.1) = some (sess, n) := by
    rw [hn]
    exact Option.filter_some_pos hs
  rw [PE.arbitrate_free hl ht, hr, stands]
  rcases ho with ho | ho
  · rw [ho]
    rfl
  · cases firstOffer e.lastCursor (e.openOffers env.offers) with
    | none => rfl
    | some o => exact if_neg (by simp [ho])

theorem PE.arbitrate_deliver {o : Offer} (hl : e.link = true) (ht : e.tx = none) (hr : e.replies = [])
    (ho : firstOffer e.lastCursor (e.openOffers env.offers) = some o)
    (hn : e.preferDeliver = true ∨ ∀ sess n, env.notice = some (sess, n) → ¬ e.has sess = true) :
    PE.arbitrate p env ⟨e, ms⟩ = PE.takeDeliver o ⟨e, ms⟩ := by
  rw [PE.arbitrate_free hl ht, hr, ho]
  cases stands : env.notice.filter fun x => e.has x.1 with
  | none => rfl
  | some x =>
    obtain ⟨sess, n⟩ := x
    obtain ⟨offered, open'⟩ := Option.filter_eq_some_iff.1 stands
    exact if_pos (hn.resolve_right fun h => h sess n offered open')

theorem PE.arbitrate_none (hl : e.link = true) (ht : e.tx = none) (hr : e.replies = []) (ho : e.openOffers env.offers = [])
    (hn : ∀ sess n, env.notice = some (sess, n) → ¬ e.has sess = true) : PE.arbitrate p env ⟨e, ms⟩ = ⟨e, ms⟩ := by
  have nothing : env.notice.filter (fun x => e.has x.1) = none := by
    rw [Option.filter_eq_none_iff]
    exact fun x hx => hn x.1 x.2 hx
  rw [PE.arbitrate_free hl ht, hr, ho, nothing]
  rfl

end Arbitrate

/-- The event of a Port Engine whose arbiter's work is known. -/
theorem State.onPe_eq {t : State} {p : Port} {e e' : PE} {ms ms' : List Instr}
    (h : PE.arbitrate p (t.peEnv p) ⟨e, ms⟩ = ⟨e', ms'⟩) :
    (t.onPe p fun _ => ⟨e, ms⟩) = ({ t with pe := t.pe.set p e' } : State).post (.pe p) ms' := by
  simp only [State.onPe, h]

/-! ### The last byte of a frame (R171, R173, R190) -/

section Sent

variable {p : Port} {x : Tx} {e : PE} {out : List Instr} {k : SlotId}

/-- A frame's kind byte of the REPLY body, and its status (R190, R213). -/
theorem isByeOk_reply {tag kind : Byte} {a : Answer} (hx : x.bytes = frameBytes 0x80 tag (replyBody kind a)) (hk : kind ≠ 0x02) :
    isByeOk x = false := by
  have fifth : x.bytes.getD 5 0 = kind := by rw [hx]; rfl
  unfold isByeOk
  rw [fifth, decide_eq_false hk, Bool.false_and]

theorem isByeOk_bye {tag : Byte} (hx : x.bytes = frameBytes 0x80 tag [0x02, 0x00, 0x00]) : isByeOk x = true := by
  unfold isByeOk
  rw [hx]
  rfl

/-- The end of a frame by what was on the line. -/
theorem PE.frameSent_eq (h : e.tx = some x) : PE.frameSent p ⟨e, out⟩ =
    match x.source with
    | .reply src => PE.replyOut p x src ⟨{ e with tx := none }, out⟩
    | .deliver b =>
      if x.reported then ⟨{ e with tx := none }, out⟩
      else ((Work.mk { e with tx := none } out).mod fun e =>
        e.onCounters fun c => { c with deliveriesSent := count c.deliveriesSent 1 }).send (.deliverSent b)
    | .notice sess n => if x.reported then ⟨{ e with tx := none }, out⟩ else PE.noticeOut p sess n ⟨{ e with tx := none }, out⟩ := by
  unfold PE.frameSent
  rw [h]
  rfl

theorem PE.replyOut_stays (h : isByeOk x = false ∨ e.sess.endPending ≠ .bye ∨ e.slots[k].owner ≠ some ⟨p, e.sess.number⟩) :
    PE.replyOut p x (.slot k) ⟨e, out⟩ = ⟨{ e with slots := e.slots.set k ⟨.free, 0, 0, [], none, false⟩ }, out⟩ := by
  refine if_neg fun ends => ?_
  simp only [Bool.and_eq_true, decide_eq_true_eq] at ends
  obtain ⟨⟨bye, pending⟩, owned⟩ := ends
  rcases h with h | h | h
  · rw [h] at bye; cases bye
  · exact h pending
  · exact h owned

theorem PE.replyOut_ends (hb : isByeOk x = true) (hp : e.sess.endPending = .bye)
    (ho : e.slots[k].owner = some ⟨p, e.sess.number⟩) : PE.replyOut p x (.slot k) ⟨e, out⟩ =
      PE.endSession p ⟨{ e with slots := e.slots.set k ⟨.free, 0, 0, [], none, false⟩ }, out⟩ :=
  if_pos (by simp only [hb, hp, ho, decide_true]; rfl)

/-- A NOTICE that is out, counted. -/
def PE.noticeCounted (e : PE) : PE :=
  { e with counters := { e.counters with noticesSent := min 4294967295 (e.counters.noticesSent + 1) } }

theorem PE.noticeOut_stays {sess : SessId} {n : Notice} (h : n.kind ≠ .restart) :
    PE.noticeOut p sess n ⟨e, out⟩ = ⟨e.noticeCounted, out ++ [.noticeSentReport sess n true]⟩ :=
  if_neg (by simp [h])

theorem PE.noticeOut_ends {sess : SessId} {n : Notice} (h : n.kind = .restart) (hs : e.has sess = true) :
    PE.noticeOut p sess n ⟨e, out⟩ = PE.endSession p ⟨e.noticeCounted, out ++ [.noticeSentReport sess n true]⟩ := by
  have same : e.noticeCounted.has sess = true := hs
  exact if_pos (by simp only [h, decide_true, Bool.true_and]; exact same)

end Sent

end Sys2Proof.Machine

/-! The statement about the transmitter. -/

section
open Sys2Proof Sys2Proof.Machine

/-- Settles O51: the arbiter's choice by the line, the queue and the preference; a frame's end by its source. -/
theorem transmitterResults : Obligations.TransmitterResults := by
  refine ⟨⟨fun p s t h => arrive_pe h rfl, fun p t o => ?_, fun p e ms t offers hoffers => ⟨fun idle => ?_, fun up free => ?_⟩⟩, ?_⟩
  · rw [State.mem_offers]
    simp only [State.offerOf_eq_some]
    constructor
    · rintro ⟨k, running, ready, untaken, owner, buf, cursor, body⟩
      exact ⟨running, k, _, rfl, ready, untaken, owner, buf, cursor, body⟩
    · rintro ⟨running, k, x, rfl, ready, untaken, owner, buf, cursor, body⟩
      exact ⟨k, running, ready, untaken, owner, buf, cursor, body⟩
  · exact State.onPe_eq (PE.arbitrate_idle idle)
  · have same : ∀ o, o ∈ e.openOffers (t.peEnv p).offers ↔ o ∈ offers := fun o => PE.mem_openOffers.trans (hoffers o).symm
    have empty : e.openOffers (t.peEnv p).offers = [] ↔ offers = [] := by
      rw [List.eq_nil_iff_forall_not_mem, List.eq_nil_iff_forall_not_mem]
      exact forall_congr' fun o => not_congr (same o)
    have closed : ∀ sess : SessId, (e.sess.isOpen = false ∨ e.sess.number ≠ sess.number) → ¬ e.has sess = true := by
      intro sess h hs
      obtain ⟨opened, number⟩ := (PE.has_eq_true e sess).1 hs
      rcases h with h | h
      · rw [opened] at h; cases h
      · exact h number
    refine ⟨fun r rest hr => State.onPe_eq ?_, fun sess n hr hn opened number ho => State.onPe_eq ?_,
      fun hr some hn => ?_, fun hr none hn => State.onPe_eq ?_⟩
    · rw [PE.arbitrate_free up free, hr]
      rfl
    · exact PE.arbitrate_notice up free hr hn ((PE.has_eq_true e sess).2 ⟨opened, number⟩) (ho.imp_left empty.2)
    · obtain ⟨o, ho⟩ := firstOffer_isSome (last := e.lastCursor) (mt empty.1 some)
      obtain ⟨mem, least⟩ := firstOffer_some ho
      exact ⟨o, (same o).1 mem, fun x hx => least x ((same x).2 hx), State.onPe_eq (PE.arbitrate_deliver up free hr ho
        (hn.imp_right fun h sess n offered => closed sess (h sess n offered)))⟩
    · exact PE.arbitrate_none up free hr (empty.2 none) fun sess n offered => closed sess (hn sess n offered)
  · rintro p x e s t h hx rfl
    have work : PE.frameSent p (Work.start t.pe[p]) = _ := PE.frameSent_eq hx
    refine ⟨fun hs => ?_, fun k g hs hg => ⟨fun stays => ?_, fun tag kind a hb hk => ?_, fun tag hb pending owner => ?_⟩,
      fun b hs => ⟨fun fresh => ?_, fun reported => ?_⟩, fun sess n hs => ⟨fun reported => ?_,
      fun g fresh hg => ⟨fun other => ?_, fun restart opened number => ?_⟩⟩⟩ <;> rw [hs] at work
    · exact arrive_pe h work
    · subst hg
      exact arrive_pe h (work.trans (PE.replyOut_stays (.inr stays)))
    · subst hg
      exact arrive_pe h (work.trans (PE.replyOut_stays (.inl (isByeOk_reply hb hk))))
    · subst hg
      exact ⟨_, arrive_takes h _, sessionEnds_onPe (work.trans (PE.replyOut_ends (isByeOk_bye hb) pending owner))⟩
    · exact arrive_pe h (work.trans (if_neg (Bool.eq_false_iff.1 fresh)))
    · exact arrive_pe h (work.trans (if_pos reported))
    · exact arrive_pe h (work.trans (if_pos reported))
    · subst hg
      exact arrive_pe h (work.trans ((if_neg (Bool.eq_false_iff.1 fresh)).trans (PE.noticeOut_stays other)))
    · subst hg
      exact ⟨_, arrive_takes h _, sessionEnds_onPe (work.trans ((if_neg (Bool.eq_false_iff.1 fresh)).trans
        (PE.noticeOut_ends restart ((PE.has_eq_true _ sess).2 ⟨opened, number⟩))))⟩
end

/-! SUPPORT. HELLO, the admin holder and the holder's answer (R166 to R168, R173). -/

namespace Sys2Proof.Machine

/-! ### The admin holder (R167) -/

/-- A command at the admin holder whose work is known. -/
theorem arrive_holder {c : Instr} {s t : State} {f : State → Work (Option Port) → Work (Option Port)} {o : Option Port}
    {ms : List Instr} (h : Takes c s t) (hf : f t (Work.start t.holder) = ⟨o, ms⟩) :
    arrive c s (fun t => t.onHolder (f t)) = .next (({ t with holder := o } : State).post .holder ms) := by
  rw [arrive_takes h, State.onHolder, hf]

theorem arrive_holder_silent {c : Instr} {s t : State} {f : State → Work (Option Port) → Work (Option Port)}
    {o : Option Port} (h : Takes c s t) (hf : f t (Work.start t.holder) = ⟨o, []⟩) :
    arrive c s (fun t => t.onHolder (f t)) = .next { t with holder := o } :=
  (arrive_holder h hf).trans (congrArg Host.Outcome.next (State.post_nil _ _))

theorem claimHolder_free {p : Port} {w : Work (Option Port)} (h : w.st = none) :
    claimHolder p w = ⟨some p, w.out ++ [.adminClaimAnswer p true]⟩ := by
  unfold claimHolder
  rw [h]
  rfl

theorem claimHolder_held {p : Port} {w : Work (Option Port)} (h : w.st ≠ none) :
    claimHolder p w = w.send (.adminClaimAnswer p false) := by
  obtain ⟨q, hq⟩ := Option.ne_none_iff_exists'.1 h
  unfold claimHolder
  rw [hq]

/-! ### HELLO (R166, R168) -/

/-- A HELLO that opens nothing, answered. -/
def helloRefused (p : Port) (k : SlotId) (d : DevReport) (st : Status) (n : Nat) : Instr :=
  .answerArrival p k ⟨st, n, .hello 0 .client d 0⟩

theorem PE.refuseHello_eq (p : Port) (k : SlotId) (st : Status) (n : Nat) (w : Work PE) :
    PE.refuseHello p k st n w = ⟨w.st, w.out ++ [helloRefused p k w.st.dev st n]⟩ := rfl

section Hello

variable {p : Port} {k : SlotId} {env : PeEnv} {tick : Tick} {b : HelloBody} {w : Work PE}

theorem PE.hello_held (h : w.st.slots[k].state = .held) : PE.hello p env k w =
    match helloBody w.st.slots[k].body with
    | .error d => PE.refuseHello p k .malformed d w
    | .ok b =>
      match helloState w.st.dev with
      | some st => PE.refuseHello p k st 0 w
      | none =>
        if w.st.sess.isOpen then
          w.answer (helloReq p k) ⟨.wrongState, 0, .hello w.st.sess.number w.st.sess.role w.st.dev env.cursors⟩
        else if w.st.sess.claim.isSome then PE.refuseHello p k .wrongState 0 w
        else PE.helloOpen p env.tick k b w := if_neg (Classical.not_not.2 h)

theorem PE.hello_malformed {d : Nat} (h : w.st.slots[k].state = .held) (hb : helloBody w.st.slots[k].body = .error d) :
    PE.hello p env k w = PE.refuseHello p k .malformed d w := by
  rw [PE.hello_held h, hb]

theorem PE.hello_unready {st : Status} (h : w.st.slots[k].state = .held) (hb : helloBody w.st.slots[k].body = .ok b)
    (hs : helloState w.st.dev = some st) : PE.hello p env k w = PE.refuseHello p k st 0 w := by
  rw [PE.hello_held h, hb, hs]

theorem PE.hello_ready (h : w.st.slots[k].state = .held) (hb : helloBody w.st.slots[k].body = .ok b)
    (hd : w.st.dev = .ready) : PE.hello p env k w =
      if w.st.sess.isOpen then
        w.answer (helloReq p k) ⟨.wrongState, 0, .hello w.st.sess.number w.st.sess.role w.st.dev env.cursors⟩
      else if w.st.sess.claim.isSome then PE.refuseHello p k .wrongState 0 w
      else PE.helloOpen p env.tick k b w := by
  have state : helloState w.st.dev = none := by rw [hd]; rfl
  rw [PE.hello_held h, hb, state]

theorem PE.hello_opens (h : w.st.slots[k].state = .held) (hb : helloBody w.st.slots[k].body = .ok b)
    (hd : w.st.dev = .ready) (ho : w.st.sess.isOpen = false) (hc : w.st.sess.claim = none) :
    PE.hello p env k w = PE.helloOpen p env.tick k b w := by
  rw [PE.hello_ready h hb hd, if_neg (Bool.eq_false_iff.1 ho), if_neg (by simp [hc])]

/-! ### The values of a HELLO (R166, item 4) -/

theorem roleOf_large {n : Nat} (h : 2 ≤ n) : roleOf n = none :=
  match n, h with
  | _ + 2, _ => rfl

theorem roleOf_small {n : Nat} (h : n < 2) : ∃ r, roleOf n = some r :=
  match n, h with
  | 0, _ => ⟨_, rfl⟩
  | 1, _ => ⟨_, rfl⟩

theorem PE.helloOpen_badRole (h : 2 ≤ b.role) : PE.helloOpen p tick k b w = PE.refuseHello p k .outOfRange 1 w := by
  simp only [PE.helloOpen, checkHello, roleOf_large h]

theorem PE.helloOpen_badKeepalive (hr : b.role < 2) (hk : b.keepalive < 100 ∨ 10000 < b.keepalive) :
    PE.helloOpen p tick k b w = PE.refuseHello p k .outOfRange 2 w := by
  obtain ⟨role, hrole⟩ := roleOf_small hr
  simp only [PE.helloOpen, checkHello, hrole, if_pos hk]

theorem PE.helloOpen_badMask (hr : b.role < 2) (hk : ¬ (b.keepalive < 100 ∨ 10000 < b.keepalive)) (hm : 8 ≤ b.mask) :
    PE.helloOpen p tick k b w = PE.refuseHello p k .outOfRange 3 w := by
  obtain ⟨role, hrole⟩ := roleOf_small hr
  simp only [PE.helloOpen, checkHello, hrole, if_neg hk, maskOf_large hm]

/-- A HELLO whose values pass is checked as its role and mask. -/
theorem checkHello_ok {role : Role} {m : Mask} (hr : roleOf b.role = some role)
    (hk : ¬ (b.keepalive < 100 ∨ 10000 < b.keepalive)) (hm : maskOf b.mask = some m) : checkHello b = .ok (role, m) := by
  simp only [checkHello, hr, if_neg hk, hm]

theorem PE.helloOpen_client {m : Mask} (h : checkHello b = .ok (.client, m)) :
    PE.helloOpen p tick k b w = PE.openSession p tick k .client b.keepalive m w := by
  rw [PE.helloOpen, h]

theorem PE.helloOpen_admin {m : Mask} (h : checkHello b = .ok (.admin, m)) (hg : w.st.grant = true) :
    PE.helloOpen p tick k b w =
      ⟨{ w.st with sess := { w.st.sess with claim := some ⟨k, b.keepalive, m⟩ } }, w.out ++ [.adminClaim p]⟩ := by
  rw [PE.helloOpen, h]
  exact if_pos hg

theorem PE.helloOpen_ungranted {m : Mask} (h : checkHello b = .ok (.admin, m)) (hg : w.st.grant = false) :
    PE.helloOpen p tick k b w = PE.refuseHello p k .adminHeld 0 w := by
  rw [PE.helloOpen, h]
  exact if_neg (Bool.eq_false_iff.1 hg)

/-- A session opens (R166, steps 1 to 4). -/
theorem PE.openSession_eq (role : Role) (keepalive : Nat) (m : Mask) : PE.openSession p tick k role keepalive m w =
    ⟨{ w.st with
        sess := ⟨true, .none, role, keepalive, some (tick + BitVec.ofNat 32 (2 * keepalive)), m, w.st.sess.number + 1, none⟩ },
      w.out ++ [.sessionOpenReport ⟨p, w.st.sess.number + 1⟩ m,
        .answerArrival p k ⟨.ok, 0, .hello (w.st.sess.number + 1) role w.st.dev 0⟩]⟩ :=
  congrArg (Work.mk _) (List.append_assoc _ _ _)

end Hello

/-! ### The holder's answer (R167, R173) -/

section Claim

variable {p : Port} {tick : Tick} {granted : Bool} {c : Claim} {e : PE} {w : Work PE}

/-- A claim's answer, with the claim gone from the session record. -/
theorem PE.claimAnswer_eq (h : w.st.sess.claim = some c) (he : e = { w.st with sess := { w.st.sess with claim := none } }) :
    PE.claimAnswer p tick granted w =
      if e.dev = .ready && e.link && granted && e.grant then PE.openSession p tick c.slot .admin c.keepalive c.mask ⟨e, w.out⟩
      else if e.dev = .ready then
        PE.refuseHello p c.slot .adminHeld 0 ⟨e, w.out ++ if granted then [.adminRelease p] else []⟩
      else PE.settle p ⟨e, w.out ++ if granted then [.adminRelease p] else []⟩ := by
  subst he
  unfold PE.claimAnswer
  rw [h]
  simp only [Work.send_if]
  rfl

end Claim

end Sys2Proof.Machine

/-! The statement about HELLO and the admin holder. -/

section
open Sys2Proof Sys2Proof.Machine

/-- Settles O52: HELLO's checks in order; the holder by whether it is empty; its answer by device state, link and grant. -/
theorem helloAndHolderResults : Obligations.HelloAndHolderResults := by
  refine ⟨?_, fun p s t => ⟨fun h => ⟨fun free => ?_, fun held => ?_⟩, fun h => ⟨fun names => ?_, fun other => ?_⟩⟩, ?_⟩
  · intro p k s t refuse h held hrefuse
    obtain rfl : helloRefused p k t.pe[p].dev = refuse := funext fun st => funext fun n => (hrefuse st n).symm
    refine ⟨fun d hb => arrive_pe h (PE.hello_malformed (w := Work.start t.pe[p]) held hb),
      fun b hb => ⟨fun hd => ?_, fun hd => ?_, fun hd => ⟨fun opened => ?_, fun closed claimed => ?_, fun closed unclaimed => ?_⟩⟩⟩
    · have state : helloState t.pe[p].dev = some .starting := by rcases hd with hd | hd <;> rw [hd] <;> rfl
      exact arrive_pe h (PE.hello_unready (w := Work.start t.pe[p]) held hb state)
    · have state : helloState t.pe[p].dev = some .deviceFailed := by rw [hd]; rfl
      exact arrive_pe h (PE.hello_unready (w := Work.start t.pe[p]) held hb state)
    · refine arrive_pe h ((PE.hello_ready (w := Work.start t.pe[p]) held hb hd).trans ((if_pos opened).trans ?_))
      rw [← hd]
      rfl
    · exact arrive_pe h ((PE.hello_ready (w := Work.start t.pe[p]) held hb hd).trans
        ((if_neg (Bool.eq_false_iff.1 closed)).trans (if_pos (Option.isSome_iff_ne_none.2 claimed))))
    · have goes : ∀ {w : Work PE}, PE.helloOpen p t.tb.tick k b (Work.start t.pe[p]) = w →
          exec (.hello p k) s = .next (t.onPe p fun _ => w) := fun hw =>
        arrive_pe h ((PE.hello_opens (w := Work.start t.pe[p]) held hb hd closed unclaimed).trans hw)
      refine ⟨fun role => goes (PE.helloOpen_badRole role), fun role alive => goes (PE.helloOpen_badKeepalive role alive),
        fun role low high mask => goes (PE.helloOpen_badMask role (by omega) mask), fun m low high mask => ?_⟩
      have alive : ¬ (b.keepalive < 100 ∨ 10000 < b.keepalive) := by omega
      refine ⟨fun role => goes ?_, fun role grant => goes ?_, fun role grant => goes ?_⟩
      · have checked := checkHello_ok (b := b) (role := .client) (by rw [role]; rfl) alive mask
        refine (PE.helloOpen_client checked).trans ((PE.openSession_eq ..).trans ?_)
        rw [← hd]
        rfl
      · exact PE.helloOpen_admin (checkHello_ok (b := b) (role := .admin) (by rw [role]; rfl) alive mask) grant
      · exact PE.helloOpen_ungranted (checkHello_ok (b := b) (role := .admin) (by rw [role]; rfl) alive mask) grant
  · exact arrive_holder h (claimHolder_free free)
  · exact arrive_holder h (claimHolder_held held)
  · exact arrive_holder_silent h (if_pos names)
  · exact arrive_holder_silent h (if_neg other)
  · intro p granted c e s t h hc he
    have answered : PE.claimAnswer p t.tb.tick granted (Work.start t.pe[p]) = _ := PE.claimAnswer_eq hc he
    refine ⟨fun ready link given grant => arrive_pe h ?_, fun ready lost => arrive_pe h ?_,
      fun restarting closed unsettled => arrive_pe h ?_⟩
    · refine answered.trans ((if_pos (by simp only [ready, link, given, grant]; rfl)).trans ((PE.openSession_eq ..).trans ?_))
      rw [← ready]
      rfl
    · refine answered.trans ((if_neg fun all => ?_).trans ((if_pos ready).trans ?_))
      · simp only [Bool.and_eq_true] at all
        obtain ⟨⟨⟨-, link⟩, given⟩, grant⟩ := all
        rcases lost with no | no | no
        · rw [link] at no; cases no
        · rw [given] at no; cases no
        · rw [grant] at no; cases no
      · rw [← ready]
        rfl
    · have unready : e.dev ≠ .ready := by rw [restarting]; nofun
      have unclaimed : e.sess.claim = none := by rw [he]
      exact answered.trans ((if_neg (by simp [unready])).trans ((if_neg unready).trans
        (PE.settle_now restarting closed unclaimed unsettled)))
end

/-! SUPPORT. Keepalive, BYE and PING, PORT_STATUS and PORT_GRANT (R162, R169 to R171, R174, R175). -/

namespace Sys2Proof.Machine

/-! ### Keepalive, BYE and PING (R169 to R171) -/

section Session

variable {p : Port} {d : Tick} {r : Req} {body : List Byte} {w : Work PE}

theorem PE.keepaliveExpiry_ends (ho : w.st.sess.isOpen = true) (hp : w.st.sess.endPending = .none)
    (hd : w.st.sess.deadline = some d) : PE.keepaliveExpiry p d w = PE.endSession p w :=
  if_pos (by simp only [ho, hp, hd, decide_true]; rfl)

theorem PE.keepaliveExpiry_stale
    (h : w.st.sess.isOpen = false ∨ w.st.sess.endPending ≠ .none ∨ w.st.sess.deadline ≠ some d) :
    PE.keepaliveExpiry p d w = w := by
  refine if_neg fun all => ?_
  simp only [Bool.and_eq_true, decide_eq_true_eq] at all
  obtain ⟨⟨opened, staying⟩, deadline⟩ := all
  rcases h with h | h | h
  · rw [opened] at h; cases h
  · exact h staying
  · exact h deadline

theorem PE.bye_eq (h : w.st.has r.sess = true) : PE.bye r [] w =
    ⟨{ w.st with sess := { w.st.sess with endPending := .bye, deadline := none } }, w.out ++ [reply r okAnswer]⟩ :=
  congrArg (Work.mk · (w.out ++ [reply r okAnswer])) (if_pos h)

theorem PE.bye_malformed (h : body ≠ []) : PE.bye r body w = w.refuse r .malformed 0 := by
  rw [PE.bye, emptyBody_ne h, Work.layout_error]

theorem PE.ping_malformed {env : PeEnv} (h : body ≠ []) : PE.ping env r body w = w.refuse r .malformed 0 := by
  rw [PE.ping, emptyBody_ne h, Work.layout_error]

end Session

/-! ### PORT_STATUS (R162) -/

/-- The count of a table's entries with a property is that of their indices. -/
theorem countP_toList {α : Type} {n : Nat} (v : Vector α n) (q : α → Bool) :
    v.toList.countP q = ((List.finRange n).filter fun k => q v[k]).length := by
  have table : v.toList = (List.finRange n).map fun k => v[k] := by
    refine List.ext_getElem (by simp) fun i h1 h2 => ?_
    simp
  rw [table, List.countP_map, List.countP_eq_length_filter]
  rfl

section Status

variable {p : Port} {r : Req} {body : List Byte} {cursors queue lost : Nat} {clear : Bool} {w : Work PE}

/-- The counters of a port once PORT_STATUS has read them (R162). -/
def countersRead (clear : Bool) (c : PortCounters) : PortCounters := if clear then ⟨0, 0, 0, 0, 0, 0, 0, 0⟩ else c

theorem PE.portStatus_eq (hb : idFlagBody body = .ok (p.val, clear)) : PE.portStatus p cursors queue lost r body w =
    ⟨{ w.st with counters := countersRead clear w.st.counters },
      w.out ++ [reply r ⟨.ok, 0, .port (w.st.report p cursors queue lost)⟩]⟩ := by
  rw [PE.portStatus, hb, Work.layout_ok, if_neg (Nat.not_lt.2 (Nat.le_of_lt_succ p.isLt))]
  cases clear <;> rfl

theorem PE.portStatus_refused {v : Nat} (hb : idFlagBody body = .ok (v, clear)) (hv : 4 ≤ v) :
    PE.portStatus p cursors queue lost r body w = w.refuse r .outOfRange 1 := by
  rw [PE.portStatus, hb, Work.layout_ok]
  exact if_pos hv

/-- The notices of an open session at NU are those of the port's queue (R162). -/
theorem State.noticeQueue_open {t : State} (h : OpenAtNu t ⟨p, t.pe[p].sess.number⟩) :
    t.noticeQueue p = t.nu.ports[p].queue.length ∧ t.noticesLost p = t.nu.ports[p].lost :=
  ⟨if_pos ((NU.knows_iff t _).2 h), if_pos ((NU.knows_iff t _).2 h)⟩

end Status

/-! ### PORT_GRANT (R174, R175) -/

section Grant

variable {p : Port} {r : Req} {body : List Byte} {v a : Nat} {w : Work PE}

theorem PE.portGrant_body (hb : grantBody body = .ok (v, a)) : PE.portGrant p r body w =
    if 3 < v then w.refuse r .outOfRange 1
    else if 1 < a then w.refuse r .outOfRange 2
    else if a = 1 then (w.mod fun e => { e with grant := true }).answer r okAnswer
    else if p = 0 then w.refuse r .outOfRange 1
    else (PE.demote p (w.mod fun e => { e with grant := false })).answer r okAnswer := by
  rw [PE.portGrant, hb, Work.layout_ok]

theorem PE.portGrant_named (hb : grantBody body = .ok (p.val, a)) (ha : a ≤ 1) : PE.portGrant p r body w =
    if a = 1 then (w.mod fun e => { e with grant := true }).answer r okAnswer
    else if p = 0 then w.refuse r .outOfRange 1
    else (PE.demote p (w.mod fun e => { e with grant := false })).answer r okAnswer := by
  rw [PE.portGrant_body hb, if_neg (Nat.not_lt.2 (Nat.le_of_lt_succ p.isLt)), if_neg (Nat.not_lt.2 ha)]

theorem PE.demote_admin (ho : w.st.sess.isOpen = true) (hr : w.st.sess.role = .admin) : PE.demote p w =
    ⟨{ w.st with sess := { w.st.sess with role := .client } }, w.out ++
      [.adminRelease p, .noticeEvent ⟨.roleChanged, none, none, some 0, some ⟨p, w.st.sess.number⟩⟩]⟩ :=
  if_pos (by simp only [ho, hr, decide_true]; rfl)

theorem PE.demote_other (h : w.st.sess.isOpen = false ∨ w.st.sess.role = .client) : PE.demote p w = w := by
  refine if_neg fun both => ?_
  simp only [Bool.and_eq_true, decide_eq_true_eq] at both
  obtain ⟨opened, admin⟩ := both
  rcases h with h | h
  · rw [opened] at h; cases h
  · rw [admin] at h; cases h

end Grant

/-! ### CLOCK_SET (R177) -/

/-- A command at the Time Base whose work is known. -/
theorem arrive_tb {c : Instr} {s t : State} {f : State → Work TB → Work TB} {tb : TB} {ms : List Instr} (h : Takes c s t)
    (hf : f t (Work.start t.tb) = ⟨tb, ms⟩) :
    arrive c s (fun t => t.onTb (f t)) = .next (({ t with tb := tb } : State).post (.core .tb) ms) := by
  rw [arrive_takes h, State.onTb, hf]

theorem TB.clockSet_eq {r : Req} {body : List Byte} {v : Nat} {w : Work TB} (hb : oneField 6 body = .ok v) :
    TB.clockSet r body w =
      ⟨{ w.st with clock := BitVec.ofNat 48 v }, w.out ++ [reply r ⟨.ok, 0, .clock w.st.clock⟩]⟩ := by
  rw [TB.clockSet, hb]
  rfl

end Sys2Proof.Machine

/-! The statement about keepalive, port commands and the clock. -/

section
open Sys2Proof Sys2Proof.Machine

/-- Settles O53: each request's work by its layout, its values and the session; the Time Base drops no CLOCK_SET. -/
theorem sessionPortAndClockResults : Obligations.SessionPortAndClockResults := by
  refine ⟨⟨fun p d s t h => ⟨fun opened staying deadline => ?_, fun stale => ?_⟩, fun r s t => ⟨?_, ?_, ?_, ?_⟩⟩, ?_, ?_, ?_, ?_⟩
  · exact ⟨_, arrive_takes h _, sessionEnds_onPe (PE.keepaliveExpiry_ends opened staying deadline)⟩
  · exact arrive_pe h (PE.keepaliveExpiry_stale stale)
  · intro h hb opened
    refine arrive_pe h ?_
    rw [hb]
    exact PE.bye_eq (w := Work.start t.pe[r.sess.port]) ((PE.has_iff t r.sess).2 opened)
  · intro h hb
    refine arrive_pe h ?_
    rw [hb]
    rfl
  · exact fun h hb => arrive_pe h (PE.bye_malformed hb)
  · exact fun h hb => arrive_pe h (PE.ping_malformed hb)
  · intro r p clear s t h hb
    refine ⟨t.pe[p].report p (t.peEnv p).cursors (t.noticeQueue p) (t.noticesLost p), arrive_pe h (PE.portStatus_eq hb),
      rfl, rfl, rfl, rfl, rfl, rfl, rfl, rfl, ?_, fun opened => ⟨if_pos opened, if_pos opened, fun known => ?_⟩, fun closed => ?_⟩
    · exact (countP_toList _ _).trans rfl
    · obtain ⟨queue, lost⟩ := State.noticeQueue_open known
      exact ⟨(if_pos opened).trans queue, (if_pos opened).trans lost⟩
    · have shut := Bool.eq_false_iff.1 closed
      exact ⟨if_neg shut, if_neg shut, if_neg shut, if_neg shut⟩
  · exact fun r p v clear s t h hb hv => arrive_pe h (PE.portStatus_refused hb hv)
  · intro r p s t refuse h hrefuse
    obtain rfl : (fun n => reply r ⟨.outOfRange, n, .empty⟩) = refuse := funext fun n => (hrefuse n).symm
    have clears : ∀ {w : Work PE}, grantBody (t.body r) = .ok (p.val, 0) →
        (if p = 0 then (Work.start t.pe[p]).refuse r .outOfRange 1
          else (PE.demote p ((Work.start t.pe[p]).mod fun e => { e with grant := false })).answer r okAnswer) = w →
        exec (.portGrant r p) s = .next (t.onPe p fun _ => w) := fun hb hw =>
      arrive_pe h ((PE.portGrant_named hb (by decide)).trans ((if_neg (by decide)).trans hw))
    refine ⟨fun v a hb hv => arrive_pe h ((PE.portGrant_body hb).trans (if_pos hv)), fun a hb ha => ?_, fun hb => ?_,
      fun hb => ⟨fun zero => clears hb (if_pos zero), fun other opened admin => clears hb ((if_neg other).trans ?_),
        fun other plain => clears hb ((if_neg other).trans ?_)⟩⟩
    · exact arrive_pe h ((PE.portGrant_body hb).trans
        ((if_neg (Nat.not_lt.2 (Nat.le_of_lt_succ p.isLt))).trans (if_pos ha)))
    · exact arrive_pe h ((PE.portGrant_named hb (by decide)).trans (if_pos rfl))
    · rw [PE.demote_admin (w := (Work.start t.pe[p]).mod fun e => { e with grant := false }) opened admin]
      rfl
    · rw [PE.demote_other (w := (Work.start t.pe[p]).mod fun e => { e with grant := false }) plain]
      rfl
  · intro r v s t hr hb
    have takes : Takes (.clockSet r) s t := ⟨hr, rfl⟩
    exact arrive_tb takes (TB.clockSet_eq hb)
end

/-! SUPPORT. The Delivery Engine: events whose work is known, steps on one cursor, and CURSOR_OPEN with its bind (R85, R86, R89, R90). -/

namespace Sys2Proof.Machine

/-! ### Events whose work is known -/

/-- A command at DE whose work is known: its effect on cursors, views and deferrals, and its own messages first. -/
theorem exec_de {c : Instr} {s t : State} {f : State → Work DE → Work DE} {w : Work DE} (h : Takes c s t)
    (he : exec c s = arrive c s fun t => t.onDe (f t)) (hf : f t (Work.start t.de) = w) :
    ∃ u, exec c s = .next u ∧ OnlyDe t u ∧ u.de.cursors = w.st.cursors ∧ u.de.views = w.st.views ∧
      u.de.deferred = w.st.deferred ∧ SendsFirst (.core .de) t u w.out :=
  ⟨_, he.trans (arrive_takes h _), hf ▸ State.onDe_spec t (f t)⟩

/-- A command at DE that only answers: no cursor changes. -/
theorem exec_de_answers {c : Instr} {s t : State} {f : State → Work DE → Work DE} {ms : List Instr} (h : Takes c s t)
    (he : exec c s = arrive c s fun t => t.onDe (f t)) (hf : f t (Work.start t.de) = ⟨t.de, ms⟩) :
    ∃ u, exec c s = .next u ∧ OnlyDe t u ∧ u.de.cursors = t.de.cursors ∧ SendsFirst (.core .de) t u ms := by
  obtain ⟨u, step, only, cursors, -, -, sent⟩ := exec_de h he hf
  exact ⟨u, step, only, cursors, sent⟩

/-- A command at DE that changes one cursor, and sends. -/
theorem exec_de_changes {c : Instr} {s t : State} {f : State → Work DE → Work DE} {cs : Vector Cursor 64} {w : Work DE}
    {ms : List Instr} (h : Takes c s t) (he : exec c s = arrive c s fun t => t.onDe (f t))
    (hf : f t (Work.start t.de) = w) (hc : w.st.cursors = cs) (hm : w.out = ms) :
    ∃ u, exec c s = .next u ∧ OnlyDe t u ∧ u.de.cursors = cs ∧ SendsFirst (.core .de) t u ms := by
  obtain ⟨u, step, only, cursors, -, -, sent⟩ := exec_de h he hf
  exact ⟨u, step, only, cursors.trans hc, hm ▸ sent⟩

/-! ### Steps on one cursor -/

section Steps

variable {c : CursorId} {w : Work DE}

theorem DE.change_cursor (c : CursorId) (f : Cursor → Cursor) (w : Work DE) :
    (DE.change c f w).st.cursors[c] = f w.st.cursors[c] := upd_self ..

theorem DE.change_change (c : CursorId) (f g : Cursor → Cursor) (w : Work DE) :
    DE.change c g (DE.change c f w) = DE.change c (fun x => g (f x)) w :=
  congrArg (fun cs => Work.mk { w.st with cursors := cs } w.out) (upd_upd ..)

theorem DE.change_congr {f g : Cursor → Cursor} (h : f w.st.cursors[c] = g w.st.cursors[c]) :
    DE.change c f w = DE.change c g w :=
  congrArg (fun cs => Work.mk { w.st with cursors := cs } w.out) (upd_congr h)

theorem DE.reply_eq {r : Req} (h : w.st.cursors[c].req = some r) (a : Answer) : DE.reply c a w = w.answer r a := by
  rw [DE.reply, h]

/-- The end of a cursor's work, where no request waits and no session end is due, in one step. -/
theorem DE.endWork_eq (h1 : w.st.cursors[c].waiting = []) (h2 : w.st.cursors[c].endDue = false) :
    DE.endWork c w = DE.change c (fun x => { x with work := .none, waiting := [] }) w :=
  (endWork_idle c w h1 h2).trans (DE.change_change ..)

/-- The drain test leaves the cursors. -/
theorem DE.drained_cursors (c : CursorId) (w : Work DE) : (DE.drained c w).st.cursors = w.st.cursors := (calm_drained c w).1

end Steps

/-! ### CURSOR_OPEN (R85, R86, R89) -/

section Open

variable {r : Req} {body : List Byte} {b : OpenBody} {i : StreamId} {st : Start} {c : CursorId} {w : Work DE}

theorem DE.cursorOpen_noRoom (hb : openBody body = .ok b) (hc : checkOpen b = .ok (i, st))
    (h : 16 ≤ w.st.sessionCount r.sess ∨ w.st.lowestFree = none) : DE.cursorOpen r body w = w.refuse r .noRoom := by
  rw [DE.cursorOpen, hb, Work.layout_ok, hc]
  by_cases full : 16 ≤ w.st.sessionCount r.sess
  · exact if_pos full
  · have none : w.st.lowestFree = none := h.resolve_left full
    refine (if_neg full).trans ?_
    rw [none]

theorem DE.cursorOpen_binds (hb : openBody body = .ok b) (hc : checkOpen b = .ok (i, st))
    (hn : w.st.sessionCount r.sess < 16) (hl : w.st.lowestFree = some c) : DE.cursorOpen r body w =
      (DE.change c (fun _ => { freeCursor with
        label := b.label, stream := some i, owner := some r.sess, durable := b.durable
        retaining := b.retaining, window := b.window.getD 4, ackTimeout := b.ackTimeout.getD 500
        retryLimit := b.retryLimit.getD 4, work := .bind, req := some r, start := st }) w).send (.bind i c) := by
  rw [DE.cursorOpen, hb, Work.layout_ok, hc]
  refine (if_neg (Nat.not_le.2 hn)).trans ?_
  rw [hl]

theorem DE.sessionCount_eq (d : DE) (sess : SessId) :
    d.sessionCount sess = ((List.finRange 64).filter fun c => decide (CountsFor sess d.cursors[c])).length := by
  have same : ∀ c : CursorId, Cursor.countsFor sess d.cursors[c] = decide (CountsFor sess d.cursors[c]) := fun c =>
    Bool.eq_iff_iff.2 ((Cursor.countsFor_iff sess _).trans decide_eq_true_iff.symm)
  rw [DE.sessionCount, countP_toList]
  exact congrArg List.length (List.filter_congr fun c _ => same c)

theorem DE.lowestFree_eq_some (d : DE) (c : CursorId) :
    d.lowestFree = some c ↔ Unreserved d c ∧ ∀ k < c, ¬ Unreserved d k := by
  rw [DE.lowestFree, find_finRange, DE.unreserved_iff]
  refine and_congr Iff.rfl (forall₂_congr fun k _ => ?_)
  rw [← DE.unreserved_iff, Bool.not_eq_true]

theorem DE.lowestFree_eq_none (d : DE) : d.lowestFree = none ↔ ∀ c : CursorId, ¬ Unreserved d c := by
  rw [DE.lowestFree, List.find?_eq_none]
  exact ⟨fun h c => mt (DE.unreserved_iff d c).2 (h c (List.mem_finRange c)), fun h c _ =>
    mt (DE.unreserved_iff d c).1 (h c)⟩

end Open

/-! ### The bind's answer (R90) -/

/-- A cursor that is open at its start (R90). -/
def Cursor.openedAt (start : Seq) (x : Cursor) : Cursor :=
  { x with state := .active, work := .none, ackSeq := start - 1, nextSeq := start, deliveredTop := start - 1, list := []
           pendingGap := 0, hint := none }

section Bind

variable {c : CursorId} {i : StreamId} {r : Req} {w : Work DE} {head committed : Seq}

theorem DE.bindAnswer_refused (hw : w.st.cursors[c].work = .bind) (hs : w.st.cursors[c].stream = some i)
    (hr : w.st.cursors[c].req = some r) (st : Status) : DE.bindAnswer c (.refused st) w =
      DE.free c (w.answer r (refusal st (if st = .noRoom then 1 else 0))) := by
  simp only [DE.bindAnswer, hw, hs, DE.reply_eq hr]

theorem DE.bindAnswer_granted (hw : w.st.cursors[c].work = .bind) (hs : w.st.cursors[c].stream = some i) :
    DE.bindAnswer c (.granted head committed) w =
      match w.st.cursors[c].start with
      | .head => DE.openAt c (max head w.st.cursors[c].minStart) (DE.seen i committed w)
      | .tail => DE.openAt c (committed + 1) (DE.seen i committed w)
      | .at q e =>
        DE.beginPositioning c i (.at q e) <| DE.change c (fun x =>
          { x with
            state := .seeking, returnState := none, ackSeq := max head w.st.cursors[c].minStart - 1
            nextSeq := max head w.st.cursors[c].minStart, deliveredTop := max head w.st.cursors[c].minStart - 1
            list := [], pendingGap := 0, hint := none }) (DE.seen i committed w) := by
  simp only [DE.bindAnswer, hw, hs] <;> rfl

/-- The work of an open that ends at its start, as one step ahead of the end of the cursor's work (R90). -/
theorem DE.openAt_eq (hr : w.st.cursors[c].req = some r) (p : Seq) : DE.openAt c p w =
    DE.endWork c (DE.drained c ((DE.change c (Cursor.openedAt p) w).answer r (okWith (.opened c p)))) := by
  have req : (DE.change c (Cursor.openedAt p) w).st.cursors[c].req = some r := by rw [DE.change_cursor]; exact hr
  exact congrArg (fun w => DE.endWork c (DE.drained c w)) (DE.reply_eq req _)

theorem Cursor.waiting_nil {x : Cursor} (h : x.waiting = []) : { x with waiting := [] } = x := by rw [← h]

/-- Where no request waits and no session end is due, the opened cursor is as its start makes it (R90). -/
theorem DE.openAt_cursor (hr : w.st.cursors[c].req = some r) (h1 : w.st.cursors[c].waiting = [])
    (h2 : w.st.cursors[c].endDue = false) (p : Seq) :
    (DE.openAt c p w).st.cursors[c] = w.st.cursors[c].openedAt p := by
  have cursor : (DE.drained c ((DE.change c (Cursor.openedAt p) w).answer r (okWith (.opened c p)))).st.cursors[c] =
      w.st.cursors[c].openedAt p := by
    rw [DE.drained_cursors]
    exact DE.change_cursor ..
  rw [DE.openAt_eq hr, DE.endWork_eq ((congrArg Cursor.waiting cursor).trans h1) ((congrArg Cursor.endDue cursor).trans h2),
    DE.change_cursor, cursor]
  exact Cursor.waiting_nil (x := w.st.cursors[c].openedAt p) h1

/-- An open that ends touches no other cursor, and its answer goes first (R90). -/
theorem DE.openAt_near (hr : w.st.cursors[c].req = some r) (p : Seq) :
    Near c ((DE.change c (Cursor.openedAt p) w).answer r (okWith (.opened c p))) (DE.openAt c p w) := by
  rw [DE.openAt_eq hr]
  exact (Near.of_calm (calm_drained c _)).trans (near_endWork c _)

end Bind

end Sys2Proof.Machine

/-! The statement about CURSOR_OPEN. -/

section
open Sys2Proof Sys2Proof.Machine

/-- Settles O35: CURSOR_OPEN by its checks; the counts through the entries' indices; the bind's answer by its start. -/
theorem cursorOpenResults : Obligations.CursorOpenResults := by
  refine ⟨fun r b i st s t h hb hc => ⟨fun full => ?_, fun c few free => ?_⟩,
    fun d => ⟨d.sessionCount_eq, d.lowestFree_eq_some, d.lowestFree_eq_none⟩, fun c i r s t hw hs hr => ⟨?_, ?_, ?_⟩⟩
  · exact exec_de_answers h rfl (DE.cursorOpen_noRoom (w := Work.start t.de) hb hc full)
  · exact exec_de_changes h rfl (DE.cursorOpen_binds (w := Work.start t.de) hb hc few free) rfl rfl
  · intro st h
    obtain ⟨u, step, only, cursors, -, -, sent⟩ := exec_de h rfl (DE.bindAnswer_refused (w := Work.start t.de) hw hs hr st)
    have freed : u.de.cursors[c] = _ := (congrArg (·[c]) cursors).trans (upd_self ..)
    refine ⟨u, step, only, ?_, ?_, ?_, fun d hd => (congrArg (·[d]) cursors).trans (upd_ne _ _ hd), sent⟩
    · rw [freed]; rfl
    · rw [freed]; rfl
    · rw [freed]; rfl
  · intro h k p ht hp
    have work : DE.bindAnswer c (.granted h k) (Work.start t.de) = DE.openAt c p (DE.seen i k (Work.start t.de)) := by
      rw [DE.bindAnswer_granted (w := Work.start t.de) hw hs]
      rcases hp with ⟨start, rfl⟩ | ⟨start, rfl⟩
      · simp only [Work.start_st, start]
      · simp only [Work.start_st, start]
    obtain ⟨u, step, only, cursors, views, -, sent⟩ := exec_de ht rfl work
    obtain ⟨sameViews, others, more⟩ := DE.openAt_near (w := DE.seen i k (Work.start t.de)) hr p
    refine ⟨u, step, only, ?_, fun d hd => ?_, sent.front more, fun hq hd => ?_⟩
    · rw [views, sameViews]
      exact congrArg View.committed (upd_self ..)
    · rw [cursors, others d hd]
      exact upd_ne _ _ hd
    · rw [cursors]
      exact DE.openAt_cursor (w := DE.seen i k (Work.start t.de)) hr hq hd p
  · intro h k q exact' ht start
    have work := DE.bindAnswer_granted (w := Work.start t.de) (head := h) (committed := k) hw hs
    simp only [Work.start_st, start] at work
    obtain ⟨u, step, only, cursors, -, -, sent⟩ := exec_de ht rfl work
    have cursor : u.de.cursors[c] = _ := (congrArg (·[c]) cursors).trans (upd_self ..)
    refine ⟨u, step, only, ?_, ?_, ?_, ?_, sent⟩
    · rw [cursor]
      exact congrArg Cursor.state (DE.change_cursor ..)
    · rw [cursor]
    · rw [cursor]
    · rw [cursor]
      exact congrArg Cursor.returnState (DE.change_cursor ..)
end

/-! SUPPORT. Stalling and positioning at the Delivery Engine (R91 to R93, R124). -/

namespace Sys2Proof.Machine

/-! ### Stalling (R124) -/

theorem Cursor.exhausts_iff (x : Cursor) (e : InFlight) : x.exhausts e = true ↔ Exhausted x e := by
  simp only [Cursor.exhausts, Exhausted, Bool.and_eq_true, decide_eq_true_eq, and_assoc]

section Stall

variable {c : CursorId} {w : Work DE}

theorem DE.exhaust_none (h : ∀ e ∈ w.st.cursors[c].list, ¬ Exhausted w.st.cursors[c] e) : DE.exhaust c w = w := by
  have none : w.st.cursors[c].list.find? w.st.cursors[c].exhausts = none :=
    List.find?_eq_none.2 fun e he => mt (Cursor.exhausts_iff _ e).1 (h e he)
  simp only [DE.exhaust, none]

theorem DE.exhaust_found {e : InFlight} (h : w.st.cursors[c].list.find? w.st.cursors[c].exhausts = some e) :
    DE.exhaust c w = (DE.change c stalledCursor w).sendAll
      (toOwner w.st.cursors[c] fun o => ⟨.cursorStalled, none, some c, some e.seq, some o⟩) := by
  have stalled : DE.exhaust c w = DE.raise c .cursorStalled (some e.seq) (DE.change c stalledCursor w) := by
    simp only [DE.exhaust, h] <;> rfl
  rw [stalled, DE.raise_eq, DE.change_cursor]
  rfl

/-- The lowest exhausted entry stalls the cursor (R124). -/
theorem DE.exhaust_first {before after : List InFlight} {e : InFlight} (hl : w.st.cursors[c].list = before ++ e :: after)
    (hb : ∀ x ∈ before, ¬ Exhausted w.st.cursors[c] x) (he : Exhausted w.st.cursors[c] e) :
    DE.exhaust c w = (DE.change c stalledCursor w).sendAll
      (toOwner w.st.cursors[c] fun o => ⟨.cursorStalled, none, some c, some e.seq, some o⟩) :=
  DE.exhaust_found (List.find?_eq_some_iff_append.2 ⟨(Cursor.exhausts_iff _ e).2 he, before, after, hl, fun x hx => by
    rw [Bool.not_eq_true', ← Bool.not_eq_true, Cursor.exhausts_iff]
    exact hb x hx⟩)

theorem DE.exhaust_cursor {e : InFlight} (hm : e ∈ w.st.cursors[c].list) (he : Exhausted w.st.cursors[c] e) :
    (DE.exhaust c w).st.cursors[c] = stalledCursor w.st.cursors[c] := by
  obtain ⟨e', found⟩ : ∃ e', w.st.cursors[c].list.find? w.st.cursors[c].exhausts = some e' :=
    Option.isSome_iff_exists.1 (List.find?_isSome.2 ⟨e, hm, (Cursor.exhausts_iff _ e).2 he⟩)
  rw [DE.exhaust_found found]
  exact DE.change_cursor ..

end Stall

/-! ### The search's answer (R91) -/

section Search

variable {c : CursorId} {i : StreamId} {a : MapAnswer} {w : Work DE}

theorem DE.searchAnswer_found (hs : w.st.cursors[c].state = .seeking) (hw : w.st.cursors[c].work = .search)
    (hi : w.st.cursors[c].stream = some i) (ha : a ≠ .gone) : DE.searchAnswer c a w =
      (DE.change c (fun x => { x with searchOut := false, work := .position, found := some a }) w).send
        (.positionQuestion i c) := by
  simp only [DE.searchAnswer, hs, hw, hi, if_neg ha, DE.change_change]

theorem DE.searchAnswer_idle (h : w.st.cursors[c].state ≠ .seeking ∨ w.st.cursors[c].work ≠ .search ∨ a = .gone) :
    DE.searchAnswer c a w = DE.change c (fun x => { x with searchOut := false }) w := by
  unfold DE.searchAnswer
  dsimp only
  split
  · next hs hw _ => exact if_pos ((h.resolve_left (Classical.not_not.2 hs)).resolve_left (Classical.not_not.2 hw))
  · rfl

end Search

/-! ### The position answer (R92, R93) -/

/-- The position that a target has, by its start (R92). -/
theorem decidePosition_ok {start : Start} {h t p : Seq} (hp : (start = .head ∧ p = h) ∨ (start = .tail ∧ p = t) ∨
    (∃ q, start = .at q true ∧ h ≤ q ∧ q ≤ t ∧ p = q) ∨ (∃ q, start = .at q false ∧ p = min (max q h) t)) :
    decidePosition start h t = .ok p := by
  rcases hp with ⟨rfl, rfl⟩ | ⟨rfl, rfl⟩ | ⟨q, rfl, low, high, rfl⟩ | ⟨q, rfl, rfl⟩
  · rfl
  · rfl
  · have inside : min (max p h) t = p := by rw [Nat.max_eq_left low, Nat.min_eq_left high]
    simp [decidePosition, Nat.not_lt.2 low, Nat.not_lt.2 high, inside]
  · rfl

theorem decidePosition_error {q h t : Seq} {st : Status}
    (hq : (q < h ∧ st = .beforeHead) ∨ (h ≤ q ∧ t < q ∧ st = .beyondTail)) :
    decidePosition (.at q true) h t = .error st := by
  rcases hq with ⟨low, rfl⟩ | ⟨low, high, rfl⟩
  · simp [decidePosition, low]
  · simp [decidePosition, Nat.not_lt.2 low, high]

/-- A cursor whose positioning has succeeded (R92). -/
def Cursor.positioned (p : Seq) (x : Cursor) : Cursor :=
  { x with
    state := x.returnState.getD .active, returnState := none, ackSeq := p - 1, nextSeq := p, deliveredTop := p - 1
    list := [], hint := hintAt x.found x.start p, minStart := 0, work := .none }

/-- A cursor whose seek is refused (R93). -/
def Cursor.returned (back : CursorState) (x : Cursor) : Cursor :=
  { x with state := back, returnState := none, minStart := 0, work := .none }

theorem hintAt_found {q : Seq} {exact : Bool} {lpn : Lpn} {rec : MapRec} (p : Seq) :
    hintAt (some (.found lpn rec)) (.at q exact) p = if p = q then some ⟨lpn, rec.ppn, 0, rec.firstSeq⟩ else none := rfl

theorem hintAt_none {found : Option MapAnswer} {start : Start} (p : Seq)
    (h : start = .head ∨ start = .tail ∨ ∀ lpn rec, found ≠ some (.found lpn rec)) : hintAt found start p = none := by
  unfold hintAt
  split
  · rcases h with h | h | h
    · cases h
    · cases h
    · exact absurd rfl (h _ _)
  · rfl

section Position

variable {c : CursorId} {i : StreamId} {r : Req} {w : Work DE} {head committed p : Seq} {st : Status}

/-- What a positioning that succeeds sends first: the answer, and the floor trigger of a retaining cursor (R92). -/
def positionMessages (c : CursorId) (i : StreamId) (r : Req) (p : Seq) (x : Cursor) : List Instr :=
  [reply r ⟨.ok, 0, if x.returnState = none then .opened c p else .sequence p⟩] ++
    if x.retaining then [.evaluationTrigger i] else []

theorem DE.positionAnswer_accepts (hs : w.st.cursors[c].state = .seeking) (hw : w.st.cursors[c].work = .position)
    (hi : w.st.cursors[c].stream = some i)
    (hp : decidePosition w.st.cursors[c].start (max head w.st.cursors[c].minStart) (committed + 1) = .ok p) :
    DE.positionAnswer c head committed w = DE.acceptPosition c i p (DE.seen i committed w) := by
  simp only [DE.positionAnswer, hs, hw, hi, hp]

theorem DE.positionAnswer_refuses (hs : w.st.cursors[c].state = .seeking) (hw : w.st.cursors[c].work = .position)
    (hi : w.st.cursors[c].stream = some i)
    (hp : decidePosition w.st.cursors[c].start (max head w.st.cursors[c].minStart) (committed + 1) = .error st) :
    DE.positionAnswer c head committed w = DE.refusePosition c st (DE.seen i committed w) := by
  simp only [DE.positionAnswer, hs, hw, hi, hp]

/-- A positioning that succeeds, up to the end of the cursor's work (R92). -/
theorem DE.acceptPosition_eq (hr : w.st.cursors[c].req = some r) : ∃ v, DE.acceptPosition c i p w = DE.endWork c v ∧
    Calm ⟨(DE.discardReads c (DE.change c (Cursor.positioned p) w)).st, w.out ++ positionMessages c i r p w.st.cursors[c]⟩
      v := by
  have moved : DE.change c (fun x => { x with
      state := w.st.cursors[c].returnState.getD .active, returnState := none, ackSeq := p - 1, nextSeq := p
      deliveredTop := p - 1, list := [], hint := hintAt w.st.cursors[c].found w.st.cursors[c].start p, minStart := 0
      work := .none }) w = DE.change c (Cursor.positioned p) w := DE.change_congr rfl
  have req : (DE.discardReads c (DE.change c (Cursor.positioned p) w)).st.cursors[c].req = some r :=
    (congrArg Cursor.req (DE.change_cursor ..)).trans hr
  have sent : (if w.st.cursors[c].retaining = true then
      ((DE.discardReads c (DE.change c (Cursor.positioned p) w)).answer r (okWith
        (if w.st.cursors[c].returnState.isNone then .opened c p else .sequence p))).send (.evaluationTrigger i)
      else (DE.discardReads c (DE.change c (Cursor.positioned p) w)).answer r (okWith
        (if w.st.cursors[c].returnState.isNone then .opened c p else .sequence p))) =
      ⟨(DE.discardReads c (DE.change c (Cursor.positioned p) w)).st, w.out ++ positionMessages c i r p w.st.cursors[c]⟩ := by
    rw [Work.send_if]
    simp only [Option.isNone_iff_eq_none, positionMessages, ← List.append_assoc]
    rfl
  unfold DE.acceptPosition
  simp only [moved, DE.reply_eq req, sent]
  split
  · exact ⟨_, rfl, calm_drained c _⟩
  · exact ⟨_, rfl, Calm.refl _⟩

/-- A positioning that succeeds touches no other cursor, and sends its answer first (R92). -/
theorem DE.acceptPosition_near (hr : w.st.cursors[c].req = some r) :
    Near c ⟨(DE.discardReads c (DE.change c (Cursor.positioned p) w)).st,
      w.out ++ positionMessages c i r p w.st.cursors[c]⟩ (DE.acceptPosition c i p w) := by
  obtain ⟨v, ends, calm⟩ := DE.acceptPosition_eq (i := i) (p := p) hr
  rw [ends]
  exact (Near.of_calm calm).trans (near_endWork c v)

theorem DE.acceptPosition_cursor (hr : w.st.cursors[c].req = some r) (h1 : w.st.cursors[c].waiting = [])
    (h2 : w.st.cursors[c].endDue = false) :
    (DE.acceptPosition c i p w).st.cursors[c] = w.st.cursors[c].positioned p := by
  obtain ⟨v, ends, cursors, -⟩ := DE.acceptPosition_eq (i := i) (p := p) hr
  have cursor : v.st.cursors[c] = w.st.cursors[c].positioned p :=
    (congrArg (·[c]) cursors).trans (DE.change_cursor ..)
  rw [ends, DE.endWork_eq ((congrArg Cursor.waiting cursor).trans h1) ((congrArg Cursor.endDue cursor).trans h2),
    DE.change_cursor, cursor]
  exact Cursor.waiting_nil (x := w.st.cursors[c].positioned p) h1

/-- A refused open is freed: answer, unbind and floor trigger (R93). -/
theorem DE.refusePosition_open (hr : w.st.cursors[c].req = some r) (hb : w.st.cursors[c].returnState = none) :
    DE.refusePosition c st w = DE.endWork c (DE.free c (DE.leave c (w.answer r (refusal st 10)))) := by
  simp only [DE.refusePosition, hb, DE.reply_eq hr]

theorem DE.leave_eq (w : Work DE) : DE.leave c w = w.sendAll (leaveMessages w.st.cursors[c]) := by
  unfold DE.leave leaveMessages
  cases w.st.cursors[c].stream with
  | none => exact (congrArg (Work.mk w.st) (List.append_nil w.out)).symm
  | some i => rfl

theorem DE.free_cursor (w : Work DE) : (DE.free c w).st.cursors[c] =
    { freeCursor with searchOut := w.st.cursors[c].searchOut, waiting := w.st.cursors[c].waiting } := DE.change_cursor ..

/-- The record of a cursor that is freed, once its work has ended and no request waits on it (R93, R98). -/
theorem DE.endWork_free (h : w.st.cursors[c].waiting = []) :
    (DE.endWork c (DE.free c w)).st.cursors[c] = { freeCursor with searchOut := w.st.cursors[c].searchOut } := by
  have cursor := DE.free_cursor (c := c) w
  rw [DE.endWork_eq (by rw [cursor]; exact h) (by rw [cursor]; rfl), DE.change_cursor, cursor]
  rfl

/-- A refused seek returns to its state, and stalls there where an entry is exhausted (R93, R124). -/
theorem DE.refusePosition_seek (hr : w.st.cursors[c].req = some r) {back : CursorState}
    (hb : w.st.cursors[c].returnState = some back) : DE.refusePosition c st w = DE.endWork c
      (if back = .active then DE.exhaust c ((DE.change c (Cursor.returned back) w).answer r (refusal st 4))
        else (DE.change c (Cursor.returned back) w).answer r (refusal st 4)) := by
  have req : (DE.change c (Cursor.returned back) w).st.cursors[c].req = some r := by rw [DE.change_cursor]; exact hr
  have answered := DE.reply_eq req (refusal st 4)
  simp only [DE.refusePosition, hb]
  exact congrArg (fun v => DE.endWork c (if back = .active then DE.exhaust c v else v)) answered

theorem DE.refusePosition_near (hr : w.st.cursors[c].req = some r) {back : CursorState}
    (hb : w.st.cursors[c].returnState = some back) :
    Near c ((DE.change c (Cursor.returned back) w).answer r (refusal st 4)) (DE.refusePosition c st w) := by
  rw [DE.refusePosition_seek hr hb]
  refine Near.trans ?_ (near_endWork c _)
  split
  · exact near_exhaust c _
  · exact Near.refl c _

/-- The cursor of a refused seek, by what the exhaustion test makes of it (R93). -/
theorem DE.refusePosition_cursor (hr : w.st.cursors[c].req = some r) {back : CursorState} {x : Cursor}
    (hb : w.st.cursors[c].returnState = some back) (h1 : x.waiting = []) (h2 : x.endDue = false) (h3 : x.work = .none)
    (hx : (if back = .active then DE.exhaust c ((DE.change c (Cursor.returned back) w).answer r (refusal st 4))
      else (DE.change c (Cursor.returned back) w).answer r (refusal st 4)).st.cursors[c] = x) :
    (DE.refusePosition c st w).st.cursors[c] = x := by
  rw [DE.refusePosition_seek hr hb, DE.endWork_eq ((congrArg Cursor.waiting hx).trans h1)
    ((congrArg Cursor.endDue hx).trans h2), DE.change_cursor, hx, ← h1, ← h3]

end Position

end Sys2Proof.Machine

/-! The statement about positioning. -/

section
open Sys2Proof Sys2Proof.Machine

/-- Settles O36: the search's answer by whether one is awaited; SD's answer by the position that it gives, or refuses. -/
theorem positioningResults : Obligations.PositioningResults := by
  refine ⟨fun c a i s t h => ⟨fun hs hw hi ha => ?_, fun idle => ?_⟩, ?_, ?_⟩
  · exact exec_de_changes h rfl (DE.searchAnswer_found (w := Work.start t.de) hs hw hi ha) rfl rfl
  · obtain ⟨u, step, only, cursors, -⟩ := exec_de_changes h rfl (DE.searchAnswer_idle (w := Work.start t.de) idle) rfl rfl
    exact ⟨u, step, only, cursors⟩
  · intro c h k p i r s t ht hs hw hi hr hp
    have position := decidePosition_ok (h := max h t.de.cursors[c].minStart) (t := k + 1) hp
    have work := DE.positionAnswer_accepts (w := Work.start t.de) hs hw hi position
    obtain ⟨u, step, only, cursors, views, -, sent⟩ := exec_de ht rfl work
    obtain ⟨sameViews, others, more⟩ := DE.acceptPosition_near (i := i) (p := p) (w := DE.seen i k (Work.start t.de)) hr
    refine ⟨u, step, only, ?_, fun d hd => ?_, sent.front more, fun hq hd => ?_⟩
    · rw [views, sameViews]
      exact congrArg View.committed (upd_self ..)
    · rw [cursors, others d hd]
      exact upd_ne _ _ hd
    · have cursor : u.de.cursors[c] = t.de.cursors[c].positioned p := by
        rw [cursors]
        exact DE.acceptPosition_cursor (w := DE.seen i k (Work.start t.de)) hr hq hd
      rw [cursor]
      refine ⟨rfl, rfl, rfl, rfl, rfl, rfl, rfl, rfl, fun q exact' lpn rec start found => ?_, fun none => hintAt_none p none⟩
      simp only [Cursor.positioned, start, found, hintAt_found]
  · intro c h k q st i r s t ht hs hw hi hr start hq
    have refused := decidePosition_error (h := max h t.de.cursors[c].minStart) (t := k + 1) hq
    rw [← start] at refused
    have work := DE.positionAnswer_refuses (w := Work.start t.de) hs hw hi refused
    refine ⟨fun opening => ?_, fun back seeking => ?_⟩
    · rw [DE.refusePosition_open (w := DE.seen i k (Work.start t.de)) hr opening] at work
      obtain ⟨u, step, only, cursors, views, -, sent⟩ := exec_de ht rfl work
      have near := (near_free c (DE.leave c ((DE.seen i k (Work.start t.de)).answer r (refusal st 10)))).trans (near_endWork c _)
      obtain ⟨-, others, -⟩ := (near_leave c ((DE.seen i k (Work.start t.de)).answer r (refusal st 10))).trans near
      obtain ⟨sameViews, -, more⟩ := near
      refine ⟨u, step, only, ?_, fun d hd => ?_, fun hq => ?_, ?_⟩
      · rw [views, sameViews, DE.leave_eq]
        rfl
      · rw [cursors, others d hd]
        rfl
      · have waiting : (DE.leave c ((DE.seen i k (Work.start t.de)).answer r (refusal st 10))).st.cursors[c].waiting = [] := by
          rw [DE.leave_eq]
          exact hq
        rw [cursors, DE.endWork_free waiting, DE.leave_eq]
        rfl
      · have first := sent.front more
        rw [DE.leave_eq] at first
        have leaves : leaveMessages t.de.cursors[c] =
            .unbind i :: if t.de.cursors[c].retaining then [.evaluationTrigger i] else [] := by
          rw [leaveMessages, hi]
        have out : ([] ++ [reply r (refusal st 10)]) ++ leaveMessages t.de.cursors[c] =
            [Instr.answerArrival r.sess.port r.slot ⟨st, 10, .empty⟩, Instr.unbind i] ++
              if t.de.cursors[c].retaining then [Instr.evaluationTrigger i] else [] := by
          rw [leaves]
          rfl
        rw [← out]
        exact first
    · obtain ⟨u, step, only, cursors, views, -, sent⟩ := exec_de ht rfl work
      obtain ⟨sameViews, others, more⟩ := DE.refusePosition_near (st := st) (w := DE.seen i k (Work.start t.de)) hr seeking
      have back' : ((DE.change c (Cursor.returned back) (DE.seen i k (Work.start t.de))).answer r
          (refusal st 4)).st.cursors[c] = t.de.cursors[c].returned back := DE.change_cursor ..
      refine ⟨u, step, only, views.trans sameViews, fun d hd => ?_, sent.front more, fun hq hd => ⟨fun stays => ?_,
        fun e active he exhausted => ?_⟩⟩
      · rw [cursors, others d hd]
        exact upd_ne _ _ hd
      · rw [cursors]
        refine DE.refusePosition_cursor (w := DE.seen i k (Work.start t.de)) (x := t.de.cursors[c].returned back)
          hr seeking hq hd rfl ?_
        split
        · next active =>
          have calm := DE.exhaust_none (c := c) (w := (DE.change c (Cursor.returned back)
            (DE.seen i k (Work.start t.de))).answer r (refusal st 4)) (by
              rw [back']; exact stays.resolve_left (Classical.not_not.2 active))
          rw [calm, back']
        · exact back'
      · rw [cursors]
        refine DE.refusePosition_cursor (w := DE.seen i k (Work.start t.de))
          (x := stalledCursor { t.de.cursors[c] with returnState := none, minStart := 0, work := .none })
          hr seeking hq hd rfl ?_
        rw [if_pos active, DE.exhaust_cursor (e := e) (by rw [back']; exact he) (by rw [back']; exact exhausted), back']
        rfl
end

/-! SUPPORT. Requests that name a cursor: their turn, CURSOR_SEEK, CURSOR_PAUSE and CURSOR_RESUME (R88, R94, R96, R97). -/

namespace Sys2Proof.Machine

/-! ### The turn of a request (R88) -/

section Turn

variable {c : CursorId} {r : Req} {what : CursorRequest} {w : Work DE}

/-- A cursor in a bound state is neither FREE nor ORPHANED (table 5.2). -/
theorem CursorState.bound_ne {z : CursorState} (h : CursorState.bound z = true) : z ≠ .free ∧ z ≠ .orphaned := by
  constructor <;> rintro rfl <;> cases h

theorem DE.arrive_now (hs : w.st.cursors[c].state ≠ .free) (hw : w.st.cursors[c].work = .none) :
    DE.arrive r c.val what w = DE.perform c ⟨r, what⟩ w := by
  unfold DE.arrive
  rw [index_val]
  exact (if_neg hs).trans (if_neg (Classical.not_not.2 hw))

theorem DE.owned_go {go : Work DE → Work DE} (ho : w.st.cursors[c].owner = some r.sess)
    (hs : w.st.cursors[c].state ≠ .orphaned) : DE.owned c r go w = go w :=
  (if_neg (Classical.not_not.2 ho)).trans (if_neg hs)

end Turn

/-! ### CURSOR_SEEK (R94) -/

/-- A cursor on its way to another position (R94). -/
def Cursor.seeks (r : Req) (st : Start) (x : Cursor) : Cursor :=
  { x with state := .seeking, returnState := some x.state, minStart := 0, req := some r, start := st }

section Seek

variable {c : CursorId} {r : Req} {i : StreamId} {f : StartFields} {st : Start} {body : List Byte} {w : Work DE}

theorem DE.cursorSeek_now (hb : seekBody body = .ok (c.val, f)) (hw : w.st.cursors[c].work = .none)
    (ho : w.st.cursors[c].owner = some r.sess) (hf : w.st.cursors[c].state ≠ .free)
    (hs : w.st.cursors[c].state ≠ .orphaned) :
    DE.cursorSeek r body w = DE.seekNow c r f.start f.mode f.target w := by
  rw [DE.cursorSeek, hb, Work.layout_ok]
  exact (DE.arrive_now hf hw).trans ((if_neg hf).trans (DE.owned_go ho hs))

theorem DE.seekNow_starts {a b n : Nat} (hi : w.st.cursors[c].stream = some i)
    (hs : w.st.cursors[c].state = .active ∨ w.st.cursors[c].state = .paused) (hst : startOf 2 a b n = .ok st) :
    DE.seekNow c r a b n w = DE.beginPositioning c i st (DE.change c (Cursor.seeks r st) w) := by
  rcases hs with hs | hs <;> simp only [DE.seekNow, hs, hi, hst] <;>
    exact congrArg (DE.beginPositioning c i st) (DE.change_congr (by simp only [Cursor.seeks, hs]))

theorem DE.seekNow_refuses {a b n k : Nat} (hi : w.st.cursors[c].stream = some i)
    (hs : w.st.cursors[c].state = .active ∨ w.st.cursors[c].state = .paused) (hst : startOf 2 a b n = .error k) :
    DE.seekNow c r a b n w = w.refuse r .outOfRange k := by
  rcases hs with hs | hs <;> simp only [DE.seekNow, hs, hi, hst]

theorem DE.seekNow_wrongState {a b n : Nat}
    (hs : w.st.cursors[c].state = .stalled ∨ w.st.cursors[c].state = .seeking) :
    DE.seekNow c r a b n w = w.refuse r .wrongState := by
  rcases hs with hs | hs <;> simp only [DE.seekNow, hs]

/-- A positioning at HEAD or TAIL begins with SD's question (R95). -/
theorem DE.beginPositioning_question (h : st = .head ∨ st = .tail) : DE.beginPositioning c i st w =
    (DE.change c (fun x => { x with work := .position, found := none }) w).send (.positionQuestion i c) := by
  rcases h with rfl | rfl <;> rfl

/-- A positioning at a sequence begins with MU's search (R91). -/
theorem DE.beginPositioning_search (q : Seq) (exact : Bool) : DE.beginPositioning c i (.at q exact) w =
    (DE.change c (fun x => { x with work := .search, searchOut := true, found := none }) w).send
      (.lookupBySequence i q (.positioning c)) := rfl

/-- The start of a seek whose fields are in range (R89, R94). -/
theorem startOf_at {n mode target : Nat} (hm : mode ≤ 1) (ht : target ≠ 0) :
    startOf n 2 mode target = .ok (.at target (decide (mode = 0))) :=
  (if_neg (Nat.not_lt.2 hm)).trans (if_neg ht)

theorem startOf_error {start mode target k : Nat} (h : (3 ≤ start ∧ k = 2) ∨ (start = 2 ∧ 2 ≤ mode ∧ k = 3) ∨
    (start = 2 ∧ mode ≤ 1 ∧ target = 0 ∧ k = 4)) : startOf 2 start mode target = .error k := by
  rcases h with ⟨far, rfl⟩ | ⟨rfl, high, rfl⟩ | ⟨rfl, low, zero, rfl⟩
  · match start, far with
    | _ + 3, _ => rfl
  · exact if_pos high
  · exact (if_neg (Nat.not_lt.2 low)).trans (if_pos zero)

end Seek

/-! ### CURSOR_PAUSE and CURSOR_RESUME (R96, R97) -/

section Pause

variable {c : CursorId} {r : Req} {body : List Byte} {w : Work DE}

theorem DE.cursorPause_now (hb : oneField 1 body = .ok c.val) (hw : w.st.cursors[c].work = .none)
    (ho : w.st.cursors[c].owner = some r.sess) (hf : w.st.cursors[c].state ≠ .free)
    (hs : w.st.cursors[c].state ≠ .orphaned) : DE.cursorPause r body w = DE.pauseNow c r w := by
  rw [DE.cursorPause, hb, Work.layout_ok]
  exact (DE.arrive_now hf hw).trans ((if_neg hf).trans (DE.owned_go ho hs))

theorem DE.cursorResume_now (hb : oneField 1 body = .ok c.val) (hw : w.st.cursors[c].work = .none)
    (ho : w.st.cursors[c].owner = some r.sess) (hf : w.st.cursors[c].state ≠ .free)
    (hs : w.st.cursors[c].state ≠ .orphaned) : DE.cursorResume r body w = DE.resumeNow c r w := by
  rw [DE.cursorResume, hb, Work.layout_ok]
  exact (DE.arrive_now hf hw).trans ((if_neg hf).trans (DE.owned_go ho hs))

theorem DE.change_unchanged {f : Cursor → Cursor} (h : f w.st.cursors[c] = w.st.cursors[c]) : DE.change c f w = w :=
  congrArg (fun cs => Work.mk { w.st with cursors := cs } w.out) (upd_unchanged h)

theorem DE.pauseNow_pauses (hs : w.st.cursors[c].state = .active ∨ w.st.cursors[c].state = .paused) :
    DE.pauseNow c r w = (DE.change c (fun x => { x with state := .paused }) w).answer r okAnswer := by
  rcases hs with hs | hs
  · simp only [DE.pauseNow, hs]
  · have same : DE.change c (fun x => { x with state := .paused }) w = w := DE.change_unchanged (by rw [← hs])
    simp only [DE.pauseNow, hs, same]

theorem DE.pauseNow_wrongState (hs : w.st.cursors[c].state = .stalled ∨ w.st.cursors[c].state = .seeking) :
    DE.pauseNow c r w = w.refuse r .wrongState := by
  rcases hs with hs | hs <;> simp only [DE.pauseNow, hs]

/-- A PAUSED cursor resumes, and the exhaustion test follows (R97, R124). -/
theorem DE.resumeNow_paused (hs : w.st.cursors[c].state = .paused) : DE.resumeNow c r w =
    DE.exhaust c ((DE.change c (fun x => { x with state := .active }) w).answer r okAnswer) := by
  simp only [DE.resumeNow, hs]

theorem DE.resumeNow_resumes (hs : w.st.cursors[c].state = .stalled ∨ w.st.cursors[c].state = .active ∨
    (w.st.cursors[c].state = .paused ∧ ∀ e ∈ w.st.cursors[c].list, ¬ Exhausted w.st.cursors[c] e)) :
    DE.resumeNow c r w = (DE.change c (fun x => { x with state := .active }) w).answer r okAnswer := by
  rcases hs with hs | hs | ⟨hs, none⟩
  · simp only [DE.resumeNow, hs]
  · have same : DE.change c (fun x => { x with state := .active }) w = w := DE.change_unchanged (by rw [← hs])
    simp only [DE.resumeNow, hs, same]
  · have cursor : ((DE.change c (fun x => { x with state := .active }) w).answer r okAnswer).st.cursors[c] =
        { w.st.cursors[c] with state := .active } := DE.change_cursor ..
    rw [DE.resumeNow_paused hs]
    exact DE.exhaust_none (by rw [cursor]; exact none)

theorem DE.resumeNow_wrongState (hs : w.st.cursors[c].state = .seeking) : DE.resumeNow c r w = w.refuse r .wrongState := by
  simp only [DE.resumeNow, hs]

/-- A PAUSED cursor with an exhausted entry stalls at its resume (R97, R124). -/
theorem DE.resumeNow_stalls {before after : List InFlight} {e : InFlight} (hs : w.st.cursors[c].state = .paused)
    (hl : w.st.cursors[c].list = before ++ e :: after) (hb : ∀ x ∈ before, ¬ Exhausted w.st.cursors[c] x)
    (he : Exhausted w.st.cursors[c] e) : DE.resumeNow c r w =
      ⟨(DE.change c stalledCursor w).st, w.out ++ (.answerArrival r.sess.port r.slot okAnswer ::
        toOwner w.st.cursors[c] fun o => ⟨.cursorStalled, none, some c, some e.seq, some o⟩)⟩ := by
  have cursor : ((DE.change c (fun x => { x with state := .active }) w).answer r okAnswer).st.cursors[c] =
      { w.st.cursors[c] with state := .active } := DE.change_cursor ..
  have stalls := DE.exhaust_first (c := c) (w := (DE.change c (fun x => { x with state := .active }) w).answer r okAnswer)
    (before := before) (after := after) (e := e) (by rw [cursor]; exact hl) (by rw [cursor]; exact hb) (by rw [cursor]; exact he)
  rw [cursor] at stalls
  have stalled : (DE.change c stalledCursor ((DE.change c (fun x => { x with state := .active }) w).answer r okAnswer)).st =
      (DE.change c stalledCursor w).st := (congrArg Work.st (DE.change_change c (fun x => { x with state := .active }) stalledCursor w)).trans rfl
  rw [DE.resumeNow_paused hs, stalls, Work.sendAll, stalled]
  exact congrArg (Work.mk _) (List.append_assoc _ _ _)

end Pause

end Sys2Proof.Machine

/-! The statement about the owner's requests. -/

section
open Sys2Proof Sys2Proof.Machine

/-- Settles O37: with no work outstanding the request has its turn; then by the cursor's state and the request's fields. -/
theorem cursorOwnerRequestResults : Obligations.CursorOwnerRequestResults := by
  intro r c s t hw ho
  refine ⟨fun f i h hb hi hs => ?_, fun f h hb hs => ?_, fun h hb => ⟨fun hs => ?_, fun hs => ?_⟩,
    fun h hb => ⟨fun hs => ?_, fun before e after hs hl hbefore he => ?_, fun hs => ?_⟩⟩
  · obtain ⟨free, orphaned⟩ := CursorState.bound_ne (z := t.de.cursors[c].state) (by rcases hs with hs | hs <;> rw [hs] <;> rfl)
    have now := DE.cursorSeek_now (w := Work.start t.de) hb hw ho free orphaned
    refine ⟨fun kind => ?_, fun kind mode target => ?_, fun n bad => ?_⟩
    · have start : startOf 2 f.start f.mode f.target = .ok (if f.start = 0 then .head else .tail) := by
        rcases kind with kind | kind <;> rw [kind] <;> rfl
      have question : (if f.start = 0 then Start.head else Start.tail) = .head ∨
          (if f.start = 0 then Start.head else Start.tail) = .tail := by split <;> simp
      refine exec_de_changes h rfl (now.trans ((DE.seekNow_starts (w := Work.start t.de) hi hs start).trans
        (DE.beginPositioning_question question))) ?_ rfl
      exact congrArg (fun w => w.st.cursors) (DE.change_change ..)
    · have start : startOf 2 f.start f.mode f.target = .ok (.at f.target (decide (f.mode = 0))) := by
        rw [kind]
        exact startOf_at mode target
      refine exec_de_changes h rfl (now.trans ((DE.seekNow_starts (w := Work.start t.de) hi hs start).trans
        (DE.beginPositioning_search f.target _))) ?_ rfl
      exact congrArg (fun w => w.st.cursors) (DE.change_change ..)
    · exact exec_de_answers h rfl (now.trans (DE.seekNow_refuses (w := Work.start t.de) hi hs (startOf_error bad)))
  · obtain ⟨free, orphaned⟩ := CursorState.bound_ne (z := t.de.cursors[c].state) (by rcases hs with hs | hs <;> rw [hs] <;> rfl)
    exact exec_de_answers h rfl ((DE.cursorSeek_now (w := Work.start t.de) hb hw ho free orphaned).trans
      (DE.seekNow_wrongState hs))
  · obtain ⟨free, orphaned⟩ := CursorState.bound_ne (z := t.de.cursors[c].state) (by rcases hs with hs | hs <;> rw [hs] <;> rfl)
    exact exec_de_changes h rfl ((DE.cursorPause_now (w := Work.start t.de) hb hw ho free orphaned).trans
      (DE.pauseNow_pauses hs)) rfl rfl
  · obtain ⟨free, orphaned⟩ := CursorState.bound_ne (z := t.de.cursors[c].state) (by rcases hs with hs | hs <;> rw [hs] <;> rfl)
    exact exec_de_answers h rfl ((DE.cursorPause_now (w := Work.start t.de) hb hw ho free orphaned).trans
      (DE.pauseNow_wrongState hs))
  · obtain ⟨free, orphaned⟩ := CursorState.bound_ne (z := t.de.cursors[c].state) (by
      rcases hs with hs | hs | ⟨hs, -⟩ <;> rw [hs] <;> rfl)
    exact exec_de_changes h rfl ((DE.cursorResume_now (w := Work.start t.de) hb hw ho free orphaned).trans
      (DE.resumeNow_resumes hs)) rfl rfl
  · obtain ⟨free, orphaned⟩ := CursorState.bound_ne (z := t.de.cursors[c].state) (by rw [hs]; rfl)
    exact exec_de_changes h rfl ((DE.cursorResume_now (w := Work.start t.de) hb hw ho free orphaned).trans
      (DE.resumeNow_stalls (w := Work.start t.de) hs hl hbefore he)) rfl rfl
  · obtain ⟨free, orphaned⟩ := CursorState.bound_ne (z := t.de.cursors[c].state) (by rw [hs]; rfl)
    exact exec_de_answers h rfl ((DE.cursorResume_now (w := Work.start t.de) hb hw ho free orphaned).trans
      (DE.resumeNow_wrongState hs))
end

/-! SUPPORT. CURSOR_CLOSE, CURSOR_ATTACH with its rebind, and CURSOR_INFO (R98, R99, R104, R107). -/

namespace Sys2Proof.Machine

/-! ### CURSOR_CLOSE (R98, R99) -/

section Close

variable {c : CursorId} {r : Req} {label : Nat} {body : List Byte} {w : Work DE}

theorem DE.cursorClose_now (hb : labelBody body = .ok (c.val, label)) (hf : w.st.cursors[c].state ≠ .free)
    (hw : w.st.cursors[c].work = .none) : DE.cursorClose r body w = DE.closeNow c r label w := by
  rw [DE.cursorClose, hb, Work.layout_ok]
  exact (DE.arrive_now hf hw).trans (if_neg hf)

theorem DE.closeNow_closes (h : (w.st.cursors[c].state = .detached ∧ w.st.cursors[c].label = label) ∨
    (w.st.cursors[c].state ≠ .detached ∧ w.st.cursors[c].owner = some r.sess)) :
    DE.closeNow c r label w = (DE.free c (DE.leave c w)).answer r okAnswer := by
  rcases h with ⟨detached, named⟩ | ⟨owned, owner⟩
  · exact (if_pos detached).trans (if_neg (Classical.not_not.2 named))
  · exact (if_neg owned).trans (if_neg (Classical.not_not.2 owner))

theorem DE.closeNow_notOwner (hs : w.st.cursors[c].state = .detached) (hl : w.st.cursors[c].label ≠ label) :
    DE.closeNow c r label w = w.refuse r .notOwner := (if_pos hs).trans (if_pos hl)

/-- A cursor that leaves its stream and is freed: its record, and its messages (R98, R100). -/
theorem DE.free_leave (c : CursorId) (w : Work DE) :
    (DE.free c (DE.leave c w)).st.cursors = (upd w.st.cursors c fun x =>
        { freeCursor with searchOut := x.searchOut, waiting := x.waiting }) ∧
      (DE.free c (DE.leave c w)).out = w.out ++ leaveMessages w.st.cursors[c] := by
  rw [DE.leave_eq]
  exact ⟨rfl, rfl⟩

end Close

/-! ### CURSOR_ATTACH and the rebind's answer (R104) -/

/-- A cursor attached by the session of a request (R104). -/
def Cursor.rebound (r : Req) (x : Cursor) : Cursor :=
  { x with owner := some r.sess, state := .active, work := .none, nextSeq := x.ackSeq + 1, deliveredTop := x.ackSeq
           list := [], hint := none }

section Attach

variable {c : CursorId} {r : Req} {i : StreamId} {label : Nat} {head committed : Seq} {body : List Byte} {w : Work DE}

theorem DE.cursorAttach_now (hb : labelBody body = .ok (c.val, label)) (hf : w.st.cursors[c].state ≠ .free)
    (hw : w.st.cursors[c].work = .none) : DE.cursorAttach r body w = DE.attachNow c r label w := by
  rw [DE.cursorAttach, hb, Work.layout_ok]
  exact (DE.arrive_now hf hw).trans (if_neg hf)

theorem DE.attachNow_rebinds (hs : w.st.cursors[c].state = .detached) (hi : w.st.cursors[c].stream = some i)
    (hl : w.st.cursors[c].label = label) (hn : w.st.sessionCount r.sess < 16) : DE.attachNow c r label w =
      (DE.change c (fun x => { x with work := .rebind, req := some r }) w).send (.rebind i c) := by
  simp only [DE.attachNow, hs, hi, hl, ne_eq, not_true_eq_false, if_false, if_neg (Nat.not_le.2 hn)]

/-- What a granted rebind sends first: the answer, and the gap that has been kept (R104). -/
def rebindMessages (c : CursorId) (i : StreamId) (r : Req) (x : Cursor) : List Instr :=
  [reply r ⟨.ok, 0, .sequence (x.ackSeq + 1)⟩] ++
    if x.pendingGap = 0 then [] else [.noticeEvent ⟨.cursorGap, some i, some c, some x.pendingGap, some r.sess⟩]

/-- The kept gap of a cursor that has an owner again is raised, and kept no longer (R104). -/
theorem DE.raiseKept {gap : Nat} {x : Cursor} (hx : w.st.cursors[c] = x) (ho : x.owner = some r.sess)
    (he : x.endDue = false) (hi : x.stream = some i) (hg : x.pendingGap = gap) :
    (if 0 < gap && !x.endDue then
        DE.change c (fun x => { x with pendingGap := 0 }) (DE.raise c .cursorGap (some gap) w)
      else w) =
      ⟨(DE.change c (fun x => { x with pendingGap := 0 }) w).st, w.out ++
        if gap = 0 then [] else [.noticeEvent ⟨.cursorGap, some i, some c, some gap, some r.sess⟩]⟩ := by
  by_cases zero : gap = 0
  · have same : DE.change c (fun x => { x with pendingGap := 0 }) w = w :=
      DE.change_unchanged (by rw [hx, ← zero, ← hg])
    rw [if_neg (by simp [zero]), if_pos zero, List.append_nil, same]
  · have raised : toOwner x (fun o => ⟨.cursorGap, if NoticeKind.cursorGap = .cursorGap then x.stream else none,
        some c, some gap, some o⟩) = [.noticeEvent ⟨.cursorGap, some i, some c, some gap, some r.sess⟩] := by
      simp [toOwner, ho, he, hi]
    rw [if_pos (by simp [he, Nat.pos_of_ne_zero zero]), if_neg zero, DE.raise_eq, hx, raised]
    rfl

/-- A granted rebind, up to the drain test and the end of the cursor's work (R104). -/
theorem DE.rebindAnswer_granted (hs : w.st.cursors[c].state = .detached) (hw : w.st.cursors[c].work = .rebind)
    (hi : w.st.cursors[c].stream = some i) (hr : w.st.cursors[c].req = some r) (he : w.st.cursors[c].endDue = false) :
    DE.rebindAnswer c (.granted head committed) w = DE.endWork c (DE.drained c
      ⟨(DE.change c (fun x => { x.rebound r with pendingGap := 0 }) (DE.seen i committed w)).st,
        w.out ++ rebindMessages c i r w.st.cursors[c]⟩) := by
  have rebound := DE.change_cursor c (Cursor.rebound r) (DE.seen i committed w)
  have kept := DE.raiseKept (c := c) (r := r) (i := i) (gap := w.st.cursors[c].pendingGap)
    (w := (DE.change c (Cursor.rebound r) (DE.seen i committed w)).answer r (okWith (.sequence (w.st.cursors[c].ackSeq + 1))))
    rebound rfl he hi rfl
  have cleared : (DE.change c (fun x => { x with pendingGap := 0 }) ((DE.change c (Cursor.rebound r)
      (DE.seen i committed w)).answer r (okWith (.sequence (w.st.cursors[c].ackSeq + 1))))).st =
      (DE.change c (fun x => { x.rebound r with pendingGap := 0 }) (DE.seen i committed w)).st :=
    (congrArg Work.st (DE.change_change c (Cursor.rebound r) (fun x => { x with pendingGap := 0 })
      (DE.seen i committed w))).trans rfl
  rw [cleared] at kept
  have taken : DE.rebindAnswer c (.granted head committed) w = DE.endWork c (DE.drained c
      (if 0 < w.st.cursors[c].pendingGap && !w.st.cursors[c].endDue then
        DE.change c (fun x => { x with pendingGap := 0 }) (DE.raise c .cursorGap (some w.st.cursors[c].pendingGap)
          ((DE.change c (Cursor.rebound r) (DE.seen i committed w)).answer r
            (okWith (.sequence (w.st.cursors[c].ackSeq + 1)))))
      else (DE.change c (Cursor.rebound r) (DE.seen i committed w)).answer r
        (okWith (.sequence (w.st.cursors[c].ackSeq + 1))))) := by
    simp only [DE.rebindAnswer, hs, hw, hi, hr] <;> rfl
  refine taken.trans (congrArg (fun v => DE.endWork c (DE.drained c v)) (kept.trans (congrArg (Work.mk _) ?_)))
  exact List.append_assoc _ _ _

end Attach

/-- The drain test and the end of the work change no cursor, where no request waits and no session end is due. -/
theorem DE.endWork_drained {c : CursorId} {v : Work DE} (h1 : v.st.cursors[c].waiting = [])
    (h2 : v.st.cursors[c].endDue = false) (h3 : v.st.cursors[c].work = .none) :
    (DE.endWork c (DE.drained c v)).st.cursors = v.st.cursors ∧
      ∃ rest, (DE.endWork c (DE.drained c v)).out = v.out ++ rest := by
  obtain ⟨cursors, -, -, out⟩ := calm_drained c v
  have cursor : (DE.drained c v).st.cursors[c] = v.st.cursors[c] := congrArg (·[c]) cursors
  have ended : DE.endWork c (DE.drained c v) = DE.drained c v := by
    rw [DE.endWork_eq (by rw [cursor]; exact h1) (by rw [cursor]; exact h2)]
    refine DE.change_unchanged ?_
    rw [cursor, ← h1, ← h3]
  rw [ended]
  exact ⟨cursors, out⟩

/-! ### CURSOR_INFO (R107) -/

section Info

variable {c : CursorId} {r : Req} {body : List Byte} {w : Work DE}

theorem DE.cursorInfo_reports (hb : oneField 1 body = .ok c.val) (hf : w.st.cursors[c].state ≠ .free)
    (hs : w.st.cursors[c].state ≠ .orphaned) :
    DE.cursorInfo r body w = w.answer r (okWith (.cursor (w.st.cursors[c].report c r.sess))) := by
  rw [DE.cursorInfo, hb, Work.layout_ok, index_val]
  exact (if_neg hf).trans (if_neg hs)

/-- The report of a cursor, as the statement lists its fields (R107). -/
theorem Cursor.report_eq (x : Cursor) (c : CursorId) (asker : SessId) : x.report c asker =
    { id := c, state := x.state, stream := x.stream, owner := x.owner, durable := x.durable, retaining := x.retaining
      window := x.window, ackTimeout := x.ackTimeout, retryLimit := x.retryLimit, ackSeq := x.ackSeq
      nextSeq := x.nextSeq, deliveredTop := x.deliveredTop, inFlight := x.list.length
      lowest := match x.list with | [] => 0 | e :: _ => e.seq
      due := (x.list.filter fun e => e.due).length, pendingGap := x.pendingGap
      hintPresent := decide (x.hint ≠ none), label := if x.owner = some asker then x.label else 0
      returnState := x.returnState, counters := x.counters } := by
  have lowest : (x.list.head?.map InFlight.seq).getD 0 = match x.list with | [] => 0 | e :: _ => e.seq := by
    cases x.list <;> rfl
  have hint : x.hint.isSome = decide (x.hint ≠ none) := by
    cases x.hint <;> rfl
  simp only [Cursor.report, List.countP_eq_length_filter, hint]
  rw [lowest]

end Info

end Sys2Proof.Machine

/-! The statement about CURSOR_CLOSE, CURSOR_ATTACH and CURSOR_INFO. -/

section
open Sys2Proof Sys2Proof.Machine

/-- Settles O38: each request's turn by the record's state, label and owner; a granted rebind up to the end of the work. -/
theorem cursorCloseAttachAndInfoResults : Obligations.CursorCloseAttachAndInfoResults := by
  refine ⟨fun r c label s t h hb hw hf => ⟨fun may => ?_, fun detached other => ?_⟩, ?_, ?_, ?_⟩
  · obtain ⟨cursors, out⟩ := DE.free_leave c (Work.start t.de)
    exact exec_de_changes h rfl ((DE.cursorClose_now (w := Work.start t.de) hb hf hw).trans (DE.closeNow_closes may))
      cursors (congrArg (· ++ [reply r okAnswer]) out)
  · exact exec_de_answers h rfl ((DE.cursorClose_now (w := Work.start t.de) hb hf hw).trans
      (DE.closeNow_notOwner detached other))
  · intro r c label i s t h hb hw hs hi hl few
    have held : t.de.cursors[c].state ≠ .free := by rw [hs]; nofun
    exact exec_de_changes h rfl ((DE.cursorAttach_now (w := Work.start t.de) hb held hw).trans
      (DE.attachNow_rebinds hs hi hl few)) rfl rfl
  · intro c h k i r s t ht hs hw hi hr hq he
    obtain ⟨u, step, only, cursors, -, -, sent⟩ := exec_de ht rfl
      (DE.rebindAnswer_granted (w := Work.start t.de) hs hw hi hr he)
    have cursor := DE.change_cursor c (fun x => { x.rebound r with pendingGap := 0 }) (DE.seen i k (Work.start t.de))
    obtain ⟨ended, more⟩ := DE.endWork_drained (c := c) (v := ⟨(DE.change c (fun x => { x.rebound r with pendingGap := 0 })
        (DE.seen i k (Work.start t.de))).st, [] ++ rebindMessages c i r t.de.cursors[c]⟩)
      ((congrArg Cursor.waiting cursor).trans hq) ((congrArg Cursor.endDue cursor).trans he)
      ((congrArg Cursor.work cursor).trans rfl)
    exact ⟨u, step, only, cursors.trans ended, sent.front more⟩
  · intro r c s t h hb hf hs
    obtain ⟨u, step, only, cursors, sent⟩ := exec_de_answers h rfl (DE.cursorInfo_reports (w := Work.start t.de) hb hf hs)
    refine ⟨u, step, only, cursors, ?_⟩
    rintro x rfl
    rw [Cursor.report_eq] at sent
    exact sent
end

/-! SUPPORT. Steps that go through the cursors in turn; the end of a session and a delete order at the Delivery Engine (R101, R102, R105). -/

namespace Sys2Proof.Machine

/-! ### Going through the cursors -/

/-- A step at each of several cursors, of which each touches its own alone: what holds of the message and the record of each step
holds of them all. `d` is DE as the first step finds it. -/
theorem foldl_cursors {f : Work DE → CursorId → Work DE} {Q : CursorId → List Instr → Prop} {R : CursorId → Cursor → Prop}
    {d : DE} (near : ∀ w c, Near c w (f w c))
    (step : ∀ v c, v.st.views = d.views → v.st.cursors[c] = d.cursors[c] →
      (∃ ms, (f v c).out = v.out ++ ms ∧ Q c ms) ∧ R c (f v c).st.cursors[c])
    (l : List CursorId) (nodup : l.Nodup) (w : Work DE) (views : w.st.views = d.views)
    (cursors : ∀ c ∈ l, w.st.cursors[c] = d.cursors[c]) :
    (∃ ms : CursorId → List Instr, (∀ c ∈ l, Q c (ms c)) ∧ (l.foldl f w).out = w.out ++ l.flatMap ms) ∧
      (l.foldl f w).st.views = d.views ∧ (∀ c ∈ l, R c (l.foldl f w).st.cursors[c]) ∧
      ∀ c, c ∉ l → (l.foldl f w).st.cursors[c] = w.st.cursors[c] := by
  induction l generalizing w with
  | nil => exact ⟨⟨fun _ => [], nofun, by simp⟩, views, nofun, fun _ _ => rfl⟩
  | cons a l ih =>
    obtain ⟨fresh, rest⟩ := List.nodup_cons.1 nodup
    obtain ⟨sameViews, others, -⟩ := near w a
    have ahead : ∀ c ∈ l, c ≠ a := fun c hc h => fresh (h ▸ hc)
    obtain ⟨⟨first, sent, holds⟩, record⟩ := step w a views (cursors a List.mem_cons_self)
    obtain ⟨⟨ms, hms, later⟩, laterViews, records, kept⟩ := ih rest (f w a) (sameViews.trans views) fun c hc =>
      (others c (ahead c hc)).trans (cursors c (List.mem_cons_of_mem _ hc))
    refine ⟨⟨fun c => if c = a then first else ms c, fun c hc => ?_, ?_⟩, laterViews, fun c hc => ?_, fun c hc => ?_⟩
    · change Q c (if c = a then first else ms c)
      by_cases h : c = a
      · subst h
        rwa [if_pos rfl]
      · rw [if_neg h]
        exact hms c ((List.mem_cons.1 hc).resolve_left h)
    · have same : (l.flatMap fun c => if c = a then first else ms c) = l.flatMap ms :=
        flatMap_congr_mem fun c hc => if_neg (ahead c hc)
      rw [List.foldl_cons, later, sent, List.flatMap_cons, same, if_pos rfl, List.append_assoc]
    · rw [List.foldl_cons]
      rcases List.mem_cons.1 hc with rfl | hc
      · rwa [kept c fresh]
      · exact records c hc
    · obtain ⟨other, hl⟩ := not_or.1 (mt List.mem_cons.2 hc)
      rw [List.foldl_cons, kept c hl, others c other]

/-! ### The end of a session (R101, R102) -/

/-- A durable cursor whose session has ended (R102). -/
def Cursor.detached (x : Cursor) : Cursor :=
  { x with state := .detached, owner := none, list := [], hint := none, nextSeq := x.ackSeq + 1
           deliveredTop := x.ackSeq, returnState := none, endDue := false }

/-- The states in which an owned cursor has a stream (table 5.2). -/
def CursorState.serving (z : CursorState) : Prop := z = .active ∨ z = .paused ∨ z = .stalled ∨ z = .seeking

section Settle

variable {c : CursorId} {w : Work DE}

theorem DE.settle_durable (hs : CursorState.serving w.st.cursors[c].state) (hd : w.st.cursors[c].durable = true) :
    DE.settle c w = DE.abandon c (DE.change c Cursor.detached w) := by
  rcases hs with hs | hs | hs | hs <;> simp only [DE.settle, hs] <;> exact if_pos hd

theorem DE.settle_serving (hs : CursorState.serving w.st.cursors[c].state) (hd : w.st.cursors[c].durable = false) :
    DE.settle c w = DE.free c (DE.leave c w) := by
  rcases hs with hs | hs | hs | hs <;> simp only [DE.settle, hs] <;> exact if_neg (Bool.eq_false_iff.1 hd)

theorem DE.settle_orphaned (hs : w.st.cursors[c].state = .orphaned) : DE.settle c w = DE.free c w := by
  simp only [DE.settle, hs]

theorem DE.settle_other (hs : w.st.cursors[c].state = .free ∨ w.st.cursors[c].state = .detached) :
    DE.settle c w = DE.change c (fun x => { x with endDue := false }) w := by
  rcases hs with hs | hs <;> simp only [DE.settle, hs]

theorem CursorState.cases_serving (z : CursorState) :
    CursorState.serving z ∨ z = .orphaned ∨ (z = .free ∨ z = .detached) := by
  cases z <;> simp [CursorState.serving]

/-- A step of a session's end at one cursor (R101). -/
def DE.sessionEndAt (sess : SessId) (w : Work DE) (c : CursorId) : Work DE :=
  if w.st.cursors[c].belongsTo sess then
    if w.st.cursors[c].work = .none then DE.settle c w else DE.change c (fun x => { x with endDue := true }) w
  else w

theorem near_sessionEndAt (sess : SessId) (w : Work DE) (c : CursorId) : Near c w (DE.sessionEndAt sess w c) := by
  unfold DE.sessionEndAt
  split
  · split
    · exact near_settle c w
    · exact near_change c _ w
  · exact Near.refl c w

/-- What a session's end makes of a cursor `x`, as the statement says it (R101, R102). -/
def AfterSessionEnd (sess : SessId) (x y : Cursor) : Prop :=
  (x.belongsTo sess = false → y = x) ∧
  (x.belongsTo sess = true → x.work ≠ .none → y = { x with endDue := true }) ∧
  (x.owner = some sess → x.work = .none → (x.state = .active ∨ x.state = .paused ∨ x.state = .stalled) →
    (x.durable = true → y = x.detached) ∧
    (x.durable = false → y = { freeCursor with searchOut := x.searchOut, waiting := x.waiting })) ∧
  (x.owner = some sess → x.work = .none → x.state = .orphaned →
    y = { freeCursor with searchOut := x.searchOut, waiting := x.waiting })

theorem Cursor.belongsTo_of_owner {sess : SessId} {x : Cursor} (h : x.owner = some sess) : x.belongsTo sess = true := by
  simp [Cursor.belongsTo, h]

theorem Cursor.owner_of_belongsTo {sess : SessId} {x : Cursor} (h : x.belongsTo sess = true) (hw : x.work = .none) :
    x.owner = some sess := by
  simpa [Cursor.belongsTo, hw] using h

/-- Only an owned cursor without work sends anything at its session's end (R101, R102). -/
theorem sessionEndMessages_none {sess : SessId} {x : Cursor} (h : x.owner ≠ some sess ∨ x.work ≠ .none ∨ x.durable = true ∨
    ¬ CursorState.serving x.state) : sessionEndMessages sess x = [] := by
  refine if_neg ?_
  rintro ⟨owner, idle, plain, serving⟩
  rcases h with h | h | h | h
  · exact h owner
  · exact h idle
  · rw [plain] at h; cases h
  · exact h serving

theorem DE.sessionEndAt_spec (sess : SessId) (w : Work DE) (c : CursorId) :
    (∃ ms, (DE.sessionEndAt sess w c).out = w.out ++ ms ∧ ms = sessionEndMessages sess w.st.cursors[c]) ∧
      AfterSessionEnd sess w.st.cursors[c] (DE.sessionEndAt sess w c).st.cursors[c] := by
  by_cases hb : w.st.cursors[c].belongsTo sess = true
  · by_cases hw : w.st.cursors[c].work = .none
    · have owner := Cursor.owner_of_belongsTo hb hw
      have settled : DE.sessionEndAt sess w c = DE.settle c w := (if_pos hb).trans (if_pos hw)
      rw [settled]
      rcases CursorState.cases_serving w.st.cursors[c].state with hs | hs | hs
      · cases hd : w.st.cursors[c].durable with
        | true =>
          rw [DE.settle_durable hs hd]
          refine ⟨⟨[], (List.append_nil _).symm, (sessionEndMessages_none (.inr (.inr (.inl hd)))).symm⟩,
            fun h => absurd hb (Bool.eq_false_iff.1 h), fun _ h => absurd hw h, fun _ _ _ => ⟨fun _ => ?_, fun h => ?_⟩,
            fun _ _ h => ?_⟩
          · exact DE.change_cursor ..
          · rw [hd] at h; cases h
          · rw [h] at hs; exact absurd hs (by simp [CursorState.serving])
        | false =>
          obtain ⟨cursors, out⟩ := DE.free_leave c w
          rw [DE.settle_serving hs hd]
          have freed : (DE.free c (DE.leave c w)).st.cursors[c] = _ := (congrArg (·[c]) cursors).trans (upd_self ..)
          refine ⟨⟨leaveMessages w.st.cursors[c], out, (if_pos ⟨owner, hw, hd, hs⟩).symm⟩,
            fun h => absurd hb (Bool.eq_false_iff.1 h), fun _ h => absurd hw h, fun _ _ _ => ⟨fun h => ?_, fun _ => freed⟩,
            fun _ _ _ => freed⟩
          rw [hd] at h; cases h
      · rw [DE.settle_orphaned hs]
        have outside : ¬ CursorState.serving w.st.cursors[c].state := by rw [hs]; simp [CursorState.serving]
        refine ⟨⟨[], (List.append_nil _).symm, (sessionEndMessages_none (.inr (.inr (.inr outside)))).symm⟩,
          fun h => absurd hb (Bool.eq_false_iff.1 h), fun _ h => absurd hw h, fun _ _ h => ?_, fun _ _ _ => DE.free_cursor w⟩
        rw [hs] at h
        simp at h
      · have outside : ¬ CursorState.serving w.st.cursors[c].state := by
          rcases hs with hs | hs <;> rw [hs] <;> simp [CursorState.serving]
        rw [DE.settle_other hs]
        refine ⟨⟨[], (List.append_nil _).symm, (sessionEndMessages_none (.inr (.inr (.inr outside)))).symm⟩,
          fun h => absurd hb (Bool.eq_false_iff.1 h), fun _ h => absurd hw h, fun _ _ h => ?_, fun _ _ h => ?_⟩
        · rcases hs with hs | hs <;> rw [hs] at h <;> simp at h
        · rcases hs with hs | hs <;> rw [hs] at h <;> cases h
    · have marked : DE.sessionEndAt sess w c = DE.change c (fun x => { x with endDue := true }) w :=
        (if_pos hb).trans (if_neg hw)
      rw [marked]
      exact ⟨⟨[], (List.append_nil _).symm, (sessionEndMessages_none (.inr (.inl hw))).symm⟩,
        fun h => absurd hb (Bool.eq_false_iff.1 h), fun _ _ => DE.change_cursor .., fun _ h => absurd h hw,
        fun _ h => absurd h hw⟩
  · have unowned : w.st.cursors[c].owner ≠ some sess := fun h => hb (Cursor.belongsTo_of_owner h)
    have unchanged : DE.sessionEndAt sess w c = w := if_neg hb
    rw [unchanged]
    exact ⟨⟨[], (List.append_nil _).symm, (sessionEndMessages_none (.inl unowned)).symm⟩, fun _ => rfl, fun h => absurd h hb,
      fun h => absurd h unowned, fun h => absurd h unowned⟩

end Settle

/-! ### A delete order (R105) -/

/-- An ORPHANED cursor (R105). -/
def Cursor.orphaned (x : Cursor) : Cursor :=
  { x with state := .orphaned, stream := none, list := [], hint := none, pendingGap := 0, returnState := none
           minStart := 0, work := .none }

section Delete

variable {c : CursorId} {i : StreamId} {w : Work DE}

/-- The answer to the request whose work is outstanding, where there is one. -/
theorem DE.reply_messages (c : CursorId) (a : Answer) (w : Work DE) : DE.reply c a w =
    ⟨w.st, w.out ++ match w.st.cursors[c].req with | some r => [Machine.reply r a] | none => []⟩ := by
  unfold DE.reply
  cases w.st.cursors[c].req with
  | some r => rfl
  | none => exact (congrArg (Work.mk w.st) (List.append_nil w.out)).symm

/-- The end of the work of an ORPHANED cursor on which no request waits sends nothing (R88, R101). -/
theorem DE.endWork_silent (hw : w.st.cursors[c].waiting = [])
    (hs : w.st.cursors[c].state = .orphaned ∨ w.st.cursors[c].endDue = false) : (DE.endWork c w).out = w.out := by
  by_cases due : w.st.cursors[c].endDue = false
  · rw [DE.endWork_eq hw due]
    rfl
  · have orphaned := hs.resolve_right due
    have cursor : (DE.change c (fun x => { x with waiting := [] }) (DE.change c (fun x => { x with work := .none })
        w)).st.cursors[c] = { w.st.cursors[c] with work := .none, waiting := [] } := by
      rw [DE.change_change, DE.change_cursor]
    have settles : DE.endWork c w = DE.settle c (DE.change c (fun x => { x with waiting := [] })
        (DE.change c (fun x => { x with work := .none }) w)) := by
      unfold DE.endWork
      rw [hw]
      refine if_pos ?_
      rw [cursor]
      simpa using due
    rw [settles, DE.settle_orphaned (by rw [cursor]; exact orphaned)]
    rfl

/-- A cursor of a deleted stream that becomes ORPHANED (R105). -/
theorem DE.orphan_eq (c : CursorId) (i : StreamId) (w : Work DE) : DE.orphan c i w =
    DE.endWork c ((DE.abandon c (DE.change c Cursor.orphaned w)).send (.unbind i)) := rfl

theorem deleteMessages_gone {x : Cursor} (h : x.state = .seeking ∨ (x.state = .detached ∧ x.work = .rebind)) :
    deleteMessages i x = (match x.req with | some r => [reply r (refusal .gone 0)] | none => []) ++ [.unbind i] := by
  unfold deleteMessages
  simp only [if_pos h] <;> rfl

theorem deleteMessages_plain {x : Cursor} (hs : x.state ≠ .seeking) (h : x.state ≠ .detached ∨ x.work ≠ .rebind) :
    deleteMessages i x = [.unbind i] := by
  have none : ¬ (x.state = .seeking ∨ (x.state = .detached ∧ x.work = .rebind)) := by
    rintro (seeking | ⟨detached, rebind⟩)
    · exact hs seeking
    · exact h.elim (fun h => h detached) fun h => h rebind
  unfold deleteMessages
  simp only [if_neg none]
  cases x.req <;> rfl

/-- What a delete order sends for a cursor before its work has ended, and the record it leaves by then (R105). -/
theorem DE.cut_bound (h : w.st.cursors[c].boundTo i = true) : ∃ v, DE.cut i w c = DE.endWork c v ∧
    v.out = w.out ++ deleteMessages i w.st.cursors[c] ∧ Near c w v ∧
    ((w.st.cursors[c].state = .detached ∧ v.st.cursors[c] =
        { freeCursor with searchOut := w.st.cursors[c].searchOut, waiting := w.st.cursors[c].waiting }) ∨
      (w.st.cursors[c].state ≠ .detached ∧ v.st.cursors[c] = w.st.cursors[c].orphaned)) := by
  have near_reply : ∀ w : Work DE, Near c w (DE.reply c (refusal .gone 0) w) := by
    intro w
    rw [DE.reply_messages]
    exact ⟨rfl, fun _ _ => rfl, _, rfl⟩
  have near_orphan : ∀ w : Work DE, Near c w ((DE.abandon c (DE.change c Cursor.orphaned w)).send (.unbind i)) := fun w =>
    ((near_change c _ w).trans (near_abandon c _ c)).trans (near_send c _ _)
  have near_freed : ∀ w : Work DE, Near c w ((DE.free c w).send (.unbind i)) := fun w => (near_free c w).trans (near_send c _ _)
  unfold DE.cut
  rw [if_pos h]
  cases hs : w.st.cursors[c].state with
  | free => simp [-Fin.getElem_fin, Cursor.boundTo, CursorState.bound, hs] at h
  | orphaned => simp [-Fin.getElem_fin, Cursor.boundTo, CursorState.bound, hs] at h
  | detached =>
    by_cases hw : w.st.cursors[c].work = .rebind
    · refine ⟨_, rfl, ?_, ?_, .inl ⟨rfl, ?_⟩⟩ <;> rw [if_pos hw]
      · rw [deleteMessages_gone (.inr ⟨hs, hw⟩), DE.reply_messages]
        exact List.append_assoc _ _ _
      · exact (near_reply w).trans (near_freed _)
      · rw [DE.reply_messages]
        exact DE.free_cursor _
    · refine ⟨_, rfl, ?_, ?_, .inl ⟨rfl, ?_⟩⟩ <;> rw [if_neg hw]
      · rw [deleteMessages_plain (by rw [hs]; nofun) (.inr hw)]
        rfl
      · exact near_freed w
      · exact DE.free_cursor w
  | seeking =>
    refine ⟨_, rfl, ?_, ?_, .inr ⟨nofun, ?_⟩⟩ <;> rw [DE.reply_messages]
    · rw [deleteMessages_gone (.inl hs)]
      exact List.append_assoc _ _ _
    · rw [← DE.reply_messages]
      exact (near_reply w).trans (near_orphan _)
    · exact DE.change_cursor ..
  | _ =>
    refine ⟨_, rfl, ?_, near_orphan w, .inr ⟨nofun, DE.change_cursor ..⟩⟩
    rw [deleteMessages_plain (by rw [hs]; nofun) (.inl (by rw [hs]; nofun))]
    rfl

/-- A step of a delete order touches no other cursor (R105). -/
theorem near_cut (i : StreamId) (w : Work DE) (c : CursorId) : Near c w (DE.cut i w c) := by
  by_cases h : w.st.cursors[c].boundTo i = true
  · obtain ⟨v, cut, -, near, -⟩ := DE.cut_bound h
    rw [cut]
    exact near.trans (near_endWork c v)
  · have unchanged : DE.cut i w c = w := if_neg h
    rw [unchanged]
    exact Near.refl c w

/-- What a delete order makes of a cursor `x`, as the statement says it (R105). -/
def AfterDelete (i : StreamId) (x y : Cursor) : Prop :=
  (x.boundTo i = false → y = x) ∧
  (x.boundTo i = true → x.waiting = [] → x.endDue = false →
    (x.state = .detached → y = { freeCursor with searchOut := x.searchOut }) ∧
    (x.state ≠ .detached → y = x.orphaned))

/-- What a delete order sends for a cursor `x`: behind its own messages, what the requests that wait on it are answered (R105). -/
def DeleteSends (i : StreamId) (x : Cursor) (ms : List Instr) : Prop :=
  ∃ waited, (x.waiting = [] → waited = []) ∧ ms = if x.boundTo i = true then deleteMessages i x ++ waited else []

theorem DE.cut_spec (i : StreamId) (w : Work DE) (c : CursorId) :
    (∃ ms, (DE.cut i w c).out = w.out ++ ms ∧ DeleteSends i w.st.cursors[c] ms) ∧
      AfterDelete i w.st.cursors[c] (DE.cut i w c).st.cursors[c] := by
  by_cases h : w.st.cursors[c].boundTo i = true
  · obtain ⟨v, cut, out, -, record⟩ := DE.cut_bound h
    obtain ⟨-, -, waited, later⟩ := near_endWork c v
    rw [cut]
    refine ⟨⟨deleteMessages i w.st.cursors[c] ++ waited, ?_, waited, fun idle => ?_, (if_pos h).symm⟩,
      fun unbound => absurd h (Bool.eq_false_iff.1 unbound), fun _ idle undue => ⟨fun hs => ?_, fun hs => ?_⟩⟩
    · rw [later, out, List.append_assoc]
    · have silent : (DE.endWork c v).out = v.out := by
        rcases record with ⟨-, record⟩ | ⟨-, record⟩
        · exact DE.endWork_silent (by rw [record]; exact idle) (.inr (by rw [record]; rfl))
        · exact DE.endWork_silent (by rw [record]; exact idle) (.inl (by rw [record]; rfl))
      exact List.append_right_eq_self.1 (later.symm.trans silent)
    · rcases record with ⟨-, record⟩ | ⟨other, -⟩
      · rw [DE.endWork_eq (by rw [record]; exact idle) (by rw [record]; rfl), DE.change_cursor, record]
        rfl
      · exact absurd hs other
    · rcases record with ⟨detached, -⟩ | ⟨-, record⟩
      · exact absurd detached hs
      · rw [DE.endWork_eq (by rw [record]; exact idle) (by rw [record]; exact undue), DE.change_cursor, record]
        exact Cursor.waiting_nil (x := w.st.cursors[c].orphaned) idle
  · have unchanged : DE.cut i w c = w := if_neg h
    rw [unchanged]
    exact ⟨⟨[], (List.append_nil _).symm, [], fun _ => rfl, (if_neg h).symm⟩, fun _ => rfl, fun bound => absurd bound h⟩

/-- The end of a session goes through the cursors in turn (R101). -/
theorem DE.sessionEnd_eq (sess : SessId) (w : Work DE) :
    DE.sessionEnd sess w = (List.finRange 64).foldl (DE.sessionEndAt sess) w := rfl

/-- A delete order goes through the cursors in turn, and clears the stream's view (R105). -/
theorem DE.deleteOrder_eq (i : StreamId) (w : Work DE) : DE.deleteOrder i w =
    ((List.finRange 64).foldl (DE.cut i) w).mod fun d => { d with views := d.views.set i ⟨0, false⟩ } := rfl

end Delete

end Sys2Proof.Machine

/-! The statement about the end of a session and of a stream at DE. -/

section
open Sys2Proof Sys2Proof.Machine

/-- Settles O39: the cursors in turn, of which each step touches its own alone. -/
theorem sessionAndStreamEndAtDeliveryResults : Obligations.SessionAndStreamEndAtDeliveryResults := by
  refine ⟨fun sess s t h => ?_, fun i s t h => ?_⟩
  · obtain ⟨⟨ms, each, out⟩, sameViews, records, -⟩ := foldl_cursors (f := DE.sessionEndAt sess)
      (Q := fun c ms => ms = sessionEndMessages sess t.de.cursors[c]) (R := fun c => AfterSessionEnd sess t.de.cursors[c])
      (d := t.de) (near_sessionEndAt sess) (fun v c _ same => same ▸ DE.sessionEndAt_spec sess v c) (List.finRange 64)
      (List.nodup_finRange 64) (Work.start t.de) rfl fun _ _ => rfl
    have ended := DE.sessionEnd_eq sess (Work.start t.de)
    generalize (List.finRange 64).foldl (DE.sessionEndAt sess) (Work.start t.de) = v at ended out sameViews records
    obtain ⟨u, step, only, cursors, views, -, sent⟩ := exec_de (f := fun _ => DE.sessionEnd sess) h rfl ended
    have messages : (List.finRange 64).flatMap ms = (List.finRange 64).flatMap fun c => sessionEndMessages sess t.de.cursors[c] :=
      flatMap_congr_mem each
    rw [out, messages] at sent
    refine ⟨u, step, only, views.trans sameViews, sent, fun c => ?_⟩
    rw [cursors]
    exact records c (List.mem_finRange c)
  · obtain ⟨⟨ms, each, out⟩, sameViews, records, -⟩ := foldl_cursors (f := DE.cut i)
      (Q := fun c ms => DeleteSends i t.de.cursors[c] ms) (R := fun c => AfterDelete i t.de.cursors[c]) (d := t.de) (near_cut i)
      (fun v c _ same => same ▸ DE.cut_spec i v c) (List.finRange 64) (List.nodup_finRange 64) (Work.start t.de) rfl
      fun _ _ => rfl
    have ended := DE.deleteOrder_eq i (Work.start t.de)
    generalize (List.finRange 64).foldl (DE.cut i) (Work.start t.de) = v at ended out sameViews records
    obtain ⟨u, step, only, cursors, views, -, sent⟩ := exec_de (f := fun _ => DE.deleteOrder i) h rfl ended
    obtain ⟨waited, each⟩ := Classical.skolem.1 fun c => each c (List.mem_finRange c)
    have idle : ∀ c : CursorId, t.de.cursors[c].waiting = [] → waited c = [] := fun c => (each c).1
    have messages := fun c => (each c).2
    have list : (List.finRange 64).flatMap ms = (List.finRange 64).flatMap fun c =>
        if t.de.cursors[c].boundTo i = true then deleteMessages i t.de.cursors[c] ++ waited c else [] :=
      flatMap_congr_mem fun c _ => messages c
    refine ⟨u, step, only, ?_, ⟨waited, idle, ?_⟩, fun c => ?_⟩
    · exact views.trans (congrArg (fun v => v.set i ⟨0, false⟩) sameViews)
    · rw [← list]
      exact (congrArg (SendsFirst (.core .de) t u) out).mp sent
    · rw [cursors]
      exact records c (List.mem_finRange c)
end

/-! SUPPORT. ACK and acknowledgement deadlines at the Delivery Engine (R123 to R125). -/

namespace Sys2Proof.Machine

/-! ### ACK (R125) -/

section Ack

variable {c : CursorId} {r : Req} {q : Seq} {i : StreamId} {body : List Byte} {w : Work DE}

/-- The states in which an ACK of the owner is taken (R125). -/
def CursorState.acks (z : CursorState) : Prop := z = .active ∨ z = .paused ∨ z = .stalled

theorem DE.ack_now (hb : ackBody body = .ok (c.val, q)) (ho : w.st.cursors[c].owner = some r.sess)
    (hs : CursorState.acks w.st.cursors[c].state) : DE.ack r body w = DE.ackNow c r q w := by
  obtain ⟨held, kept⟩ := CursorState.bound_ne (z := w.st.cursors[c].state) (by rcases hs with hs | hs | hs <;> rw [hs] <;> rfl)
  rw [DE.ack, hb, Work.layout_ok, index_val]
  exact (if_neg held).trans (DE.owned_go ho kept)

theorem DE.ackNow_eq (hs : CursorState.acks w.st.cursors[c].state) (hi : w.st.cursors[c].stream = some i) :
    DE.ackNow c r q w =
      if w.st.cursors[c].deliveredTop < q then w.refuse r .beyondDelivered 2
      else if q ≤ w.st.cursors[c].ackSeq then w.answer r (okWith (.sequence w.st.cursors[c].ackSeq))
      else DE.drained c (if w.st.cursors[c].retaining then
          ((DE.change c (Cursor.acknowledge q) w).answer r (okWith (.sequence q))).send (.evaluationTrigger i)
        else (DE.change c (Cursor.acknowledge q) w).answer r (okWith (.sequence q))) := by
  rcases hs with hs | hs | hs <;> simp only [DE.ackNow, hs, hi]

/-- The cursor after an ACK above ack_seq, as the statement gives it (R125). -/
theorem Cursor.acknowledge_eq (q : Seq) : Cursor.acknowledge q = fun x =>
    { x with ackSeq := q, list := x.list.filter fun e => q < e.seq, nextSeq := max x.nextSeq (q + 1),
             hint := if x.nextSeq ≤ q then none else x.hint } := by
  funext x
  have next : (if x.nextSeq ≤ q then q + 1 else x.nextSeq) = max x.nextSeq (q + 1) := by
    split
    · next low => exact (Nat.max_eq_right (Nat.le_succ_of_le low)).symm
    · next high => exact (Nat.max_eq_left (Nat.not_le.1 high)).symm
  exact congrArg (fun n => { x with
    ackSeq := q, list := x.list.filter fun e => q < e.seq, nextSeq := n, hint := if x.nextSeq ≤ q then none else x.hint }) next

end Ack

/-! ### Acknowledgement deadlines (R123, R124) -/

section Expiry

variable {c : CursorId} {q : Seq} {tries : Nat} {w : Work DE}

theorem InFlight.expires_iff (e : InFlight) : e.expires q tries = true ↔ NamedBy q tries e := by
  simp only [InFlight.expires, NamedBy, Bool.and_eq_true, decide_eq_true_eq, Bool.not_eq_true', and_assoc]

theorem markedDue_eq (l : List InFlight) : markedDue q tries l =
    l.map fun e => if e.expires q tries then { e with due := true } else e :=
  List.map_congr_left fun e _ => ite_congr (propext (InFlight.expires_iff e).symm) (fun _ => rfl) fun _ => rfl

theorem DE.expiry_stale (h : ∀ e ∈ w.st.cursors[c].list, ¬ NamedBy q tries e) : DE.expiry c q tries w = w :=
  if_neg fun any => by
    obtain ⟨e, he, named⟩ := List.any_eq_true.1 any
    exact h e he ((InFlight.expires_iff e).1 named)

/-- A cursor after an expiry, before the test of its exhausted entries (R123). -/
def Cursor.marked (q : Seq) (tries : Nat) (x : Cursor) : Cursor := { x with list := markedDue q tries x.list }

theorem DE.expiry_named {e : InFlight} (he : e ∈ w.st.cursors[c].list) (named : NamedBy q tries e) :
    DE.expiry c q tries w = if w.st.cursors[c].state = .active then DE.exhaust c (DE.change c (Cursor.marked q tries) w)
      else DE.change c (Cursor.marked q tries) w := by
  have marked : DE.change c (fun x => { x with
      list := x.list.map fun e => if e.expires q tries then { e with due := true } else e }) w =
      DE.change c (Cursor.marked q tries) w :=
    DE.change_congr (congrArg (fun l => { w.st.cursors[c] with list := l }) (markedDue_eq _).symm)
  have state : (DE.change c (Cursor.marked q tries) w).st.cursors[c].state = w.st.cursors[c].state :=
    (congrArg Cursor.state (DE.change_cursor c (Cursor.marked q tries) w)).trans rfl
  refine (if_pos (List.any_eq_true.2 ⟨e, he, (InFlight.expires_iff e).2 named⟩)).trans ?_
  dsimp only
  rw [marked, state]

/-- A cursor stalled after an expiry is as it would be without it (R124). -/
theorem DE.stalled_marked : DE.change c stalledCursor (DE.change c (Cursor.marked q tries) w) = DE.change c stalledCursor w :=
  DE.change_change ..

end Expiry

end Sys2Proof.Machine

/-! The statement about acknowledgement. -/

section
open Sys2Proof Sys2Proof.Machine

/-- Settles O40: an ACK by the sequence it names; an expiry by the entry it names, then by the exhausted entries. -/
theorem acknowledgementResults : Obligations.AcknowledgementResults := by
  refine ⟨fun r c q i s t h hb ho hi hs => ?_, fun c q tries s t h => ⟨fun stale => ?_, fun e he named => ⟨fun calm => ?_, ?_⟩⟩⟩
  · have now := (DE.ack_now (w := Work.start t.de) hb ho hs).trans (DE.ackNow_eq (w := Work.start t.de) hs hi)
    refine ⟨fun high => ?_, fun top low => ?_, fun top above => ?_⟩
    · exact exec_de_answers h rfl (now.trans (if_pos high))
    · exact exec_de_answers h rfl (now.trans ((if_neg (Nat.not_lt.2 top)).trans (if_pos low)))
    · obtain ⟨u, step, only, cursors, -, -, sent⟩ := exec_de h rfl
        (now.trans ((if_neg (Nat.not_lt.2 top)).trans (if_neg (Nat.not_le.2 above))))
      refine ⟨u, step, only, ?_, ?_⟩
      · rw [cursors, DE.drained_cursors, ← Cursor.acknowledge_eq, Work.send_if]
        rfl
      · obtain ⟨-, -, -, more⟩ := calm_drained c (if t.de.cursors[c].retaining then
          ((DE.change c (Cursor.acknowledge q) (Work.start t.de)).answer r (okWith (.sequence q))).send (.evaluationTrigger i)
          else (DE.change c (Cursor.acknowledge q) (Work.start t.de)).answer r (okWith (.sequence q)))
        have front := sent.front more
        rw [Work.send_if] at front
        exact front
  · obtain ⟨u, step, only, cursors, -⟩ := exec_de h rfl (DE.expiry_stale (w := Work.start t.de) stale)
    exact ⟨u, step, only, cursors⟩
  · have named := DE.expiry_named (w := Work.start t.de) he named
    have marked := DE.change_cursor c (Cursor.marked q tries) (Work.start t.de)
    have ends : DE.expiry c q tries (Work.start t.de) = DE.change c (Cursor.marked q tries) (Work.start t.de) := by
      rw [named]
      split
      · next active => exact DE.exhaust_none (by rw [marked]; exact calm.resolve_left (Classical.not_not.2 active))
      · rfl
    obtain ⟨u, step, only, cursors, -⟩ := exec_de h rfl ends
    exact ⟨u, step, only, cursors⟩
  · intro before x after active list fresh exhausted
    have marked := DE.change_cursor c (Cursor.marked q tries) (Work.start t.de)
    have stalls := DE.exhaust_first (c := c) (w := DE.change c (Cursor.marked q tries) (Work.start t.de))
      (before := before) (after := after) (e := x) (by rw [marked]; exact list) (by rw [marked]; exact fresh)
      (by rw [marked]; exact exhausted)
    rw [marked, DE.stalled_marked] at stalls
    exact exec_de_changes h rfl
      ((DE.expiry_named (w := Work.start t.de) he named).trans ((if_pos active).trans stalls)) rfl rfl
end

/-! SUPPORT. SD's reports and MU's tracker-free report at the Delivery Engine, and the choice that follows (R109 to R113, R126). -/

namespace Sys2Proof.Machine

/-! ### The drain notice (R126) -/

section Drained

variable {c : CursorId} {i : StreamId} {w : Work DE}

/-- What the drain test of a cursor `x` of a stream with view `v` raises (R126). -/
def drainNotices (c : CursorId) (v : View) (x : Cursor) : List Instr :=
  if v.settled = true ∧ x.ackSeq = v.committed then toOwner x fun o => ⟨.cursorDrained, none, some c, none, some o⟩ else []

theorem DE.drained_eq (hi : w.st.cursors[c].stream = some i) :
    DE.drained c w = w.sendAll (drainNotices c w.st.views[i] w.st.cursors[c]) := by
  have raised : DE.raise c .cursorDrained none w = w.sendAll (toOwner w.st.cursors[c] fun o =>
      ⟨.cursorDrained, none, some c, none, some o⟩) := (DE.raise_eq ..).trans rfl
  have test : ((w.st.views[i].settled && decide (w.st.cursors[c].ackSeq = w.st.views[i].committed)) = true) ↔
      (w.st.views[i].settled = true ∧ w.st.cursors[c].ackSeq = w.st.views[i].committed) := by
    rw [Bool.and_eq_true, decide_eq_true_eq]
  simp only [DE.drained, hi, raised, drainNotices, test]
  split
  · rfl
  · exact (congrArg (Work.mk w.st) (List.append_nil w.out)).symm

theorem Cursor.boundTo_iff {x : Cursor} :
    x.boundTo i = true ↔ CursorState.bound x.state = true ∧ x.stream = some i := by
  simp [Cursor.boundTo]

end Drained

/-! ### The settled report (R109, R126) -/

section Settled

variable {i : StreamId}

/-- The settled report at one cursor (R126). -/
def DE.settledAt (i : StreamId) (w : Work DE) (c : CursorId) : Work DE :=
  if w.st.cursors[c].boundTo i then DE.drained c w else w

theorem calm_settledAt (i : StreamId) (w : Work DE) (c : CursorId) : Calm w (DE.settledAt i w c) := by
  unfold DE.settledAt
  split
  · exact calm_drained c w
  · exact Calm.refl w

theorem DE.settledAt_out {c : CursorId} {w : Work DE} (settled : w.st.views[i].settled = true) :
    (DE.settledAt i w c).out = w.out ++
      if w.st.cursors[c].boundTo i = true ∧ w.st.cursors[c].ackSeq = w.st.views[i].committed then
        toOwner w.st.cursors[c] fun o => ⟨.cursorDrained, none, some c, none, some o⟩
      else [] := by
  by_cases bound : w.st.cursors[c].boundTo i = true
  · have drained : DE.settledAt i w c = DE.drained c w := if_pos bound
    rw [drained, DE.drained_eq (Cursor.boundTo_iff.1 bound).2]
    simp only [drainNotices, settled, bound, true_and, Work.sendAll_out]
  · have unchanged : DE.settledAt i w c = w := if_neg bound
    rw [unchanged, if_neg fun h => bound h.1, List.append_nil]

/-- A stream's view becomes settled (R109). -/
def DE.markSettled (i : StreamId) (d : DE) : DE := { d with views := upd d.views i fun v => { v with settled := true } }

/-- SD's settled report sets the flag, and then goes through the cursors in turn (R109, R126). -/
theorem DE.settledReport_eq (i : StreamId) (w : Work DE) :
    DE.settledReport i w = (List.finRange 64).foldl (DE.settledAt i) (w.mod (DE.markSettled i)) := rfl

/-- SD's settled report touches no cursor, and tells the owners in rising order of the cursors (R126). -/
theorem DE.settledReport_spec (i : StreamId) (w : Work DE) :
    (DE.settledReport i w).st.cursors = w.st.cursors ∧ (DE.settledReport i w).st.views = (DE.markSettled i w.st).views ∧
      (DE.settledReport i w).out = w.out ++ (List.finRange 64).flatMap fun c =>
        if w.st.cursors[c].boundTo i = true ∧ w.st.cursors[c].ackSeq = w.st.views[i].committed then
          toOwner w.st.cursors[c] fun o => ⟨.cursorDrained, none, some c, none, some o⟩
        else [] := by
  have flagged : (DE.markSettled i w.st).views[i] = { w.st.views[i] with settled := true } := upd_self ..
  obtain ⟨cursors, views, -⟩ := Calm.foldl (DE.settledAt i) (calm_settledAt i) (List.finRange 64) (w.mod (DE.markSettled i))
  obtain ⟨⟨ms, each, out⟩, -⟩ := foldl_cursors (f := DE.settledAt i)
    (Q := fun c ms => ms = if w.st.cursors[c].boundTo i = true ∧ w.st.cursors[c].ackSeq = w.st.views[i].committed then
      toOwner w.st.cursors[c] fun o => ⟨.cursorDrained, none, some c, none, some o⟩ else [])
    (R := fun _ _ => True) (d := DE.markSettled i w.st) (fun v c => Near.of_calm (calm_settledAt i v c))
    (fun v c views same => by
      have view : v.st.views[i] = { w.st.views[i] with settled := true } := (congrArg (·[i]) views).trans flagged
      have sends := DE.settledAt_out (i := i) (c := c) (w := v) (congrArg View.settled view)
      rw [view, same] at sends
      exact ⟨⟨_, sends, rfl⟩, trivial⟩)
    (List.finRange 64) (List.nodup_finRange 64) (w.mod (DE.markSettled i)) rfl fun _ _ => rfl
  rw [flatMap_congr_mem each] at out
  rw [DE.settledReport_eq]
  exact ⟨cursors, views, out⟩

end Settled

/-! ### The events that a choice may follow (R112) -/

/-- The events after which the statement speaks of the choice, each with DE as it leaves it (R112). -/
def LeavesDe (t : State) (c : Instr) (d : DE) : Prop :=
  (c = .trackerFreeReport ∧ d = { t.de with deferred := Vector.replicate 64 false }) ∨
    (∃ i q, c = .commitReport i q ∧
      d = { t.de with views := upd t.de.views i fun v => { v with committed := max v.committed q } }) ∨
    (∃ b, c = .deliverDropped b ∧ (t.de.buffer b).state = .sending ∧ (t.de.buffer b).hold = false ∧
      d = { t.de with buffers := upd t.de.buffers b.port fun v => v.set b.idx idleBuffer })

/-- A dropped report of a buffer without a hold leaves it IDLE, and sends nothing (R119). -/
theorem DE.dropped_idle {b : BufId} {w : Work DE} (hs : (w.st.buffer b).state = .sending) (hh : (w.st.buffer b).hold = false) :
    DE.dropped b w = DE.changeBuffer b (fun _ => idleBuffer) w :=
  (if_neg (Classical.not_not.2 hs)).trans (if_neg (Bool.eq_false_iff.1 hh))

/-- Each of these events sends nothing itself: what follows it is its state, and the choices (R112). -/
theorem exec_chooses {c : Instr} {d : DE} {s t : State} (h : Takes c s t) (hd : LeavesDe t c d)
    (hr : ∀ b : BufId, (d.buffer b).state = .ready → d.wanted (d.buffer b) = true) :
    exec c s = .next ({ t with de := (DE.choose ⟨d, []⟩).st }.post (.core .de) (DE.choose ⟨d, []⟩).out) := by
  rcases hd with ⟨rfl, rfl⟩ | ⟨i, q, rfl, rfl⟩ | ⟨b, rfl, hs, hh, rfl⟩
  · exact (arrive_takes h _).trans (congrArg Host.Outcome.next (State.onDe_choose (f := DE.trackerFree) rfl hr))
  · exact (arrive_takes h _).trans (congrArg Host.Outcome.next (State.onDe_choose (f := DE.commitReport i q) rfl hr))
  · exact (arrive_takes h _).trans (congrArg Host.Outcome.next
      (State.onDe_choose (f := DE.dropped b) ((DE.dropped_idle (w := Work.start t.de) hs hh).trans rfl) hr))

end Sys2Proof.Machine

/-! The statement about reports and the choice. -/

section
open Sys2Proof Sys2Proof.Machine

/-- Settles O41: the reports by their effect on the views, the cursors in turn; the choice through `choose_nothing` and
`choose_one`. -/
theorem deliveryReportResults : Obligations.DeliveryReportResults := by
  refine ⟨⟨fun i q s t h => ?_, fun i s t h => ?_, fun s t h => ?_⟩, fun c d s t h hd hr => ⟨fun none => ?_, ?_⟩⟩
  · obtain ⟨u, step, only, cursors, views, -⟩ := exec_de (f := fun _ => DE.commitReport i q) h rfl rfl
    exact ⟨u, step, only, cursors, views⟩
  · obtain ⟨sameCursors, sameViews, out⟩ := DE.settledReport_spec i (Work.start t.de)
    obtain ⟨u, step, only, cursors, views, -, sent⟩ := exec_de (f := fun _ => DE.settledReport i) h rfl rfl
    rw [out] at sent
    exact ⟨u, step, only, cursors.trans sameCursors, views.trans sameViews, sent⟩
  · obtain ⟨u, step, only, cursors, views, deferred, -⟩ := exec_de (f := fun _ => DE.trackerFree) h rfl rfl
    refine ⟨u, step, only, cursors, views, fun c => ?_⟩
    rw [deferred]
    exact Vector.getElem_replicate _
  · rw [exec_chooses h hd hr, choose_nothing ⟨d, []⟩ none]
    exact congrArg Host.Outcome.next (State.post_nil _ _)
  · intro b k i x m idle chosen first others stream begins
    rw [exec_chooses h hd hr, choose_one (w := ⟨d, []⟩) idle chosen first others stream begins]
    rfl
end

/-! SUPPORT. RU at the Delivery Engine: the floor, advance orders and returned gaps (R126 to R128, R135, R140, R158). -/

namespace Sys2Proof.Machine

/-! ### The floor (R135) -/

section Floor

variable {d : DE} {i : StreamId}

/-- A cursor that takes part in the floor of its stream (R135). -/
theorem DE.mem_floors {q : Seq} :
    q ∈ ((d.cursors.toList.filter fun c => c.boundTo i && c.retaining).map fun c => c.ackSeq + 1) ↔
      ∃ c : CursorId, d.cursors[c].boundTo i = true ∧ d.cursors[c].retaining = true ∧ q = d.cursors[c].ackSeq + 1 := by
  simp only [List.mem_map, List.mem_filter, Bool.and_eq_true, Vector.mem_toList_iff]
  constructor
  · rintro ⟨x, ⟨mem, bound, retaining⟩, rfl⟩
    obtain ⟨n, hn, rfl⟩ := Vector.getElem_of_mem mem
    exact ⟨⟨n, hn⟩, bound, retaining, rfl⟩
  · rintro ⟨c, bound, retaining, rfl⟩
    exact ⟨d.cursors[c], ⟨Vector.getElem_mem c.isLt, bound, retaining⟩, rfl⟩

/-- The floor is no higher than that of any retaining cursor in a bound state (R135). -/
theorem DE.floor_le {c : CursorId} (bound : d.cursors[c].boundTo i = true) (retaining : d.cursors[c].retaining = true) :
    ∃ q, d.floor i = some q ∧ q ≤ d.cursors[c].ackSeq + 1 := by
  have mem := DE.mem_floors.2 ⟨c, bound, retaining, rfl⟩
  obtain ⟨q, least⟩ := Option.isSome_iff_exists.1 (List.isSome_min?_of_mem mem)
  exact ⟨q, least, (List.min?_eq_some_iff.1 least).2 _ mem⟩

/-- The floor is that of some retaining cursor in a bound state (R135). -/
theorem DE.floor_attained {q : Seq} (h : d.floor i = some q) :
    ∃ c : CursorId, d.cursors[c].boundTo i = true ∧ d.cursors[c].retaining = true ∧ q = d.cursors[c].ackSeq + 1 :=
  DE.mem_floors.1 (List.min?_mem h)

end Floor

/-! ### Gaps (R128) -/

section Gap

variable {c : CursorId} {i : StreamId} {w : Work DE} {gap : Nat}

/-- What the owner rule lets through depends on the owner and the end of its session (R103). -/
theorem toOwner_congr {x y : Cursor} (ho : y.owner = x.owner) (he : y.endDue = x.endDue) (e : SessId → Event) :
    toOwner y e = toOwner x e := by
  unfold toOwner
  rw [ho, he]

theorem toOwner_none {x : Cursor} (h : x.owner = none ∨ x.endDue = true) (e : SessId → Event) : toOwner x e = [] := by
  unfold toOwner
  rcases h with h | h
  · rw [h]
  · cases x.owner with
    | none => rfl
    | some o => exact if_pos h

theorem toOwner_some {x : Cursor} {o : SessId} (ho : x.owner = some o) (he : x.endDue = false) (e : SessId → Event) :
    toOwner x e = [.noticeEvent (e o)] := by
  unfold toOwner
  rw [ho]
  exact if_neg (Bool.eq_false_iff.1 he)

/-- A cursor keeps a gap that there is no owner to report to (R128). -/
def Cursor.keepGap (gap : Nat) (x : Cursor) : Cursor :=
  { x with pendingGap := if x.owner = none ∨ x.endDue = true then count x.pendingGap gap else x.pendingGap }

theorem DE.reportGap_eq (hi : w.st.cursors[c].stream = some i) : DE.reportGap c gap w =
    (DE.change c (Cursor.keepGap gap) w).sendAll
      (toOwner w.st.cursors[c] fun o => ⟨.cursorGap, some i, some c, some gap, some o⟩) := by
  by_cases unowned : w.st.cursors[c].owner = none ∨ w.st.cursors[c].endDue = true
  · have kept : DE.reportGap c gap w = DE.change c (fun x => { x with pendingGap := count x.pendingGap gap }) w := by
      refine if_neg ?_
      rcases unowned with h | h <;> simp [-Fin.getElem_fin, h]
    have same : DE.change c (fun x => { x with pendingGap := count x.pendingGap gap }) w =
        DE.change c (Cursor.keepGap gap) w := DE.change_congr (by rw [Cursor.keepGap, if_pos unowned])
    rw [kept, same, toOwner_none unowned]
    exact (congrArg (Work.mk _) (List.append_nil _)).symm
  · obtain ⟨owned, undue⟩ := not_or.1 unowned
    have raised : DE.reportGap c gap w = DE.raise c .cursorGap (some gap) w := by
      refine if_pos ?_
      rw [Bool.and_eq_true, Bool.not_eq_true', Option.isSome_iff_ne_none]
      exact ⟨owned, Bool.not_eq_true _ ▸ undue⟩
    have same : DE.change c (Cursor.keepGap gap) w = w :=
      DE.change_unchanged (by rw [Cursor.keepGap, if_neg unowned])
    rw [raised, same, DE.raise_eq, hi]
    rfl

end Gap

/-! ### An advance order (R127, R128, R140) -/

section Advance

variable {c : CursorId} {i : StreamId} {m : Seq} {w : Work DE}

/-- A cursor whose min_start an advance order has raised (R127). -/
def Cursor.raiseStart (m : Seq) (x : Cursor) : Cursor :=
  { x with minStart := if x.state = .seeking ∨ (x.state = .free ∧ x.work = .bind) then max x.minStart m else x.minStart }

/-- What an advance order raises for a cursor `x` of a stream with view `v` that it moves (R126, R128). -/
def movedNotices (c : CursorId) (i : StreamId) (m : Seq) (v : View) (x : Cursor) : List Instr :=
  toOwner x (fun o => ⟨.cursorGap, some i, some c, some (m - 1 - x.ackSeq), some o⟩) ++
    if v.settled && v.committed = m - 1 then toOwner x (fun o => ⟨.cursorDrained, none, some c, none, some o⟩) else []

theorem DE.advanceOne_other (h : w.st.cursors[c].stream ≠ some i) : DE.advanceOne i m w c = w := if_pos h

theorem DE.advanceOne_eq (hi : w.st.cursors[c].stream = some i) : DE.advanceOne i m w c =
    if CursorState.bound w.st.cursors[c].state && w.st.cursors[c].ackSeq < m - 1 then
      DE.drained c (DE.reportGap c (m - 1 - w.st.cursors[c].ackSeq) (DE.change c (Cursor.advance m)
        (DE.change c (Cursor.raiseStart m) w)))
    else DE.change c (Cursor.raiseStart m) w := by
  have raised : (if (decide (w.st.cursors[c].state = .seeking) ||
        (decide (w.st.cursors[c].state = .free) && decide (w.st.cursors[c].work = .bind))) = true then
        DE.change c (fun x => { x with minStart := max x.minStart m }) w else w) =
      DE.change c (Cursor.raiseStart m) w := by
    have test : ((decide (w.st.cursors[c].state = .seeking) ||
        (decide (w.st.cursors[c].state = .free) && decide (w.st.cursors[c].work = .bind))) = true) ↔
        (w.st.cursors[c].state = .seeking ∨ (w.st.cursors[c].state = .free ∧ w.st.cursors[c].work = .bind)) := by
      simp only [Bool.or_eq_true, Bool.and_eq_true, decide_eq_true_eq]
    by_cases positioning : w.st.cursors[c].state = .seeking ∨ (w.st.cursors[c].state = .free ∧ w.st.cursors[c].work = .bind)
    · rw [if_pos (test.2 positioning)]
      exact DE.change_congr (by rw [Cursor.raiseStart, if_pos positioning])
    · rw [if_neg (mt test.1 positioning)]
      exact (DE.change_unchanged (by rw [Cursor.raiseStart, if_neg positioning])).symm
  refine (if_neg (Classical.not_not.2 hi)).trans ?_
  exact congrArg (fun v => if (CursorState.bound w.st.cursors[c].state && decide (w.st.cursors[c].ackSeq < m - 1)) = true then
    DE.drained c (DE.reportGap c (m - 1 - w.st.cursors[c].ackSeq) (DE.change c (Cursor.advance m) v)) else v) raised

theorem MovedBy_iff {x : Cursor} (hi : x.stream = some i) :
    MovedBy i m x ↔ (CursorState.bound x.state && x.ackSeq < m - 1) = true := by
  rw [MovedBy, Cursor.boundTo_iff, Bool.and_eq_true, decide_eq_true_eq, and_iff_left hi]

/-- The record of a cursor that an advance order moves, in the model's steps (R127, R128). -/
theorem movedCursor_eq {x : Cursor} (moved : MovedBy i m x) :
    Cursor.keepGap (m - 1 - x.ackSeq) (Cursor.advance m (Cursor.raiseStart m x)) = movedCursor m x := by
  have held : x.state ≠ .free := (CursorState.bound_ne (Cursor.boundTo_iff.1 moved.1).1).1
  have start : (x.state = .seeking ∨ (x.state = .free ∧ x.work = .bind)) ↔ x.state = .seeking :=
    or_iff_left fun h => held h.1
  simp only [Cursor.keepGap, Cursor.advance, Cursor.raiseStart, movedCursor, start, count, satAdd, maxCount]

/-- An advance order at a cursor that it moves: the record, and the notices (R127, R128). -/
theorem DE.advanceOne_moved (moved : MovedBy i m w.st.cursors[c]) :
    (DE.advanceOne i m w c).st.cursors[c] = movedCursor m w.st.cursors[c] ∧
      (DE.advanceOne i m w c).out = w.out ++ movedNotices c i m w.st.views[i] w.st.cursors[c] := by
  have hi := (Cursor.boundTo_iff.1 moved.1).2
  have advanced : (DE.change c (Cursor.advance m) (DE.change c (Cursor.raiseStart m) w)).st.cursors[c] =
      Cursor.advance m (Cursor.raiseStart m w.st.cursors[c]) := by rw [DE.change_cursor, DE.change_cursor]
  have stream : (DE.change c (Cursor.advance m) (DE.change c (Cursor.raiseStart m) w)).st.cursors[c].stream = some i := by
    rw [advanced]
    exact hi
  have gap := DE.reportGap_eq (gap := m - 1 - w.st.cursors[c].ackSeq) stream
  have cursor : (DE.reportGap c (m - 1 - w.st.cursors[c].ackSeq) (DE.change c (Cursor.advance m)
      (DE.change c (Cursor.raiseStart m) w))).st.cursors[c] = movedCursor m w.st.cursors[c] := by
    rw [gap, Work.sendAll_st, DE.change_cursor, advanced]
    exact movedCursor_eq moved
  have drained := DE.drained_eq (c := c) (i := i) (w := DE.reportGap c (m - 1 - w.st.cursors[c].ackSeq)
    (DE.change c (Cursor.advance m) (DE.change c (Cursor.raiseStart m) w))) (by rw [cursor]; exact hi)
  rw [DE.advanceOne_eq hi, if_pos ((MovedBy_iff hi).1 moved), drained]
  refine ⟨cursor, ?_⟩
  rw [Work.sendAll_out, cursor, gap, Work.sendAll_out, advanced]
  refine (List.append_assoc ..).trans (congrArg (w.out ++ ·) (congr (congrArg HAppend.hAppend (toOwner_congr rfl rfl _)) ?_))
  have test : (w.st.views[i].settled = true ∧ m - 1 = w.st.views[i].committed) ↔
      (w.st.views[i].settled && decide (w.st.views[i].committed = m - 1)) = true := by
    rw [Bool.and_eq_true, decide_eq_true_eq, eq_comm (a := m - 1)]
  exact ite_congr (propext test) (fun _ => toOwner_congr rfl rfl _) fun _ => rfl

/-- An advance order at a cursor of the stream that it does not move (R127). -/
theorem DE.advanceOne_kept (hi : w.st.cursors[c].stream = some i) (kept : ¬ MovedBy i m w.st.cursors[c]) :
    DE.advanceOne i m w c = DE.change c (Cursor.raiseStart m) w := by
  rw [DE.advanceOne_eq hi, if_neg (mt (MovedBy_iff hi).2 kept)]

/-- What an advance order makes of a cursor `x`, as the statement says it (R127). -/
def AfterAdvance (i : StreamId) (m : Seq) (x y : Cursor) : Prop :=
  (x.stream ≠ some i → y = x) ∧ (MovedBy i m x → y = movedCursor m x) ∧
    (x.stream = some i → ¬ MovedBy i m x → y = x.raiseStart m)

/-- What an advance order raises for a cursor `x` of a stream with view `v` (R126, R128). -/
def advanceNoticesAt (c : CursorId) (i : StreamId) (m : Seq) (v : View) (x : Cursor) : List Instr :=
  if x.boundTo i && x.ackSeq < m - 1 then movedNotices c i m v x else []

theorem advanceNoticesAt_moved {v : View} {x : Cursor} (moved : MovedBy i m x) :
    advanceNoticesAt c i m v x = movedNotices c i m v x :=
  if_pos (by rw [Bool.and_eq_true, decide_eq_true_eq]; exact moved)

theorem advanceNoticesAt_kept {v : View} {x : Cursor} (kept : ¬ MovedBy i m x) : advanceNoticesAt c i m v x = [] :=
  if_neg (by rw [Bool.and_eq_true, decide_eq_true_eq]; exact kept)

theorem DE.advanceOne_spec (i : StreamId) (m : Seq) (w : Work DE) (c : CursorId) :
    (∃ ms, (DE.advanceOne i m w c).out = w.out ++ ms ∧ ms = advanceNoticesAt c i m w.st.views[i] w.st.cursors[c]) ∧
      AfterAdvance i m w.st.cursors[c] (DE.advanceOne i m w c).st.cursors[c] := by
  by_cases moved : MovedBy i m w.st.cursors[c]
  · obtain ⟨cursor, out⟩ := DE.advanceOne_moved moved
    exact ⟨⟨_, out, (advanceNoticesAt_moved moved).symm⟩, fun other => absurd (Cursor.boundTo_iff.1 moved.1).2 other,
      fun _ => cursor, fun _ kept => absurd moved kept⟩
  · by_cases hi : w.st.cursors[c].stream = some i
    · rw [DE.advanceOne_kept hi moved]
      exact ⟨⟨[], (List.append_nil _).symm, (advanceNoticesAt_kept moved).symm⟩, fun other => absurd hi other,
        fun h => absurd h moved, fun _ _ => DE.change_cursor ..⟩
    · rw [DE.advanceOne_other hi]
      exact ⟨⟨[], (List.append_nil _).symm, (advanceNoticesAt_kept moved).symm⟩, fun _ => rfl,
        fun h => absurd h moved, fun h => absurd h hi⟩

/-- A step of an advance order touches no other cursor (R127). -/
theorem near_advanceOne (i : StreamId) (m : Seq) (w : Work DE) (c : CursorId) : Near c w (DE.advanceOne i m w c) := by
  by_cases hi : w.st.cursors[c].stream = some i
  · rw [DE.advanceOne_eq hi]
    split
    · refine Near.trans ?_ (Near.of_calm (calm_drained c _))
      rw [DE.reportGap_eq (i := i) (by rw [DE.change_cursor, DE.change_cursor]; exact hi)]
      exact ((near_change c _ w).trans (near_change c _ _)).trans ((near_change c _ _).trans (near_sendAll c _ _))
    · exact near_change c _ w
  · rw [DE.advanceOne_other hi]
    exact Near.refl c w

theorem DE.advanceOrder_refused {kind : RelKind} {q : Seq} (hk : kind = .normal) (hf : w.st.floor i = some q) (hq : q < m) :
    DE.advanceOrder i m kind w = w.send (.advanceOrderAnswer i false) := by
  refine if_pos ?_
  rw [hk, hf]
  simpa using hq

/-- An advance order that is not refused goes through the cursors in turn (R127, R140). -/
theorem DE.advanceOrder_done {kind : RelKind}
    (h : kind ≠ .normal ∨ w.st.floor i = none ∨ ∃ q, w.st.floor i = some q ∧ m ≤ q) :
    DE.advanceOrder i m kind w = ((List.finRange 64).foldl (DE.advanceOne i m) w).send (.advanceOrderAnswer i true) := by
  refine if_neg ?_
  rintro refused
  obtain ⟨normal, below⟩ := Bool.and_eq_true_iff.1 refused
  rcases h with h | h | ⟨q, h, high⟩
  · exact h (of_decide_eq_true normal)
  · rw [h] at below
    cases below
  · rw [h] at below
    exact Nat.not_lt.2 high (of_decide_eq_true below)

end Advance

/-! ### A returned gap (R158) -/

section Returned

variable {c : CursorId} {gap : Nat} {sess : SessId} {w : Work DE}

theorem DE.returnedGap_lost (h : w.st.cursors[c].state = .free ∨ w.st.cursors[c].state = .orphaned) :
    DE.returnedGap c gap sess w = w := by
  refine if_pos ?_
  rcases h with h | h <;> rw [h] <;> rfl

theorem CursorState.bound_of_ne {z : CursorState} (hf : z ≠ .free) (ho : z ≠ .orphaned) : CursorState.bound z = true := by
  cases z with
  | free => exact absurd rfl hf
  | orphaned => exact absurd rfl ho
  | _ => rfl

theorem DE.returnedGap_kept (hf : w.st.cursors[c].state ≠ .free) (ho : w.st.cursors[c].state ≠ .orphaned)
    (h : w.st.cursors[c].owner = none ∨ w.st.cursors[c].endDue = true ∨ w.st.cursors[c].owner = some sess) :
    DE.returnedGap c gap sess w = DE.change c (fun x => { x with pendingGap := count x.pendingGap gap }) w := by
  refine (if_neg (by rw [CursorState.bound_of_ne hf ho]; decide)).trans (if_pos ?_)
  rcases h with h | h | h <;> simp [-Fin.getElem_fin, h]

theorem DE.returnedGap_raised {o : SessId} (hf : w.st.cursors[c].state ≠ .free) (hs : w.st.cursors[c].state ≠ .orphaned)
    (ho : w.st.cursors[c].owner = some o) (other : o ≠ sess) (he : w.st.cursors[c].endDue = false) :
    DE.returnedGap c gap sess w = w.send (.noticeEvent ⟨.cursorGap, w.st.cursors[c].stream, some c, some gap, some o⟩) := by
  refine (if_neg (by rw [CursorState.bound_of_ne hf hs]; decide)).trans ((if_neg ?_).trans ?_)
  · simp [-Fin.getElem_fin, ho, he, other]
  · rw [DE.raise_eq, toOwner_some ho he]
    rfl

end Returned

end Sys2Proof.Machine

/-! The statement about RU at DE. -/

section
open Sys2Proof Sys2Proof.Machine

/-- Settles O43: the floor as a least element; an advance order through the cursors in turn; a returned gap by its cursor's owner. -/
theorem retentionAtDeliveryResults : Obligations.RetentionAtDeliveryResults := by
  refine ⟨fun i s t h => ?_, fun i m kind s t h => ⟨?_, fun may => ?_⟩, fun c gap sess s t h => ⟨fun lost => ?_,
    fun held kept => ⟨fun unowned => ?_, fun o owner other undue => ?_⟩⟩⟩
  · obtain ⟨u, step, only, cursors, -, -, sent⟩ := exec_de (f := fun _ => DE.floorQuestion i) h rfl rfl
    exact ⟨u, t.de.floor i, step, only, cursors, sent, fun c => DE.floor_le, fun q => DE.floor_attained⟩
  · rintro ⟨normal, q, floor, below⟩
    exact exec_de_answers (f := fun _ => DE.advanceOrder i m kind) h rfl
      (DE.advanceOrder_refused (w := Work.start t.de) normal floor below)
  · obtain ⟨⟨ms, each, out⟩, -, records, -⟩ := foldl_cursors (f := DE.advanceOne i m)
      (Q := fun c ms => ms = advanceNoticesAt c i m t.de.views[i] t.de.cursors[c])
      (R := fun c => AfterAdvance i m t.de.cursors[c]) (d := t.de) (near_advanceOne i m)
      (fun v c views same => by
        have spec := DE.advanceOne_spec i m v c
        rwa [views, same] at spec)
      (List.finRange 64) (List.nodup_finRange 64) (Work.start t.de) rfl fun _ _ => rfl
    have ended := DE.advanceOrder_done (w := Work.start t.de) may
    generalize (List.finRange 64).foldl (DE.advanceOne i m) (Work.start t.de) = v at ended out records
    obtain ⟨u, step, only, cursors, -, -, sent⟩ := exec_de (f := fun _ => DE.advanceOrder i m kind) h rfl ended
    rw [flatMap_congr_mem each] at out
    refine ⟨u, step, only, (congrArg (fun l => SendsFirst (.core .de) t u (l ++ [.advanceOrderAnswer i true])) out).mp sent,
      fun c => ?_⟩
    rw [cursors]
    exact records c (List.mem_finRange c)
  · obtain ⟨u, step, only, cursors, -⟩ := exec_de (f := fun _ => DE.returnedGap c gap sess) h rfl
      (DE.returnedGap_lost (w := Work.start t.de) lost)
    exact ⟨u, step, only, cursors⟩
  · obtain ⟨u, step, only, cursors, -⟩ := exec_de (f := fun _ => DE.returnedGap c gap sess) h rfl
      (DE.returnedGap_kept (w := Work.start t.de) held kept unowned)
    exact ⟨u, step, only, cursors⟩
  · exact exec_de_answers (f := fun _ => DE.returnedGap c gap sess) h rfl
      (DE.returnedGap_raised (w := Work.start t.de) held kept owner other undue)
end

/-! SUPPORT. A delivery at the answers and reads that it waits for (R113 to R118). -/

namespace Sys2Proof.Machine

/-! ### Steps at a buffer -/

/-- A step of DE that leaves the cursors of `d`, a buffer as `x`, and has sent `ms`. -/
def AtWork (b : BufId) (d : DE) (x : Buffer) (ms : List Instr) (w : Work DE) : Prop :=
  w.st.cursors = d.cursors ∧ w.st.buffer b = x ∧ w.out = ms

section Steps

variable {b : BufId} {d : DE} {x : Buffer} {ms : List Instr} {w : Work DE}

theorem AtWork.start (h : d.buffer b = x) : AtWork b d x [] (Work.start d) := ⟨rfl, h, rfl⟩

theorem AtWork.change (h : AtWork b d x ms w) (f : Buffer → Buffer) : AtWork b d (f x) ms (DE.changeBuffer b f w) := by
  obtain ⟨cursors, buffer, out⟩ := h
  exact ⟨cursors, (DE.buffer_changeBuffer_self b f w).trans (congrArg f buffer), out⟩

theorem AtWork.send (h : AtWork b d x ms w) (m : Instr) : AtWork b d x (ms ++ [m]) (w.send m) := by
  obtain ⟨cursors, buffer, out⟩ := h
  exact ⟨cursors, buffer, congrArg (· ++ [m]) out⟩

theorem AtWork.askHold (h : AtWork b d x ms w) (i : StreamId) :
    AtWork b d { x with state := .holding } (ms ++ [.holdRequest i x.ppn b]) (DE.askHold b i w) := by
  have asks := (h.change fun x => { x with state := .holding }).send (.holdRequest i x.ppn b)
  obtain ⟨-, buffer, -⟩ := h
  unfold DE.askHold
  rwa [buffer]

theorem AtWork.cross (h : AtWork b d x ms w) (i : StreamId) (lpn : Lpn) :
    AtWork b d { x with state := .locating, locate := .crossing, offset := 0 }
      (ms ++ [.lookupByLpn i (lpn + 1) (.delivery b)]) (DE.cross b i lpn w) :=
  (h.change fun x => { x with state := .locating, locate := .crossing, offset := 0 }).send _

theorem AtWork.readHeader (h : AtWork b d x ms w) : AtWork b d { x with state := .reading }
    (ms ++ [.mpOperationIssue ⟨.headerRead b, x.ppn, x.offset, 16, []⟩]) (DE.readHeader b w) := by
  have reads := (h.change fun x => { x with state := .reading }).send
    (.mpOperationIssue ⟨.headerRead b, x.ppn, x.offset, 16, []⟩)
  obtain ⟨-, buffer, -⟩ := h
  unfold DE.readHeader
  rwa [buffer]

theorem AtWork.dropHold (h : AtWork b d x ms w) :
    AtWork b d { x with hold := false } (ms ++ droppedHold x) (DE.dropHold b w) := by
  obtain ⟨cursors, buffer, out⟩ := h
  obtain ⟨dropped, same, -, sent⟩ := dropHold_spec b w
  rw [buffer] at dropped sent
  exact ⟨same.trans cursors, dropped, sent.trans (congrArg (· ++ droppedHold x) out)⟩

theorem AtWork.offer (h : AtWork b d x ms w) : AtWork b d { x with state := .ready, hold := false }
    (ms ++ droppedHold x ++ [.transmitOffer b.port]) (DE.offer b w) :=
  (h.dropHold.change fun x => { x with state := .ready }).send _

/-- A command at DE that leaves a buffer at work (R119). -/
theorem exec_de_works {c : Instr} {s t : State} {f : State → Work DE → Work DE} (h : Takes c s t)
    (he : exec c s = arrive c s fun t => t.onDe (f t)) (hw : AtWork b t.de x ms (f t (Work.start t.de)))
    (hi : x.state ≠ .idle) (hr : x.state ≠ .ready ∨ t.de.wanted x = true) :
    ∃ u, exec c s = .next u ∧ OnlyDe t u ∧ u.de.cursors = t.de.cursors ∧ u.de.buffer b = x ∧
      SendsFirst (.core .de) t u ms := by
  obtain ⟨cursors, buffer, out⟩ := hw
  obtain ⟨only, same, -, kept, sent⟩ := State.onDe_works t (f t) (b := b) rfl (by rw [buffer]; exact hi)
    (by rw [buffer, DE.wanted_congr cursors]; exact hr)
  exact ⟨_, he.trans (arrive_takes h _), only, same.trans cursors, kept.trans buffer, out ▸ sent⟩

/-- A command at DE that ends the delivery of a buffer (R114, R118). -/
theorem exec_de_ends {c : Instr} {s t : State} {f : State → Work DE → Work DE} {g : Work DE} (h : Takes c s t)
    (he : exec c s = arrive c s fun t => t.onDe (f t)) (hf : f t (Work.start t.de) = DE.endDelivery b g) :
    ∃ u, exec c s = .next u ∧ OnlyDe t u ∧ u.de.cursors = g.st.cursors ∧ u.de.deferred = g.st.deferred ∧
      AfterDelivery (u.de.buffer b) ∧ SendsFirst (.core .de) t u (g.out ++ droppedHold (g.st.buffer b)) :=
  ⟨_, he.trans (arrive_takes h _), State.onDe_ends t (f t) hf⟩

/-- The test of R118 reads of the buffer what the delivery is, not how far it has come. -/
theorem DE.wanted_same {y : Buffer} (ha : y.abandoned = x.abandoned) (hc : y.cursor = x.cursor)
    (hr : y.redelivery = x.redelivery) (hs : y.seq = x.seq) : d.wanted y = d.wanted x := by
  simp only [DE.wanted, ha, hc, hr, hs]

end Steps

/-! ### MU's answer (R113, R115) -/

section Lookup

variable {b : BufId} {i : StreamId} {x : Buffer} {a : MapAnswer} {lpn : Lpn} {rec : MapRec} {w : Work DE}

theorem DE.lookupAnswer_unwanted (hx : w.st.buffer b = x) (hs : x.state = .locating) (hw : w.st.wanted x = false) :
    DE.lookupAnswer b a w = DE.endDelivery b w := by
  subst hx
  exact (if_neg (Classical.not_not.2 hs)).trans (if_pos (by rw [hw]; rfl))

theorem DE.lookupAnswer_found (hx : w.st.buffer b = x) (hs : x.state = .locating) (hw : w.st.wanted x = true)
    (hi : w.st.cursors[x.cursor].stream = some i) :
    DE.lookupAnswer b (.found lpn rec) w = DE.found b i lpn rec w := by
  subst hx
  refine (if_neg (Classical.not_not.2 hs)).trans ((if_neg (by rw [hw]; decide)).trans ?_)
  have stream : w.st.streamOf b = some i := hi
  rw [stream]

theorem DE.lookupAnswer_retry (hx : w.st.buffer b = x) (hs : x.state = .locating) (hw : w.st.wanted x = true) :
    DE.lookupAnswer b .retry w =
      DE.endDelivery b (w.mod fun d => { d with deferred := d.deferred.set x.cursor true }) := by
  subst hx
  exact (if_neg (Classical.not_not.2 hs)).trans (if_neg (by rw [hw]; decide))

theorem DE.lookupAnswer_other (hx : w.st.buffer b = x) (hs : x.state = .locating) (hw : w.st.wanted x = true)
    (hf : ∀ lpn rec, a ≠ .found lpn rec) (hr : a ≠ .retry) : DE.lookupAnswer b a w = DE.endDelivery b w := by
  subst hx
  refine (if_neg (Classical.not_not.2 hs)).trans ((if_neg (by rw [hw]; decide)).trans ?_)
  cases a with
  | found lpn rec => exact absurd rfl (hf lpn rec)
  | retry => exact absurd rfl hr
  | _ => cases w.st.streamOf b <;> rfl

theorem DE.found_holds (hx : w.st.buffer b = x) (h : x.locate ≠ .crossing ∨ rec.firstSeq = x.seq) :
    DE.found b i lpn rec w = DE.askHold b i (DE.changeBuffer b (fun x =>
      { x with lpn := lpn, ppn := rec.ppn, offset := if x.locate = .page then x.offset else 0 }) w) := by
  subst hx
  refine if_neg fun lost => ?_
  obtain ⟨crossing, differs⟩ := Bool.and_eq_true_iff.1 lost
  exact h.elim (fun h => h (of_decide_eq_true crossing)) fun h => of_decide_eq_true differs h

theorem DE.found_lost (hx : w.st.buffer b = x) (hl : x.locate = .crossing) (hq : rec.firstSeq ≠ x.seq) :
    DE.found b i lpn rec w = DE.endDelivery b (DE.loseHint b w) := by
  subst hx
  exact if_pos (Bool.and_eq_true_iff.2 ⟨decide_eq_true hl, decide_eq_true hq⟩)

end Lookup

/-! ### PP's answer (R114) -/

section Hold

variable {b : BufId} {x : Buffer} {a : HoldAnswer} {w : Work DE}

theorem DE.holdAnswer_granted (hx : w.st.buffer b = x) (hs : x.state = .holding) (hw : w.st.wanted x = true) :
    DE.holdAnswer b .granted w = DE.readHeader b (DE.changeBuffer b (fun x => { x with hold := true }) w) := by
  subst hx
  exact (if_neg (Classical.not_not.2 hs)).trans (if_neg (by
    have same : (DE.changeBuffer b (fun x => { x with hold := true }) w).st.wanted (w.st.buffer b) =
      w.st.wanted (w.st.buffer b) := DE.wanted_congr rfl _
    rw [if_pos rfl, same, hw]
    decide))

theorem DE.holdAnswer_granted_unwanted (hx : w.st.buffer b = x) (hs : x.state = .holding) (hw : w.st.wanted x = false) :
    DE.holdAnswer b .granted w = DE.endDelivery b (DE.changeBuffer b (fun x => { x with hold := true }) w) := by
  subst hx
  exact (if_neg (Classical.not_not.2 hs)).trans (if_pos (by
    have same : (DE.changeBuffer b (fun x => { x with hold := true }) w).st.wanted (w.st.buffer b) =
      w.st.wanted (w.st.buffer b) := DE.wanted_congr rfl _
    rw [if_pos rfl, same, hw]
    rfl))

theorem DE.holdAnswer_refused (hx : w.st.buffer b = x) (hs : x.state = .holding) (hw : w.st.wanted x = true)
    (ha : a ≠ .granted) :
    DE.holdAnswer b a w = DE.endDelivery b (if x.redelivery then w else DE.loseHint b w) := by
  subst hx
  unfold DE.holdAnswer
  simp only [hs, ne_eq, not_true_eq_false, if_false, if_neg ha, hw, Bool.not_true, Bool.false_eq_true]

theorem DE.holdAnswer_refused_unwanted (hx : w.st.buffer b = x) (hs : x.state = .holding) (hw : w.st.wanted x = false)
    (ha : a ≠ .granted) : DE.holdAnswer b a w = DE.endDelivery b w := by
  subst hx
  unfold DE.holdAnswer
  simp only [hs, ne_eq, not_true_eq_false, if_false, if_neg ha, hw, Bool.not_false, if_true]

end Hold

/-! ### Header and payload reads (R115 to R117) -/

section Read

variable {b : BufId} {i : StreamId} {x : Buffer} {h : Header} {bytes : List Byte} {w : Work DE}

theorem DE.headerDone_unwanted (hx : w.st.buffer b = x) (hs : x.state = .reading) (hw : w.st.wanted x = false) :
    DE.headerDone b bytes w = DE.endDelivery b w := by
  subst hx
  refine (if_neg (Classical.not_not.2 hs)).trans ?_
  cases w.st.streamOf b with
  | none => rfl
  | some i => exact if_neg (by rw [hw]; decide)

theorem DE.headerDone_wanted (hx : w.st.buffer b = x) (hs : x.state = .reading) (hw : w.st.wanted x = true)
    (hi : w.st.cursors[x.cursor].stream = some i) :
    DE.headerDone b bytes w = DE.header b i (headerOf bytes) w := by
  subst hx
  refine (if_neg (Classical.not_not.2 hs)).trans ?_
  have stream : w.st.streamOf b = some i := hi
  rw [stream]
  exact if_pos hw

theorem Header.valid_iff (h : Header) (offset : Nat) : h.valid offset = true ↔ ValidAt offset h := by
  unfold Header.valid ValidAt
  cases h.kind <;> simp [and_assoc]

theorem DE.header_invalid (hx : w.st.buffer b = x) (invalid : ¬ ValidAt x.offset h) :
    DE.header b i h w = DE.unreachable b w := by
  subst hx
  exact if_pos (by rw [Bool.not_eq_true', ← Bool.not_eq_true, Header.valid_iff]; exact invalid)

/-- What a valid header brings (R115). -/
theorem DE.header_eq (hx : w.st.buffer b = x) (valid : ValidAt x.offset h) : DE.header b i h w =
    if h.kind = .pad then
      if x.redelivery = true then DE.unreachable b w else DE.cross b i x.lpn (DE.dropHold b w)
    else if h.seq = x.seq then
      (DE.changeBuffer b (fun x =>
        { x with stamp := h.stamp, checksum := h.checksum, length := h.length, size := some (storedSize h.length) }) w).send
        (.mpOperationIssue ⟨.payloadRead b, x.ppn, x.offset + 16, padded h.length, []⟩)
    else if h.seq < x.seq ∧ x.redelivery = false then
      if x.offset + storedSize h.length ≤ 2032 then
        DE.readHeader b (DE.changeBuffer b (fun y => { y with offset := x.offset + storedSize h.length }) w)
      else DE.cross b i x.lpn (DE.dropHold b w)
    else DE.unreachable b w := by
  have lower : ((decide (h.seq < x.seq) && !x.redelivery) = true) ↔ (h.seq < x.seq ∧ x.redelivery = false) := by
    rw [Bool.and_eq_true, decide_eq_true_eq, Bool.not_eq_true']
  subst hx
  refine (if_neg (by rw [(Header.valid_iff _ _).2 valid]; decide)).trans ?_
  simp only [lower]

theorem DE.header_target (hx : w.st.buffer b = x) (valid : ValidAt x.offset h) (kind : h.kind = .entry)
    (hq : h.seq = x.seq) : DE.header b i h w =
      (DE.changeBuffer b (fun x =>
        { x with stamp := h.stamp, checksum := h.checksum, length := h.length, size := some (storedSize h.length) }) w).send
        (.mpOperationIssue ⟨.payloadRead b, x.ppn, x.offset + 16, padded h.length, []⟩) := by
  rw [DE.header_eq hx valid, if_neg (by rw [kind]; nofun), if_pos hq]

theorem DE.header_lower (hx : w.st.buffer b = x) (valid : ValidAt x.offset h) (kind : h.kind = .entry)
    (hr : x.redelivery = false) (hq : h.seq < x.seq) (room : x.offset + storedSize h.length ≤ 2032) :
    DE.header b i h w =
      DE.readHeader b (DE.changeBuffer b (fun y => { y with offset := x.offset + storedSize h.length }) w) := by
  rw [DE.header_eq hx valid, if_neg (by rw [kind]; nofun), if_neg (Nat.ne_of_lt hq), if_pos ⟨hq, hr⟩,
    if_pos room]

theorem DE.header_leaves (hx : w.st.buffer b = x) (leaves : LeavesPage x h) :
    DE.header b i h w = DE.cross b i x.lpn (DE.dropHold b w) := by
  obtain ⟨valid, first, why⟩ := leaves
  rw [DE.header_eq hx valid]
  by_cases pad : h.kind = .pad
  · rw [if_pos pad, if_neg (Bool.eq_false_iff.1 first)]
  · obtain ⟨lower, full⟩ := why.resolve_left pad
    rw [if_neg pad, if_neg (Nat.ne_of_lt lower), if_pos ⟨lower, first⟩, if_neg (Nat.not_le.2 full)]

theorem DE.header_unreachable (hx : w.st.buffer b = x) (lost : Unreachable x h) :
    DE.header b i h w = DE.unreachable b w := by
  by_cases valid : ValidAt x.offset h
  · rw [DE.header_eq hx valid]
    rcases lost.resolve_left (Classical.not_not.2 valid) with ⟨kind, higher⟩ | ⟨again, pad | ⟨kind, lower⟩⟩
    · rw [if_neg (by rw [kind]; nofun), if_neg (Nat.ne_of_gt higher), if_neg fun h => Nat.lt_asymm higher h.1]
    · rw [if_pos pad, if_pos again]
    · rw [if_neg (by rw [kind]; nofun), if_neg (Nat.ne_of_lt lower), if_neg fun h => Bool.eq_false_iff.1 h.2 again]
  · exact DE.header_invalid hx valid

theorem DE.payloadDone_unwanted (hx : w.st.buffer b = x) (hs : x.state = .reading) (hw : w.st.wanted x = false) :
    DE.payloadDone b bytes w = DE.endDelivery b w := by
  subst hx
  exact (if_neg (Classical.not_not.2 hs)).trans (if_pos (by rw [hw]; rfl))

/-- A buffer that has read its payload, DAMAGED where its CRC-16 is not the header's (R117). -/
def Buffer.loaded (bytes : List Byte) (x : Buffer) : Buffer :=
  if (crc16 bytes).toNat = x.checksum then { x with payload := bytes, damaged := false }
  else { x with payload := [], damaged := true }

theorem DE.payloadDone_wanted (hx : w.st.buffer b = x) (hs : x.state = .reading) (hw : w.st.wanted x = true) :
    DE.payloadDone b bytes w = DE.offer b (DE.changeBuffer b (Buffer.loaded (bytes.take x.length)) w) := by
  subst hx
  exact (if_neg (Classical.not_not.2 hs)).trans (if_neg (by rw [hw]; decide))

/-- A loaded buffer serves the same delivery (R117). -/
theorem Buffer.loaded_same (bytes : List Byte) (x : Buffer) :
    (x.loaded bytes).abandoned = x.abandoned ∧ (x.loaded bytes).cursor = x.cursor ∧
      (x.loaded bytes).redelivery = x.redelivery ∧ (x.loaded bytes).seq = x.seq ∧ (x.loaded bytes).stamp = x.stamp ∧
      droppedHold (x.loaded bytes) = droppedHold x := by
  unfold Buffer.loaded
  split <;> exact ⟨rfl, rfl, rfl, rfl, rfl, rfl⟩

end Read

end Sys2Proof.Machine

/-! SUPPORT. Sent deliveries, and the offers that stay or are withdrawn (R118 to R121). -/

namespace Sys2Proof.Machine

/-! ### A sent DELIVER (R120, R121) -/

section Sent

variable {b : BufId} {tick : Tick} {x : Buffer} {w : Work DE}

theorem DE.sent_eq (hx : w.st.buffer b = x) (hs : x.state = .sending) :
    DE.sent tick b w = DE.endDelivery b (DE.record tick x w) := by
  subst hx
  exact if_neg (Classical.not_not.2 hs)

theorem DE.dropped_eq (hx : w.st.buffer b = x) (hs : x.state = .sending) : DE.dropped b w = DE.endDelivery b w := by
  subst hx
  exact if_neg (Classical.not_not.2 hs)

theorem DE.taken_eq (hx : w.st.buffer b = x) (hs : x.state = .ready) :
    DE.taken b w = DE.changeBuffer b (fun x => { x with state := .sending }) w := by
  subst hx
  exact if_pos hs

theorem Cursor.entry_isSome_iff (c : Cursor) (q : Seq) : (c.entry q).isSome = true ↔ ∃ e ∈ c.list, e.seq = q := by
  simp [Cursor.entry, List.find?_isSome]

theorem Cursor.records_iff (c : Cursor) (x : Buffer) : c.records x = true ↔ Recorded c x := by
  unfold Cursor.records Recorded
  cases x.redelivery <;>
    simp [Cursor.entry_isSome_iff, and_assoc, or_assoc]

/-- The cursor after a recorded DELIVER, in the model's steps (R120, R121). -/
theorem afterSend_eq (tick : Tick) (x : Buffer) :
    (if x.redelivery then Cursor.recordAgain tick x else Cursor.recordFirst tick x) = afterSend tick x := by
  funext c
  unfold afterSend
  split <;> rfl

/-- What a recorded DELIVER that carried DAMAGED sends (R121). -/
def damageMessages (x : Buffer) (c : Cursor) : List Instr :=
  (match c.stream with
    | some i => [Instr.counterUpdate i .damaged]
    | none => []) ++ toOwner c fun o => ⟨.entryDamaged, none, some x.cursor, some x.seq, some o⟩

theorem afterSend_same (tick : Tick) (x : Buffer) (c : Cursor) : (afterSend tick x c).stream = c.stream ∧
    (afterSend tick x c).owner = c.owner ∧ (afterSend tick x c).endDue = c.endDue := by
  unfold afterSend
  split <;> exact ⟨rfl, rfl, rfl⟩

theorem damageMessages_congr {c d : Cursor} (hs : d.stream = c.stream) (ho : d.owner = c.owner) (he : d.endDue = c.endDue) :
    damageMessages x d = damageMessages x c := by
  unfold damageMessages
  rw [hs, toOwner_congr ho he]

theorem DE.recordDamage_eq (c : CursorId) (hc : x.cursor = c) (w : Work DE) :
    DE.recordDamage c x.seq w = (DE.change c oneDamaged w).sendAll (damageMessages x w.st.cursors[c]) := by
  subst hc
  have cursor := DE.change_cursor x.cursor oneDamaged w
  have told : DE.recordDamage x.cursor x.seq w = DE.raise x.cursor .entryDamaged (some x.seq)
      (match (DE.change x.cursor oneDamaged w).st.cursors[x.cursor].stream with
        | some s => (DE.change x.cursor oneDamaged w).send (.counterUpdate s .damaged)
        | none => DE.change x.cursor oneDamaged w) := rfl
  rw [told, cursor, DE.raise_eq]
  unfold damageMessages
  have stream : (oneDamaged w.st.cursors[x.cursor]).stream = w.st.cursors[x.cursor].stream := rfl
  rw [stream]
  cases w.st.cursors[x.cursor].stream with
  | some i => exact congrArg (Work.mk _) ((List.append_assoc _ _ _).trans (by rw [Work.send_st, cursor]; rfl))
  | none => exact congrArg (Work.mk _) (by rw [cursor]; rfl)

theorem DE.record_whole (h : Recorded w.st.cursors[x.cursor] x) (hd : x.damaged = false) :
    DE.record tick x w = DE.change x.cursor (afterSend tick x) w := by
  refine (if_pos ((Cursor.records_iff _ x).2 h)).trans ((if_neg (by rw [hd]; decide)).trans ?_)
  rw [afterSend_eq]

theorem DE.record_damaged (h : Recorded w.st.cursors[x.cursor] x) (hd : x.damaged = true) :
    DE.record tick x w = (DE.change x.cursor (fun c => oneDamaged (afterSend tick x c)) w).sendAll
      (damageMessages x w.st.cursors[x.cursor]) := by
  obtain ⟨stream, owner, due⟩ := afterSend_same tick x w.st.cursors[x.cursor]
  refine (if_pos ((Cursor.records_iff _ x).2 h)).trans ((if_pos hd).trans ?_)
  rw [afterSend_eq, DE.recordDamage_eq _ rfl, DE.change_change, DE.change_cursor, damageMessages_congr stream owner due]

theorem DE.record_unrecorded (h : ¬ Recorded w.st.cursors[x.cursor] x) : DE.record tick x w =
    if !x.abandoned && !x.redelivery && w.st.cursors[x.cursor].state = .stalled && w.st.cursors[x.cursor].ackSeq < x.seq then
      DE.change x.cursor (fun c => { c with deliveredTop := max c.deliveredTop x.seq }) w
    else w := if_neg (mt (Cursor.records_iff _ x).1 h)

theorem racedTheStall_iff (c : Cursor) (x : Buffer) :
    (!x.abandoned && !x.redelivery && c.state = .stalled && c.ackSeq < x.seq) = true ↔ RacedTheStall c x := by
  simp only [RacedTheStall, Bool.and_eq_true, Bool.not_eq_true', decide_eq_true_eq, and_assoc]

/-- A DELIVER that raced its cursor's stall is not recorded: the cursor is STALLED (R120). -/
theorem RacedTheStall.not_recorded {c : Cursor} (h : RacedTheStall c x) : ¬ Recorded c x := by
  obtain ⟨-, -, stalled, -⟩ := h
  rintro ⟨-, -, state, -⟩
  rw [stalled] at state
  simp at state

theorem DE.record_raced (h : RacedTheStall w.st.cursors[x.cursor] x) : DE.record tick x w =
    DE.change x.cursor (fun c => { c with deliveredTop := max c.deliveredTop x.seq }) w :=
  (DE.record_unrecorded h.not_recorded).trans (if_pos ((racedTheStall_iff _ x).2 h))

theorem DE.record_none (h : ¬ Recorded w.st.cursors[x.cursor] x) (hr : ¬ RacedTheStall w.st.cursors[x.cursor] x) :
    DE.record tick x w = w := (DE.record_unrecorded h).trans (if_neg (mt (racedTheStall_iff _ x).1 hr))

end Sent

/-! ### Offers (R118, R119) -/

section Offers

/-- The test of R118, by the first entry of the delivery's sequence. -/
theorem DE.wanted_iff (d : DE) (x : Buffer) : d.wanted x = true ↔ x.abandoned = false ∧ d.cursors[x.cursor].state = .active ∧
    (x.redelivery = false → d.cursors[x.cursor].nextSeq = x.seq) ∧
    (x.redelivery = true → ∃ before e after, d.cursors[x.cursor].list = before ++ e :: after ∧
      (∀ y ∈ before, y.seq ≠ x.seq) ∧ e.seq = x.seq ∧ e.due = true) := by
  have due : ((d.cursors[x.cursor].entry x.seq).any InFlight.due) = true ↔
      ∃ before e after, d.cursors[x.cursor].list = before ++ e :: after ∧ (∀ y ∈ before, y.seq ≠ x.seq) ∧ e.seq = x.seq ∧
        e.due = true := by
    simp only [Cursor.entry, Option.any_eq_true, List.find?_eq_some_iff_append, beq_iff_eq, Bool.not_eq_true', beq_eq_false_iff_ne]
    constructor
    · rintro ⟨e, ⟨same, before, after, list, earlier⟩, isDue⟩
      exact ⟨before, e, after, list, earlier, same, isDue⟩
    · rintro ⟨before, e, after, list, earlier, same, isDue⟩
      exact ⟨e, ⟨same, before, after, list, earlier⟩, isDue⟩
  unfold DE.wanted
  cases hr : x.redelivery with
  | false => simp [-Fin.getElem_fin, and_assoc]
  | true => simp [-Fin.getElem_fin, and_assoc, due]

/-- The test of R118 reads one cursor alone. -/
theorem DE.wanted_other {d e : DE} {x : Buffer} (h : e.cursors[x.cursor] = d.cursors[x.cursor]) :
    e.wanted x = d.wanted x := by
  simp only [DE.wanted, h]

/-- Every event at DE, the abandon order apart, is a step of DE that withdrawals and choices follow (R112, R119). -/
theorem exec_at_de {m : Instr} (hd : dstOf m = .core .de) (hm : m ≠ .abandonOrder .de) :
    ∃ f : State → Work DE → Work DE, ∀ s, exec m s = arrive m s fun t => t.onDe (f t) := by
  cases m with
  | abandonOrder k =>
    have same : k = .de := Block.core.inj hd
    exact absurd (congrArg Instr.abandonOrder same) hm
  | cursorOpen r => exact ⟨fun t => DE.cursorOpen r (t.body r), fun _ => rfl⟩
  | bindAnswer c a => exact ⟨fun _ => DE.bindAnswer c a, fun _ => rfl⟩
  | searchAnswer c a => exact ⟨fun _ => DE.searchAnswer c a, fun _ => rfl⟩
  | positionAnswer c h k => exact ⟨fun _ => DE.positionAnswer c h k, fun _ => rfl⟩
  | cursorSeek r => exact ⟨fun t => DE.cursorSeek r (t.body r), fun _ => rfl⟩
  | cursorPause r => exact ⟨fun t => DE.cursorPause r (t.body r), fun _ => rfl⟩
  | cursorResume r => exact ⟨fun t => DE.cursorResume r (t.body r), fun _ => rfl⟩
  | cursorClose r => exact ⟨fun t => DE.cursorClose r (t.body r), fun _ => rfl⟩
  | cursorAttach r => exact ⟨fun t => DE.cursorAttach r (t.body r), fun _ => rfl⟩
  | rebindAnswer c a => exact ⟨fun _ => DE.rebindAnswer c a, fun _ => rfl⟩
  | cursorInfo r => exact ⟨fun t => DE.cursorInfo r (t.body r), fun _ => rfl⟩
  | ack r => exact ⟨fun t => DE.ack r (t.body r), fun _ => rfl⟩
  | sessionEndAtDe sess => exact ⟨fun _ => DE.sessionEnd sess, fun _ => rfl⟩
  | deleteOrderAtDe i => exact ⟨fun _ => DE.deleteOrder i, fun _ => rfl⟩
  | commitReport i q => exact ⟨fun _ => DE.commitReport i q, fun _ => rfl⟩
  | sealedSettledReport i => exact ⟨fun _ => DE.settledReport i, fun _ => rfl⟩
  | lookupAnswer b a => exact ⟨fun _ => DE.lookupAnswer b a, fun _ => rfl⟩
  | trackerFreeReport => exact ⟨fun _ => DE.trackerFree, fun _ => rfl⟩
  | holdAnswer b a => exact ⟨fun _ => DE.holdAnswer b a, fun _ => rfl⟩
  | headerReadDone b bytes => exact ⟨fun _ => DE.headerDone b bytes, fun _ => rfl⟩
  | payloadReadDone b bytes => exact ⟨fun _ => DE.payloadDone b bytes, fun _ => rfl⟩
  | deliverTaken b => exact ⟨fun _ => DE.taken b, fun _ => rfl⟩
  | deliverSent b => exact ⟨fun t => DE.sent t.tb.tick b, fun _ => rfl⟩
  | deliverDropped b => exact ⟨fun _ => DE.dropped b, fun _ => rfl⟩
  | ackDeadlineExpiry c q tries => exact ⟨fun _ => DE.expiry c q tries, fun _ => rfl⟩
  | advanceOrder i m kind => exact ⟨fun _ => DE.advanceOrder i m kind, fun _ => rfl⟩
  | floorQuestion i => exact ⟨fun _ => DE.floorQuestion i, fun _ => rfl⟩
  | returnedCursorGap c gap sess => exact ⟨fun _ => DE.returnedGap c gap sess, fun _ => rfl⟩
  | _ => cases hd

theorem takenOffers_contains {ws : List Wire} {b : BufId} :
    (takenOffers ws).contains b = true ↔ ∃ w ∈ ws, w.msg = .deliverTaken b := by
  rw [List.contains_iff_mem, mem_takenOffers]

theorem takenOffers_not_contains {ws : List Wire} {b : BufId} (h : ∀ w ∈ ws, w.msg ≠ .deliverTaken b) :
    (takenOffers ws).contains b = false := by
  rw [← Bool.not_eq_true, takenOffers_contains]
  rintro ⟨w, hw, taken⟩
  exact h w hw taken

/-- An offer that has not been taken, and is not wanted, is withdrawn (R119). -/
theorem follow_withdraws {env : DeEnv} {b : BufId} {w : Work DE} (ht : env.taken.contains b = false)
    (hr : (w.st.buffer b).state = .ready) (hw : w.st.wanted (w.st.buffer b) = false) :
    AfterDelivery ((DE.follow env w).st.buffer b) := by
  have idle := withdraw_buffer env b w ht
  rw [if_pos ⟨hr, hw⟩] at idle
  exact choose_ended b _ (by rw [idle]; exact ⟨.inl rfl, rfl, rfl⟩)

/-- An offer that has been taken stays (R119). -/
theorem follow_taken {env : DeEnv} {b : BufId} {w : Work DE} (ht : env.taken.contains b = true)
    (hr : (w.st.buffer b).state = .ready) : Untouched b w (DE.follow env w) := by
  have kept : (DE.withdraw env w).st.buffer b = w.st.buffer b := withdraw_taken env b w ht
  exact (choose_untouched b _ (by rw [kept, hr]; nofun)).trans kept

end Offers

end Sys2Proof.Machine

/-! The statement about delivery buffers. -/

section
open Sys2Proof Sys2Proof.Machine

/-- Settles O42: each answer and read by the step that it makes at the buffer; the reports by what is recorded; the offers by the
withdrawals. -/
theorem deliveryBufferResults : Obligations.DeliveryBufferResults := by
  refine ⟨⟨fun b i x s t hx hw hi => ?_, fun b c x s t h hx hw hc => ?_, fun b x s t h hx hw hs => ?_⟩,
    fun b x s t hx => ⟨fun h hs => ?_, fun h hs => ?_, fun h hs => ?_⟩, DE.wanted_iff,
    fun m b s t u h hd hm step untaken ready => ?_, fun r c b s t h hb hw ho hs ready => ?_⟩
  · have start : AtWork b t.de x [] (Work.start t.de) := AtWork.start hx
    refine ⟨fun lpn rec h hs => ⟨fun reaches => ?_, fun crossing lost => ?_⟩, fun a h hs ha => ?_, fun h hs => ?_,
      fun a h hs ha => ?_, fun bytes header h hs bytesOf => ⟨fun valid kind target => ?_,
        fun valid kind first lower room => ?_, fun leaves => ?_, fun lost => ?_⟩, fun bytes h hs => ?_⟩
    · have found := (DE.lookupAnswer_found (w := Work.start t.de) (lpn := lpn) (rec := rec) hx hs hw hi).trans
        (DE.found_holds hx reaches)
      have asks := (start.change fun x =>
        { x with lpn := lpn, ppn := rec.ppn, offset := if x.locate = .page then x.offset else 0 }).askHold i
      exact exec_de_works (f := fun _ => DE.lookupAnswer b (.found lpn rec)) h rfl (found ▸ asks) nofun (.inl nofun)
    · obtain ⟨u, step, only, cursors, -, ended, -⟩ := exec_de_ends (f := fun _ => DE.lookupAnswer b (.found lpn rec)) h rfl
        ((DE.lookupAnswer_found (w := Work.start t.de) (lpn := lpn) (rec := rec) hx hs hw hi).trans
          (DE.found_lost hx crossing lost))
      subst hx
      exact ⟨u, step, only, cursors, ended⟩
    · by_cases retry : a = .retry
      · subst retry
        obtain ⟨u, step, only, cursors, deferred, ended, -⟩ := exec_de_ends (f := fun _ => DE.lookupAnswer b .retry) h rfl
          (DE.lookupAnswer_retry (w := Work.start t.de) hx hs hw)
        exact ⟨u, step, only, cursors, deferred, ended⟩
      · obtain ⟨u, step, only, cursors, deferred, ended, -⟩ := exec_de_ends (f := fun _ => DE.lookupAnswer b a) h rfl
          (DE.lookupAnswer_other (w := Work.start t.de) hx hs hw ha retry)
        exact ⟨u, step, only, cursors, deferred.trans (if_neg retry).symm, ended⟩
    · have reads := (start.change fun x => { x with hold := true }).readHeader
      exact exec_de_works (f := fun _ => DE.holdAnswer b .granted) h rfl
        (DE.holdAnswer_granted (w := Work.start t.de) hx hs hw ▸ reads) nofun (.inl nofun)
    · obtain ⟨u, step, only, cursors, -, ended, -⟩ := exec_de_ends (f := fun _ => DE.holdAnswer b a) h rfl
        (DE.holdAnswer_refused (w := Work.start t.de) hx hs hw ha)
      refine ⟨u, step, only, ended, ?_⟩
      subst hx
      rw [cursors]
      split <;> rfl
    · subst bytesOf
      have reads := (start.change fun x => { x with
        stamp := (headerOf bytes).stamp, checksum := (headerOf bytes).checksum, length := (headerOf bytes).length
        size := some (storedSize (headerOf bytes).length) }).send
          (.mpOperationIssue ⟨.payloadRead b, x.ppn, x.offset + 16, padded (headerOf bytes).length, []⟩)
      have header := (DE.headerDone_wanted (w := Work.start t.de) (bytes := bytes) hx hs hw hi).trans
        (DE.header_target hx valid kind target)
      exact exec_de_works (f := fun _ => DE.headerDone b bytes) h rfl (header ▸ reads) (by rw [hs]; nofun)
        (.inl (by rw [hs]; nofun))
    · subst bytesOf
      have reads := (start.change fun y => { y with offset := x.offset + storedSize (headerOf bytes).length }).readHeader
      have header := (DE.headerDone_wanted (w := Work.start t.de) (bytes := bytes) hx hs hw hi).trans
        (DE.header_lower hx valid kind first lower room)
      rw [← hs] at reads
      exact exec_de_works (f := fun _ => DE.headerDone b bytes) h rfl (header ▸ reads) (by rw [hs]; nofun)
        (.inl (by rw [hs]; nofun))
    · subst bytesOf
      have header := (DE.headerDone_wanted (w := Work.start t.de) (bytes := bytes) hx hs hw hi).trans
        (DE.header_leaves hx leaves)
      exact exec_de_works (f := fun _ => DE.headerDone b bytes) h rfl (header ▸ start.dropHold.cross i x.lpn) nofun (.inl nofun)
    · subst bytesOf
      have header := (DE.headerDone_wanted (w := Work.start t.de) (bytes := bytes) hx hs hw hi).trans
        (DE.header_unreachable hx lost)
      have offers := (start.change fun x => { x with damaged := true, stamp := 0, payload := [], size := none }).offer
      exact exec_de_works (f := fun _ => DE.headerDone b bytes) h rfl (header ▸ offers) nofun
        (.inr ((DE.wanted_same rfl rfl rfl rfl).trans hw))
    · have offers := (start.change (Buffer.loaded (bytes.take x.length))).offer
      obtain ⟨abandoned, cursor, redelivery, seq, stamp, hold⟩ := Buffer.loaded_same (bytes.take x.length) x
      rw [hold, ← DE.payloadDone_wanted (w := Work.start t.de) hx hs hw] at offers
      obtain ⟨u, step, only, cursors, buffer, sent⟩ := exec_de_works (f := fun _ => DE.payloadDone b bytes) h rfl offers nofun
        (.inr ((DE.wanted_same abandoned cursor redelivery seq).trans hw))
      refine ⟨u, step, only, cursors, ?_⟩
      rw [buffer]
      refine ⟨rfl, rfl, stamp, seq, fun same => ?_, fun differs => ?_, sent⟩
      · have loaded : x.loaded (bytes.take x.length) = { x with payload := bytes.take x.length, damaged := false } := if_pos same
        rw [loaded]
        exact ⟨rfl, rfl⟩
      · have loaded : x.loaded (bytes.take x.length) = { x with payload := [], damaged := true } := if_neg differs
        rw [loaded]
        exact ⟨rfl, rfl⟩
  · have ends : ∃ f : State → Work DE → Work DE, (exec c s = arrive c s fun t => t.onDe (f t)) ∧
        f t (Work.start t.de) = DE.endDelivery b (Work.start t.de) := by
      rcases hc with ⟨⟨a, rfl⟩, hs⟩ | ⟨⟨a, rfl, ha⟩, hs⟩ | ⟨⟨bytes, rfl | rfl⟩, hs⟩
      · exact ⟨fun _ => DE.lookupAnswer b a, rfl, DE.lookupAnswer_unwanted hx hs hw⟩
      · exact ⟨fun _ => DE.holdAnswer b a, rfl, DE.holdAnswer_refused_unwanted hx hs hw ha⟩
      · exact ⟨fun _ => DE.headerDone b bytes, rfl, DE.headerDone_unwanted hx hs hw⟩
      · exact ⟨fun _ => DE.payloadDone b bytes, rfl, DE.payloadDone_unwanted hx hs hw⟩
    obtain ⟨f, meaning, ends⟩ := ends
    obtain ⟨u, step, only, cursors, -, ended, sent⟩ := exec_de_ends h meaning ends
    subst hx
    exact ⟨u, step, only, cursors, ended, sent⟩
  · obtain ⟨u, step, only, cursors, -, ended, sent⟩ := exec_de_ends (f := fun _ => DE.holdAnswer b .granted) h rfl
      (DE.holdAnswer_granted_unwanted (w := Work.start t.de) hx hs hw)
    rw [DE.buffer_changeBuffer_self] at sent
    subst hx
    exact ⟨u, step, only, cursors, ended, sent⟩
  · have sending := (AtWork.start (d := t.de) hx).change fun x => { x with state := .sending }
    rw [← DE.taken_eq (w := Work.start t.de) hx hs] at sending
    obtain ⟨u, step, only, cursors, buffer, -⟩ := exec_de_works (f := fun _ => DE.taken b) h rfl sending nofun (.inl nofun)
    exact ⟨u, step, only, cursors, buffer⟩
  · obtain ⟨u, step, only, cursors, -, ended, sent⟩ := exec_de_ends (f := fun t => DE.sent t.tb.tick b) h rfl
      (DE.sent_eq (w := Work.start t.de) hx hs)
    refine ⟨u, step, only, ended, fun recorded => ⟨fun whole => ?_, fun damaged => ?_⟩, fun raced => ?_,
      fun unrecorded unraced => ?_⟩
    · rw [cursors, DE.record_whole (w := Work.start t.de) recorded whole]
      rfl
    · have record := DE.record_damaged (tick := t.tb.tick) (w := Work.start t.de) recorded damaged
      rw [record] at cursors sent
      exact ⟨cursors, sent.front ⟨_, rfl⟩⟩
    · rw [cursors, DE.record_raced (w := Work.start t.de) raced]
      rfl
    · rw [cursors, DE.record_none (w := Work.start t.de) unrecorded unraced]
      rfl
  · obtain ⟨u, step, only, cursors, -, ended, -⟩ := exec_de_ends (f := fun _ => DE.dropped b) h rfl
      (DE.dropped_eq (w := Work.start t.de) hx hs)
    exact ⟨u, step, only, cursors, ended⟩
  · obtain ⟨f, meaning⟩ := exec_at_de hd hm
    have next : u = t.onDe (f t) := Host.Outcome.next.inj (step.symm.trans ((meaning s).trans (arrive_takes h _)))
    subst next
    rw [State.onDe_de] at ready ⊢
    exact follow_wanted (takenOffers_not_contains untaken) ready
  · obtain ⟨held, kept⟩ := CursorState.bound_ne (z := t.de.cursors[c].state) (by rw [hs]; rfl)
    have pauses := (DE.cursorPause_now (w := Work.start t.de) hb hw ho held kept).trans (DE.pauseNow_pauses (.inl hs))
    have paused := DE.change_cursor c (fun x => { x with state := .paused }) (Work.start t.de)
    refine ⟨_, arrive_takes h _, fun same untaken => ?_, fun same taken => ?_, fun other wanted => ?_⟩
    · rw [State.onDe_de, pauses]
      refine follow_withdraws (takenOffers_not_contains untaken) ready ?_
      rw [← Bool.not_eq_true, DE.wanted_iff]
      rintro ⟨-, active, -⟩
      subst same
      exact absurd ((congrArg Cursor.state paused).symm.trans active) nofun
    · rw [State.onDe_de, pauses]
      exact follow_taken (takenOffers_contains.2 taken) ready
    · rw [State.onDe_de, pauses]
      refine follow_untouched _ b _ (fun idle => absurd (ready.symm.trans idle) nofun) (.inr ?_)
      exact (DE.wanted_other (upd_ne _ _ other)).trans wanted
end
